-- ==== Sys2Proof/Word.lean ====
section
/-! DEFINITION. The widths the manual fixes (00_scope.md R2, R3): words, bytes, doublewords and lane masks.
A lane mask has 128 bits because a declared troupe has at most 128 lanes (01 R11). -/

namespace Sys2Proof

/-- A 32-bit register value (R3, R95). -/
abbrev Word := BitVec 32
/-- A byte of memory (R2). -/
abbrev Byte := BitVec 8
/-- A 64-bit value: an instruction word, an address pair, a special register of 64 bits (R3, R66). -/
abbrev DWord := BitVec 64
/-- One bit per lane of a declared troupe, lane 0 lowest (R4, R24). -/
abbrev Lanes := BitVec 128

/-- The value of a bit as a one-bit natural number. -/
def bit (b : Bool) : Nat := if b then 1 else 0

end Sys2Proof
end

