-- ==== Sys2Proof/Syntax.lean ====
section
/-! DEFINITION. The instructions and events of the machine, whole: one constructor of `Instr` for each row of
spec/opcode_table.json. Rows 0 to 148 are what an instruction word asks for; they carry the fields of the word in the
manual's own shape (03_instruction_words.md R72, R73, R82). The other rows are steps of the other agents; they
carry what names the agent, or what the outside world sends. -/

namespace Sys2Proof

/-- Operand class of a source field, bits [12:11] (R73). -/
inductive OpClass where
  | v | s | latch | imm
  deriving DecidableEq, Repr

/-- Modifier of a source field, bits [2:0] (R74). -/
inductive Modifier where
  | none | neg | abs | nabs | lo | hi | swp | bsw
  deriving DecidableEq, Repr

/-- A 13-bit source field (R73): class, number, modifier. With class `imm` the number and modifier bits together
are the 11-bit immediate (R76). -/
structure Src where
  cls : OpClass
  num : BitVec 8
  mod : Modifier
  deriving DecidableEq, Repr

/-- Guard predicate and its negation, bits [51:48] (R72, R81). -/
structure Guard where
  neg : Bool
  p   : BitVec 3
  deriving DecidableEq, Repr

/-- An extension word whose reserved bits [60:32] are zero (R77). -/
structure Ext where
  e     : Bool
  value : Word
  deriving DecidableEq, Repr

/-- The fields of a single-op word (R72), with the extension word that is part of the instruction (R77).
src C stays the 13-bit field, since most ops use it as their function field (R78). -/
structure Op where
  e     : Bool
  guard : Guard
  w     : Bool
  dst   : BitVec 8
  a     : Src
  b     : Src
  c     : BitVec 13
  ext   : Option Ext
  deriving DecidableEq, Repr

/-- The compact opcodes of pair words (R83). -/
inductive CompactOp where
  | add | sub | mul | min | max | minN | maxN | and | or | xor | shl | shr | sar | mov
  | fadd | fsub | fmul | fmin | fmax | hadd2
  deriving DecidableEq, Repr

/-- One compact op of a pair word: all fields name v registers (R82). -/
structure Compact where
  op  : CompactOp
  dst : BitVec 8
  a   : BitVec 8
  b   : BitVec 8
  deriving DecidableEq, Repr

/-- A pair word (R82). -/
structure Pair where
  e : Bool
  x : Compact
  y : Compact
  deriving DecidableEq, Repr

/-- Names a troupe: its resident cluster, its block f2 and its index f1 in the block (R11, R14). -/
structure TRef where
  cluster : Nat
  block   : Nat
  troupe  : Nat
  deriving DecidableEq, Repr

/-- Names an act of a block by its number (R272). -/
structure ActRef where
  cluster : Nat
  block   : Nat
  act     : Nat
  deriving DecidableEq, Repr

/-- Names a collective binding of a launch on this module (R353). -/
structure BindRef where
  launch : Nat
  index  : Nat
  deriving DecidableEq, Repr

/-- The header of a host command (R430); the kind is the constructor. `len` is LEN in units of 64 bytes. -/
structure Cmd where
  seq : Word
  ctx : Nat
  len : Nat
  deriving DecidableEq, Repr

/-- The fields of a collective notify (R382); KIND is the constructor that carries it. `reservedOk` says that the
reserved fields are zero and KIND is not 3. -/
structure Notify where
  cid        : Nat
  chunk      : Nat
  rank       : Nat
  wire       : Nat
  spois      : Bool
  epoch      : Nat
  reservedOk : Bool
  pmap       : BitVec 64
  rxbase     : DWord
  txbase     : DWord
  amax       : Word
  sticky     : Word
  nchunk     : Nat
  op         : Nat
  rnd        : BitVec 3
  fit        : Bool
  seedc      : DWord
  pdig       : List Byte
  bins       : List Nat
  deriving DecidableEq, Repr

/-- Where an uncorrectable error strikes (R212, R223, R270, R407, R437, R448): a sector or a sideband in HBM4E, a sector in a
cache, a byte of a staging slot, an arena word, a tile element, a pattern byte, or a context's saved state, queues or
dependence entries. -/
inductive ErrorSite where
  | sector (pa : Nat)
  | sideband (line : Nat)
  | cached (pa : Nat)
  | stagingByte (slot offset : Nat)
  | arenaWord (cluster block offset : Nat)
  | tileElement (cluster block tile row col : Nat)
  | patternByte (cluster block offset : Nat)
  | contextState (ctx : Nat)
  deriving DecidableEq, Repr

/-- A host or peer access to device memory: a load of `n` bytes or a store of bytes (R257, R201). -/
inductive MemAccess where
  | load (pa n : Nat)
  | store (pa : Nat) (bytes : List Byte)
  | slotStore (slot offset : Nat) (bytes : List Byte)
  deriving DecidableEq, Repr

/-- What READ_STATE asks for (R434): a snapshot of a dependence entry (R355, R357), or the counters of a core or of a
troupe (R375). -/
inductive Selector where
  | dependence (entry : Nat)
  | counters (core : Nat)
  | troupeCounters (r : TRef)
  deriving DecidableEq, Repr

/-- What a debugger writes into a parked troupe's context before it resumes it (R109, R403): cells of v registers by register
and lane, s registers, predicates, tag bytes by register and byte, images of fibre registers (08 R182), latches by
number with their values, tag bytes and uniform mark, the count k of result-producing ops, the rounding of CTL, SEED, AMAX,
STICKY, PROG, the trap registers, and the frontier by PC, priority and lane mask. -/
structure DebugWrite where
  vregs : List (Nat × Nat × Word)
  sregs : List (Nat × Word)
  preds : List (Nat × Lanes)
  tags  : List (Nat × Nat × Byte)
  fibres : List (Nat × Nat)
  latches : List (Nat × Option (List Word × List Byte × Bool))
  rnd   : Option (BitVec 3)
  seed  : Option DWord
  amax  : Option Word
  sticky : Option Word
  prog  : Option Word
  tmask : Option Lanes
  tcause : Option Word
  tpc   : Option DWord
  tval  : Option DWord
  k     : Option Nat
  frontier : Option (List (DWord × Nat × Lanes))
  deriving DecidableEq, Repr

/-- The place of a part of a ZCO segment (R440) and its data. -/
structure ObjectPart where
  handle : DWord
  seg    : Nat
  off    : Nat
  last   : Bool
  codeva : Nat
  reservedOk : Bool
  data   : List Byte
  deriving DecidableEq, Repr

/-- Instructions and events: one constructor per row of the opcode table, in its order. -/
inductive Instr where
  -- control (05 R110)
  | bra (o : Op) | brc (o : Op) | brx (o : Op) | call (o : Op) | ret (o : Op)
  | exit (o : Op) | yieldRun (o : Op) | nop (o : Op)
  -- integer and address (05 R123)
  | add (o : Op) | sub (o : Op) | addc (o : Op) | mul (o : Op) | mulh (o : Op) | mad (o : Op)
  | idiv (o : Op) | irem (o : Op) | min (o : Op) | max (o : Op) | abs (o : Op) | neg (o : Op)
  | lea (o : Op) | mov (o : Op) | movi (o : Op) | i2i (o : Op)
  -- logical and bit field (05 R130)
  | and (o : Op) | or (o : Op) | xor (o : Op) | not (o : Op)
  | shl (o : Op) | shr (o : Op) | sar (o : Op) | rot (o : Op)
  | clz (o : Op) | popc (o : Op) | brev (o : Op) | bfx (o : Op) | bfi (o : Op) | sel (o : Op)
  -- compare and predicate (05 R135, R136)
  | cmp (o : Op) | pand (o : Op) | por (o : Op) | pxor (o : Op) | pnot (o : Op) | pmov (o : Op)
  -- floating point (06 R141)
  | fadd (o : Op) | fsub (o : Op) | fmul (o : Op) | fma (o : Op) | fmin (o : Op) | fmax (o : Op)
  | fabs (o : Op) | fneg (o : Op) | fcmp (o : Op) | fclass (o : Op) | frnd (o : Op) | fcvt (o : Op)
  | f2i (o : Op) | i2f (o : Op) | hfma2 (o : Op) | hadd2 (o : Op) | bfma2 (o : Op)
  -- block-aware (06 R151)
  | bmax (o : Op) | bscale (o : Op) | bquant (o : Op) | bdeq (o : Op) | brescale (o : Op)
  | dot4 (o : Op) | dot8 (o : Op) | dot2h (o : Op) | amaxrd (o : Op) | amaxclr (o : Op)
  -- special function (06 R160)
  | exb (o : Op) | lg2 (o : Op) | rcp (o : Op) | rsq (o : Op) | sqt (o : Op)
  | sin (o : Op) | cos (o : Op) | tanh (o : Op)
  -- cross-lane (07 R166)
  | shfl (o : Op) | vote (o : Op) | ballot (o : Op) | scan (o : Op) | vred (o : Op)
  | confl (o : Op) | matchLanes (o : Op) | perm (o : Op)
  -- fibre (08 R184)
  | fbopen (o : Op) | fbisect (o : Op) | fbunion (o : Op) | fbnext (o : Op) | fbskip (o : Op)
  | fbpos (o : Op) | fbend (o : Op) | fbclose (o : Op) | fbsave (o : Op) | fbrstr (o : Op)
  -- global memory (11 R244)
  | ld (o : Op) | st (o : Op) | ldb (o : Op) | stb (o : Op) | ldsc (o : Op) | ldg (o : Op) | stg (o : Op)
  | atom (o : Op) | red (o : Op) | fence (o : Op) | pref (o : Op) | cctl (o : Op)
  -- arena (10 R233)
  | lda (o : Op) | sta (o : Op) | ldab (o : Op) | stab (o : Op) | atoma (o : Op) | turn (o : Op) | rgq (o : Op)
  -- matrix (12 R283)
  | mconv (o : Op) | mdisb (o : Op) | mfence (o : Op) | mma (o : Op) | mmaSp (o : Op) | mmaG (o : Op)
  | mloop (o : Op) | accz (o : Op) | accld (o : Op) | accst (o : Op) | patld (o : Op)
  -- copy and queues (13 R311; 14 R326 to R342)
  | copy (o : Op) | copyg (o : Op) | copys (o : Op) | mcommit (o : Op) | mwait (o : Op)
  | tclaim (o : Op) | launch (o : Op) | sleep (o : Op)
  -- counters (16 R361)
  | tbinit (o : Op) | tbexpect (o : Op) | tbarrive (o : Op) | tbwait (o : Op) | tbtest (o : Op)
  | bara (o : Op) | barw (o : Op) | cntrd (o : Op)
  -- system (18 R402)
  | trap (o : Op) | rett (o : Op) | bkpt (o : Op) | sread (o : Op) | swrite (o : Op)
  -- pair words (03 R82)
  | pairWord (p : Pair)
  -- issue, late results, memory pipeline
  | issueSlotGrant (core quadrant : Nat)
  | lateResult (r : TRef)
  | sfuResult (r : TRef)
  | sfuEntryFree (r : TRef)
  | missStatusEntryFree (r : TRef)
  | lineFill (core sector : Nat)
  | tableWalk (core ctx : Nat) (va : DWord)
  | invalidationComplete (ctx : Nat)
  | mfenceRelease (r : TRef)
  -- turns and the matrix engine
  | turnSwap (cluster block index : Nat)
  | matrixStep (a : ActRef)
  | sparseStep (a : ActRef)
  | acczPerform (a : ActRef)
  | accstPerform (a : ActRef)
  | patldPerform (a : ActRef)
  | batchQueueSlotFree (r : TRef)
  | mwaitRelease (r : TRef)
  -- copies, barriers, sleeps, launch queues
  | copyQueueEntryFree (r : TRef)
  | copyUnitSettled (core copy unit : Nat)
  | copyRemoteFault (core copy row : Nat)
  | tbwaitRelease (r : TRef)
  | barwRelease (r : TRef)
  | sleepExpiry (r : TRef)
  | launchQueueRoom (r : TRef)
  -- the ringmaster
  | launchAdmission
  | bindingReservation (launch : Nat)
  | clusterPlacement
  | placementSkipLimit (launch : Nat)
  | preemption (cluster : Nat)
  | contextSave (cluster : Nat)
  | blockExitPoint (cluster block : Nat)
  | clusterRetirement (cluster : Nat)
  | launchRetirement (launch : Nat)
  | launchQuiescent (launch : Nat)
  -- collectives
  | chunkFire (b : BindRef) (chunk : Nat)
  | readyNotify (n : Notify)
  | contributionNotify (n : Notify)
  | resultNotify (n : Notify)
  | reduceDispatch (b : BindRef) (chunk : Nat)
  | reduceResult (b : BindRef) (chunk : Nat)
  | bindingComplete (b : BindRef)
  | fabricWriteFailure (b : BindRef)
  -- recording
  | recordCheckpoint (launch : Nat)
  | logBufferFull (launch : Nat)
  -- host commands (22 R434)
  | hostLaunch (h : Cmd) (queue : Nat) (record : List Byte)
  | heldLaunchAccept
  | ctxCreate (h : Cmd) (l1 : Nat) (pager : Bool)
  | ctxDestroy (h : Cmd)
  | bindQueue (h : Cmd) (queue : Nat)
  | invalidate (h : Cmd)
  | pagerResolved (h : Cmd) (report : Word)
  | pagerDeliver (h : Cmd) (report : Word)
  | pagerAbort (h : Cmd) (report : Word)
  | preempt (h : Cmd) (arrival : Word)
  | debugAttach (h : Cmd)
  | debugDetach (h : Cmd)
  | recordCmd (h : Cmd) (interval : Nat) (addr size : Nat)
  | readState (h : Cmd) (sel : Selector)
  | objectLoad (h : Cmd) (part : ObjectPart)
  | attest (h : Cmd) (nonce : List Byte)
  | resend (h : Cmd) (n : Word)
  /-- A segment of an image (R447): with the last one come the SVN and the two signatures, with another none. -/
  | fwUpdate (h : Cmd) (svn : Option Nat) (image sigE sigL : List Byte)
  | reservedCommand (h : Cmd)
  | outOfSequenceCommand (h : Cmd)
  -- the module and its surroundings
  | moduleReset (member : Nat) (stages : List (List Byte)) (badSlices : List (Nat × Nat))
  | clockStepDown (mhz : Nat)
  | clockStepUp
  | hbmChannelFence (channel : Nat)
  | coolantOverLimit
  | uncorrectableError (site : ErrorSite)
  | inletWithinLimits
  | debuggerResume (r : TRef) (writes : DebugWrite)
  | replay (launch : Nat) (checkpoint : Nat) (upTo : Option (TRef × Nat))
  | hostAccess (m : MemAccess)
  | remoteModuleAccess (m : MemAccess)
  deriving DecidableEq, Repr

end Sys2Proof
end

