-- ==== Sys2Proof/Machine/Fields.lean ====
section
/-! DEFINITION. The field rules of instruction words: those that do not depend on the state of the
troupe (03 R72 to R84 and the encoding rule of each class: R110, R123, R130, R135, R136, R141, R151, R160, R166, R184,
R233, R244, R283, R311, R326 to R342, R361, R402). A word that breaks one traps ILLEGAL_OP or ILLEGAL_PAIR (R89). What
depends on the state is checked when the instruction issues: a v register at or above the kernel's count (R19), the
destination of a uniform op (R80) and an unset latch (R87). -/

namespace Sys2Proof

/-! ## Fields -/

namespace OpClass

/-- The two class bits (R73). -/
def code : OpClass → BitVec 2
  | v => 0 | s => 1 | latch => 2 | imm => 3

def ofBits (b : BitVec 2) : OpClass :=
  if b = 0 then v else if b = 1 then s else if b = 2 then latch else imm

end OpClass

namespace Modifier

/-- The three modifier bits (R74). -/
def code : Modifier → BitVec 3
  | none => 0 | neg => 1 | abs => 2 | nabs => 3 | lo => 4 | hi => 5 | swp => 6 | bsw => 7

def ofBits (b : BitVec 3) : Modifier :=
  if b = 0 then none else if b = 1 then neg else if b = 2 then abs else if b = 3 then nabs
  else if b = 4 then lo else if b = 5 then hi else if b = 6 then swp else bsw

/-- Modifiers 0b001 to 0b011. -/
def isSign : Modifier → Bool
  | neg => true | abs => true | nabs => true | _ => false

end Modifier

namespace Src

/-- The 13 bits of a source field (R73). -/
def code (x : Src) : BitVec 13 := x.cls.code ++ x.num ++ x.mod.code

def ofBits (b : BitVec 13) : Src :=
  ⟨OpClass.ofBits (b.extractLsb' 11 2), b.extractLsb' 3 8, Modifier.ofBits (b.extractLsb' 0 3)⟩

/-- The 11-bit immediate (R76). -/
def imm11 (x : Src) : BitVec 11 := x.num ++ x.mod.code

/-- A field of all zero bits. -/
def isZero (x : Src) : Bool := decide (x = ⟨.v, 0, .none⟩)

/-- An immediate operand. -/
def isImm (x : Src) : Bool := decide (x.cls = .imm)

end Src

namespace Op

/-- src C as a source field (R72). -/
def srcC (o : Op) : Src := Src.ofBits o.c

/-- The guard is p7, not negated (R80). -/
def guardP7 (o : Op) : Bool := !o.guard.neg && decide (o.guard.p = 7)

/-- Whether the run ends after the op: its own E bit, or that of its extension word (R77). -/
def endsRun (o : Op) : Bool :=
  match o.ext with
  | some x => x.e
  | none => o.e

end Op

/-! ## Types -/

/-- Width in bits of an element of a type code (R79, R120, R138). -/
def typeBits (t : Nat) : Nat :=
  if t = 1 || t = 2 then 8 else if t = 3 || t = 4 then 16 else if t = 7 || t = 8 then 64
  else if t = 9 || t = 10 then 16 else 32

/-- The signed integer type codes. -/
def typeSigned (t : Nat) : Bool := t = 1 || t = 3 || t = 5 || t = 7
/-- The float type codes that lanes compute with. -/
def typeFloat (t : Nat) : Bool := t = 9 || t = 10 || t = 11
/-- The 64-bit integer type codes. -/
def type64 (t : Nat) : Bool := t = 7 || t = 8
/-- The type codes of the MX formats. -/
def typeMx (t : Nat) : Bool := 12 ≤ t && t ≤ 17

/-! ## Function fields -/

/-- The subfields of a function field (R79). -/
def fnRnd (f : BitVec 13) : BitVec 3 := f.extractLsb' 10 3
def fnType (f : BitVec 13) : Nat := (f.extractLsb' 5 5).toNat
def fnPolicy (f : BitVec 13) : Nat := (f.extractLsb' 3 2).toNat
def fnScope (f : BitVec 13) : Nat := (f.extractLsb' 0 3).toNat
/-- The variant field of the cross-lane ops (R166). -/
def fnVariant (f : BitVec 13) : Nat := (f.extractLsb' 0 5).toNat

/-- How an op of classes 0x1 to 0x7 treats its rounding subfield (R79, R139). -/
inductive RndUse where
  /-- It rounds with the subfield: 0b101 and 0b110 are reserved. -/
  | yes
  /-- It does not: only 0b000 and 0b111 are accepted. -/
  | no
  deriving DecidableEq, Repr

def RndUse.ok : RndUse → BitVec 3 → Bool
  | .yes, r => r ≠ 5 && r ≠ 6
  | .no, r => r = 0 || r = 7

/-- The legal variants of a cross-lane op under its type (R166). -/
def variantOk (code : Nat) (t v : Nat) : Bool :=
  match code with
  | 0x0E0 => v < 4
  | 0x0E1 => v < 3
  | 0x0E2 => v < 2
  | 0x0E3 => v % 8 < 6 && (t ≠ 11 || v % 8 < 3)
  | 0x0E4 => v % 16 < 6 && (t ≠ 11 || v % 8 < 3)
  | 0x0E5 => v = 0
  | 0x0E6 => v < 2
  | 0x0E7 => v < 4
  | _ => v = 0

/-! ## Operand forms of classes 0x1 to 0x7 -/

/-- What a source field of classes 0x1 to 0x7 holds. -/
inductive Form where
  /-- Must be all zero. -/
  | zero
  /-- A value of the operation type; `arith` allows modifiers 0b001 to 0b011 on signed and float types. -/
  | value (arith : Bool)
  /-- A value of the integer type `ts`, whatever the operation type (R129). -/
  | typed (ts : Nat)
  /-- A 32-bit value, whatever the type; `arith` as above. -/
  | word (arith : Bool)
  /-- An FP32 value, whatever the type (R149, R150). -/
  | f32
  /-- A v register or a latch holding MX elements, with the modifiers of its type (R148). -/
  | mx
  /-- A 64-bit address in a pair, with no modifier (R127; log entry 31). -/
  | addr
  /-- A predicate (R75). -/
  | pred
  /-- A v register or a latch holding MX elements or one FP32 per lane, with no modifier (R150). -/
  | elems
  /-- A group of 2^k v registers, aligned to its size (R150). -/
  | group (k : Nat)
  /-- A v register or a latch with a modifier of a 32-bit type, for an op that is not bitwise where `arith` holds (R74, R167). -/
  | lanes (arith : Bool)
  /-- An s register or an immediate, read in the integer type `t` (R156, R171). -/
  | scalar (t : Nat)
  /-- An 11-bit immediate or an extension word whose value lies below 2^k (R151). -/
  | opt (k : Nat)
  /-- Checked with the whole op. -/
  | own
  deriving DecidableEq, Repr

/-- An immediate with an extension word holds number 0 and modifier 0; without one it stands only in src B (R76). -/
def immOk (inB ext : Bool) (x : Src) : Bool :=
  if ext then x.num = 0 && x.mod = .none else inB

/-- A register operand of 32 or 64 bits: class, number and pair rules (R73, R110, R121). -/
def regOk (wide : Bool) (x : Src) : Bool :=
  match x.cls with
  | .v => !wide || x.num.toNat % 2 = 0
  | .s => x.num.toNat < 64 && (!wide || x.num.toNat % 2 = 0)
  | .latch => x.num.toNat < 4 && !wide
  | .imm => false

/-- The modifier rule of R74 for an operand of type `t`. SEL with type code 0 has the untyped 32 bits of R130, to which no
modifier 0b001 to 0b011 applies (log entry 82). -/
def modOk (arith : Bool) (t : Nat) (wide : Bool) (m : Modifier) : Bool :=
  if m = .none then true
  else if m.isSign then arith && (typeSigned t || typeFloat t)
  else !wide

/-- Whether a source field fits its form, for an op of type `t`. An operand whose own type differs from the op's (I2I and F2I
sources, the 32-bit controls of BFX and BFI) takes the modifiers of its own type (log entry 82). -/
def formOk (fm : Form) (t : Nat) (inB ext : Bool) (x : Src) : Bool :=
  match fm with
  | .zero => x.isZero
  | .value a =>
    if x.isImm then immOk inB ext x else regOk (type64 t) x && modOk a t (type64 t) x.mod
  | .typed ts => !x.isImm && regOk (type64 ts) x && modOk true ts (type64 ts) x.mod
  | .word a => if x.isImm then immOk inB ext x else regOk false x && modOk a t false x.mod
  | .f32 => if x.isImm then immOk inB ext x else regOk false x && modOk true 11 false x.mod
  | .mx => (x.cls = .v || x.cls = .latch) && regOk false x
  | .addr => !x.isImm && regOk true x && x.mod = .none
  | .pred => x.cls = .v && x.num.toNat < 8 && (x.mod = .none || x.mod = .neg)
  | .elems => (x.cls = .v || x.cls = .latch) && regOk false x && x.mod = .none
  | .group k =>
    x.mod = .none && ((x.cls = .v && x.num.toNat % 2 ^ k = 0) || (k = 0 && x.cls = .latch && x.num.toNat < 4))
  | .lanes a => (x.cls = .v || x.cls = .latch) && regOk false x && modOk a t false x.mod
  | .scalar ts =>
    if x.isImm then immOk inB ext x else x.cls = .s && regOk false x && modOk true ts false x.mod
  | .opt k => x.isImm && immOk inB ext x && (ext || x.imm11.toNat < 2 ^ k)
  | .own => true

/-- Destination kinds of classes 0x1 to 0x7 (R80). -/
inductive DstForm where
  /-- A v register, or an s register when the op is uniform; `wide` for a pair. -/
  | reg (wide : Bool)
  /-- A group of 2^k v registers. -/
  | group (k : Nat)
  /-- One predicate. -/
  | pred
  /-- An even predicate and the next (R135, R145). -/
  | predPair
  /-- An s register; `even` for a pair. -/
  | sreg (even : Bool)
  /-- No destination: dst must be zero. -/
  | none
  deriving DecidableEq, Repr

def dstOk (d : DstForm) (o : Op) : Bool :=
  match d with
  | .reg wide => !wide || o.dst.toNat % 2 = 0
  | .group k => o.dst.toNat % 2 ^ k = 0
  | .pred => o.dst.toNat < 8 && !o.w
  | .predPair => o.dst.toNat < 8 && o.dst.toNat % 2 = 0 && !o.w
  | .sreg even => o.dst.toNat < 64 && (!even || o.dst.toNat % 2 = 0)
  | .none => o.dst = 0 && !o.w

/-- What an op of classes 0x1 to 0x7 does with its fields. -/
structure OpForm where
  three : Bool
  types : List Nat
  dflt  : Nat
  rnd   : RndUse
  a     : Form
  b     : Form
  c     : Form
  dst   : DstForm
  deriving Repr

def intTypes : List Nat := [1, 2, 3, 4, 5, 6, 7, 8]
def mx8Types : List Nat := [12, 13, 14, 15, 17]
def mxTypes : List Nat := [12, 13, 14, 15, 16, 17]

/-- log2 of epl for an MX or float type code (R45). -/
def log2Epl (t : Nat) : Nat :=
  if t = 16 then 3 else if typeMx t then 2 else if t = 9 || t = 10 then 1 else 0

/-- The types that an op of classes 0x1 to 0x7 accepts, and its default type (R123, R130, R141, R151, R160, R166). -/
def opTypes (code : Nat) : List Nat × Nat :=
  if code = 0x022 then ([2, 4, 6, 8], 6)
  else if code = 0x02A then ([1, 3, 5, 7], 5)
  else if code = 0x02C then ([5, 6], 5)
  else if code = 0x02D || code = 0x02E then ([1, 2, 3, 4, 5, 6, 7, 8, 9, 10, 11], 5)
  else if code < 0x040 then (intTypes, 5)
  else if code = 0x046 then (intTypes, 5)
  else if code = 0x04B || code = 0x04C then ([5, 6, 7, 8], 6)
  else if code = 0x04D then ([1, 2, 3, 4, 5, 6, 7, 8, 9, 10, 11], 0)
  else if code < 0x060 then (intTypes, 6)
  else if code = 0x060 then ([5, 6, 7, 8], 5)
  else if code < 0x080 then ([], 0)
  else if code = 0x084 || code = 0x085 || code = 0x086 || code = 0x087 || code = 0x089 || code = 0x08A then
    ([9, 10, 11], 11)
  else if code = 0x08B then ([9, 10, 11, 12, 13, 14, 15, 17], 11)
  else if code = 0x08C || code = 0x08D then ([5, 6, 7, 8], 5)
  else if code = 0x08E then ([9], 9)
  else if code = 0x08F then ([9, 10], 9)
  else if code = 0x090 then ([10], 10)
  else if code < 0x0A0 then ([11], 11)
  else if code = 0x0A0 then ([9, 10, 11], 11)
  else if code < 0x0A5 then (mxTypes, 12)
  else if code = 0x0A5 then (mx8Types, 12)
  else if code = 0x0A6 then ([16], 16)
  else if code = 0x0A7 then ([9, 10], 9)
  else if code < 0x0C0 then ([], 0)
  else if code < 0x0E0 then ([11], 11)
  else if code = 0x0E3 || code = 0x0E4 then ([5, 6, 11], 6)
  else ([], 6)

/-- Whether type code 0 is accepted: SCAN and VRED must name their type (R166). -/
def typeOk (code t : Nat) : Bool :=
  if code = 0x0E3 || code = 0x0E4 then (opTypes code).1.contains t
  else t = 0 || (opTypes code).1.contains t

/-- The operation type that a type code selects. -/
def opType (code t : Nat) : Nat := if t = 0 then (opTypes code).2 else t

/-- The forms with three sources (R78). -/
def threeSource (code : Nat) : Bool :=
  code = 0x025 || code = 0x02C || code = 0x04C || code = 0x04D || code = 0x083 || code = 0x08E || code = 0x090
    || code = 0x0A5 || code = 0x0A6 || code = 0x0A7 || code = 0x0C0

/-- Whether the op rounds with its rounding subfield (R141, R151, R166). -/
def opRounds (code t : Nat) : RndUse :=
  if code = 0x080 || code = 0x081 || code = 0x082 || code = 0x083 || code = 0x08A || code = 0x08B || code = 0x08C
    || code = 0x08D || code = 0x08E || code = 0x08F || code = 0x090
    || code = 0x0A2 || code = 0x0A3 || code = 0x0A4
    || ((code = 0x0E3 || code = 0x0E4) && t = 11) then .yes else .no

/-- Type code S and field FIT of FCVT's form, and type code and S of I2I's form (R129, R148). -/
def formSrcType (o : Op) : Nat := (o.b.imm11.extractLsb' 0 5).toNat

/-- log2 of the size of the source group of FCVT (R148). -/
def fcvtGroup (s d : Nat) : Nat := if s = 11 && (d = 9 || d = 10) then 1 else 0

/-- Whether a SCAN or VRED combines with .and, .or or .xor (R74, R166). -/
def combBitwise (o : Op) : Bool := 3 ≤ fnVariant o.c % 8

/-- The forms of the fields of an op of classes 0x1 to 0x7, for operation type `t`. -/
def opForm (code t : Nat) (o : Op) : OpForm :=
  let (ts, df) := opTypes code
  let r := opRounds code t
  let w := type64 t
  let mk (a b c : Form) (d : DstForm) : OpForm := ⟨threeSource code, ts, df, r, a, b, c, d⟩
  match code with
  -- integer and address (R123)
  | 0x020 | 0x021 | 0x022 | 0x023 | 0x024 | 0x026 | 0x027 | 0x028 | 0x029 =>
    mk (.value true) (.value true) .own (.reg w)
  | 0x025 => mk (.value true) (.value true) (.value true) (.reg w)
  | 0x02A | 0x02B => mk (.value true) .zero .own (.reg w)
  | 0x02C => mk .addr (.word true) (.word true) (.reg true)
  | 0x02D => mk (.value true) .zero .own (.reg w)
  | 0x02E => mk .own (.value true) .own (.reg w)
  | 0x02F => mk (.typed (formSrcType o % 16)) .own .own (.reg w)
  -- logical (R130)
  | 0x040 | 0x041 | 0x042 | 0x044 | 0x045 | 0x046 | 0x047 => mk (.value false) (.value false) .own (.reg w)
  | 0x043 | 0x048 | 0x049 | 0x04A => mk (.value false) .zero .own (.reg w)
  | 0x04B => mk (.value false) (.word false) .own (.reg w)
  | 0x04C => mk (.value false) (.value false) (.word false) (.reg w)
  | 0x04D => mk (.value true) (.value true) .pred (.reg w)
  -- compare and predicate (R135, R136)
  | 0x060 => mk (.value true) (.value true) .own .predPair
  | 0x061 | 0x062 | 0x063 => mk .pred .pred .own .pred
  | 0x064 => mk .pred .zero .own .pred
  | 0x065 => mk .own .own .own .pred
  -- floating point (R141)
  | 0x080 | 0x081 | 0x082 | 0x084 | 0x085 | 0x08F => mk (.value true) (.value true) .own (.reg false)
  | 0x083 | 0x08E | 0x090 => mk (.value true) (.value true) (.value true) (.reg false)
  | 0x086 | 0x087 | 0x089 | 0x08A => mk (.value true) .zero .own (.reg false)
  | 0x088 => mk (.value true) (.value true) .own .predPair
  | 0x08B =>
    let s := formSrcType o
    mk (if typeMx s then .mx else if s = 11 && (t = 9 || t = 10) then .own else .f32) .own .own
      (if (s = 9 || s = 10) && t = 11 then .group 1 else .reg false)
  | 0x08C => mk .f32 .zero .own (.reg w)
  | 0x08D => mk (.value true) .zero .own (.reg false)
  -- block-aware (R151)
  | 0x0A0 => mk .own .own .own (.reg false)
  | 0x0A1 => mk .elems (.opt 2) .own (.reg false)
  | 0x0A2 => mk (.group (log2Epl t)) (.opt 2) .own (.reg false)
  | 0x0A3 => mk .elems .zero .own (.group (log2Epl t))
  | 0x0A4 => mk .elems (.scalar 5) .own (.reg false)
  | 0x0A5 | 0x0A6 => mk .elems .elems .f32 (.reg false)
  | 0x0A7 => mk (.value true) (.value true) .f32 (.reg false)
  | 0x0A8 => mk .zero (.opt 1) .own (.sreg false)
  | 0x0A9 => mk .zero .zero .own .none
  -- special function (R160)
  | 0x0C0 => mk (.value true) (.value true) (.value true) (.reg false)
  -- cross-lane (R166)
  | 0x0E0 => mk (.lanes true) (.word false) .own (.reg false)
  | 0x0E1 => mk .pred .zero .own .pred
  | 0x0E2 => mk .pred .zero .own (.sreg true)
  | 0x0E3 | 0x0E4 => mk (.lanes (!combBitwise o)) .own .own (.reg false)
  | 0x0E5 => mk (.lanes true) .zero .own (.reg true)
  | 0x0E6 => mk (.lanes true) .zero .own (if o.c.extractLsb' 0 1 = 1 then .pred else .reg true)
  | 0x0E7 => mk (.lanes true) .own .own (.reg false)
  | _ => mk (.value true) .zero .own (.reg false)

/-! ## Which fields are sources, and what follows the op -/

/-- Whether src C is a source field: three-source forms (R78) and the control words of the matrix class (R283). -/
def cIsSource (code : Nat) : Bool :=
  threeSource code || code = 0x163 || code = 0x164 || code = 0x165 || code = 0x166 || code = 0x169

/-- Whether a source field of the op is of class 0b11 (R77). -/
def hasImm (code : Nat) (o : Op) : Bool :=
  o.a.isImm || o.b.isImm || (cIsSource code && o.srcC.isImm)

/-- Whether a following extension word is an operand of the op (R77, R78). -/
def takesExt (code : Nat) (o : Op) : Bool := hasImm code o || threeSource code

/-- The extension word supplies the function field (R78). -/
def fnInExt (code : Nat) (o : Op) : Bool := threeSource code && !hasImm code o

/-- The function field: src C, the extension word's value, or the implicit field 0x1C00 (R78). -/
def fnField (code : Nat) (o : Op) : BitVec 13 :=
  if threeSource code then
    if hasImm code o then 0x1C00
    else match o.ext with
      | some x => x.value.extractLsb' 0 13
      | none => 0x1C00
  else o.c

/-- The 32-bit immediate of the extension word, or the 11 bits of src B zero-extended: the option and code values. -/
def bValue (o : Op) : Word :=
  match o.ext with
  | some x => x.value
  | none => o.b.imm11.setWidth 32

/-- Rules R76 to R78 that tie an op to its extension word. -/
def extShape (code : Nat) (o : Op) : Bool :=
  match o.ext with
  | some _ =>
    takesExt code o && !o.e && (!o.a.isImm || immOk false true o.a) && (!o.b.isImm || immOk true true o.b)
      && (!cIsSource code || !o.srcC.isImm || immOk false true o.srcC)
  | none =>
    !o.a.isImm && (!cIsSource code || !o.srcC.isImm) && !(threeSource code && !hasImm code o)

/-! ## The function field of classes 0x1 to 0x7 -/

/-- Whether a function field's op rounds: of SCAN and VRED only the f32 .add forms do (R166). -/
def fnRounds (code : Nat) (f : BitVec 13) : RndUse :=
  if (code = 0x0E3 || code = 0x0E4) && fnVariant f % 8 ≠ 0 then .no else opRounds code (opType code (fnType f))

/-- The legal function fields of an op of classes 0x1 to 0x7. -/
def fnOk (code : Nat) (f : BitVec 13) : Bool :=
  if 0x061 ≤ code && code ≤ 0x065 then f = 0
  else
    typeOk code (fnType f) && (fnRounds code f).ok (fnRnd f)
      && variantOk code (opType code (fnType f)) (fnVariant f)

/-- The operation type used to check operands: that of the function field, or the default where the field is bad
(R89: the fields of an op word come before those of its extension word). -/
def fieldType (code : Nat) (f : BitVec 13) : Nat :=
  if typeOk code (fnType f) then opType code (fnType f) else (opTypes code).2

/-- The rules of single ops whose fields depend on one another. -/
def ownOk (code t : Nat) (o : Op) : Bool :=
  let imm := o.b.imm11
  match code with
  | 0x02D => !o.a.isImm
  | 0x02E => (o.a = ⟨.v, 0, .none⟩ || o.a = ⟨.s, 0, .none⟩) && o.b.isImm
      && (o.a.cls = .v || (o.dst.toNat < 64 && o.guardP7))
  | 0x02F =>
    o.b.isImm && o.ext.isNone && 1 ≤ (imm.extractLsb' 0 4).toNat && (imm.extractLsb' 0 4).toNat ≤ 8
      && imm.extractLsb' 5 6 = 0
  | 0x065 =>
    if o.b.isImm then
      o.a.isZero && (if o.ext.isSome then false else imm.extractLsb' 1 10 = 0)
    else o.b.isZero && formOk .pred 0 false false o.a
  | 0x08B =>
    let s := formSrcType o
    let fit := imm.extractLsb' 5 1 = 1
    o.b.isImm && o.ext.isNone && imm.extractLsb' 6 5 = 0 &&
      ((typeMx s && mx8Types.contains s && mx8Types.contains t)
        || (!fit && typeFloat s && typeFloat t
            && (s ≠ 11 || t = 11 || (o.a.cls = .v && o.a.num.toNat % 2 = 0 && modOk true 11 false o.a.mod)
              || (o.a.cls = .s && o.a.num.toNat < 64 && o.a.num.toNat % 2 = 0 && modOk true 11 false o.a.mod))))
  | 0x0A0 =>
    let g := (bValue o).toNat
    formOk (.opt 2) t true o.ext.isSome o.b && formOk (.group (g % 4)) t false false o.a
  | 0x0A1 => o.ext.isSome || imm.toNat % 2 = 0
  | 0x0A2 => o.ext.isSome || imm.toNat % 4 ≠ 2
  | 0x0A8 | 0x0A9 => o.guardP7
  | 0x0E3 | 0x0E4 =>
    if fnVariant o.c / 16 = 1 then
      if o.b.isImm then immOk true o.ext.isSome o.b else regOk false o.b && modOk (!combBitwise o) t false o.b.mod
    else o.b.isZero
  | 0x0E7 => if fnVariant o.c = 0 then formOk (.scalar 6) t true o.ext.isSome o.b else o.b.isZero
  | _ => true

/-- The option value of an extension word keeps its undefined bits zero (R151). -/
def optExtOk (code : Nat) (o : Op) : Bool :=
  match o.ext with
  | none => true
  | some x =>
    if code = 0x0A0 then x.value.toNat < 4
    else if code = 0x0A1 then x.value.toNat = 0 || x.value.toNat = 2
    else if code = 0x0A2 then x.value.toNat = 0 || x.value.toNat = 1 || x.value.toNat = 3
    else if code = 0x0A8 then x.value.toNat < 2 else true

/-- Op-word rules of classes 0x1 to 0x7. -/
def classes17 (code : Nat) (o : Op) : Bool :=
  let f := fnField code o
  let t := fieldType code f
  let fm := opForm code t o
  let ext := o.ext.isSome
  (fnInExt code o || fnOk code f)
    && formOk fm.a t false ext o.a && formOk fm.b t true ext o.b
    && (!fm.three || formOk fm.c t false ext o.srcC)
    && dstOk fm.dst o && ownOk code t o

/-! ## Classes 0x0 and 0x8 to 0xE -/

/-- A 64-bit pair in v or s registers with modifier 0 (R110). -/
def vPair (x : Src) : Bool := x.cls = .v && x.num.toNat % 2 = 0 && x.mod = .none
def sPair (x : Src) : Bool := x.cls = .s && x.num.toNat < 64 && x.num.toNat % 2 = 0 && x.mod = .none
/-- An s register with modifier 0. -/
def sReg (x : Src) : Bool := x.cls = .s && x.num.toNat < 64 && x.mod = .none
/-- An s register whose 32-bit value has no signed or float type: modifiers 0b100 to 0b111 apply (R74). -/
def sWord (x : Src) : Bool := x.cls = .s && x.num.toNat < 64 && !x.mod.isSign
/-- A v register with modifier 0. -/
def vReg (x : Src) : Bool := x.cls = .v && x.mod = .none
/-- An address pair (R244). -/
def addrPair (x : Src) : Bool := vPair x || sPair x
/-- A fibre operand (R184). -/
def fibreSrc (x : Src) : Bool := x.cls = .v && x.num.toNat < 8 && x.mod = .none

/-- A value in src B: an s register, whose modifier follows R74 with `signed`, or an immediate. -/
def valueB (signed : Bool) (o : Op) : Bool :=
  if o.b.isImm then immOk true o.ext.isSome o.b
  else o.b.cls = .s && o.b.num.toNat < 64 && (signed || !o.b.mod.isSign)

/-- A value in src B with no modifier on its register. -/
def valueB0 (o : Op) : Bool :=
  if o.b.isImm then immOk true o.ext.isSome o.b else sReg o.b

/-- An offset of R244: a register of any kind or an immediate, with modifier 0. -/
def offsetB (o : Op) : Bool :=
  if o.b.isImm then immOk true o.ext.isSome o.b else regOk false o.b && o.b.mod = .none

/-- An arena offset operand of R233: a register of any kind with modifier 0. -/
def arenaOff (x : Src) : Bool := !x.isImm && regOk false x && x.mod = .none

/-- A branch offset (R111). -/
def branchOff (o : Op) : Bool := o.b.isImm && immOk true o.ext.isSome o.b

/-- dst, src A, src B and src C all zero. -/
def fieldsZero (o : Op) : Bool := o.dst = 0 && o.a.isZero && o.b.isZero && o.c = 0

/-- Type codes of LD and LDG after their default (R244). -/
def memType (f : BitVec 13) : Nat := if fnType f = 0 then 6 else fnType f

/-- The scope subfield is not reserved (R79). -/
def scopeOk (f : BitVec 13) : Bool := fnScope f < 6

/-- The function field of ATOM, RED and ATOMA: operation and type (R236). -/
def atomOk (f : BitVec 13) : Bool :=
  let op := (f.extractLsb' 10 3).toNat
  let t := if fnType f = 0 then 5 else fnType f
  (5 ≤ t && t ≤ 8) || (t = 11 && (op ≤ 2 || 6 ≤ op))

/-- The operation type of ATOM, RED and ATOMA. -/
def atomType (f : BitVec 13) : Nat := if fnType f = 0 then 5 else fnType f

/-- The operations .and, .or and .xor of an atomic, which are bitwise (R236). -/
def atomBitwise (f : BitVec 13) : Bool := f.extractLsb' 10 3 = 3 || f.extractLsb' 10 3 = 4 || f.extractLsb' 10 3 = 5

/-- The operand b of an atomic (R121, R244); a bitwise operation takes no modifier 0b001 to 0b011 (R74). -/
def atomB (o : Op) : Bool :=
  let t := atomType o.c
  if o.b.isImm then immOk true o.ext.isSome o.b
  else regOk (type64 t) o.b && modOk (!atomBitwise o.c) t (type64 t) o.b.mod

/-- Orders that LD and ST accept with their scope (R245). -/
def ldOrderOk (store : Bool) (f : BitVec 13) : Bool :=
  let ord := (f.extractLsb' 10 2).toNat
  if store then ord = 0 || ord = 2 else ord = 0 || ord = 1 || (ord = 3 && fnScope f = 3)

/-- X4 asks for a 32-bit type (R247). -/
def x4Ok (f : BitVec 13) : Bool :=
  f.extractLsb' 12 1 = 0 || memType f = 5 || memType f = 6 || memType f = 11

/-- log2 of the registers that LD or ST moves per lane. -/
def ldGroup (f : BitVec 13) : Nat := if f.extractLsb' 12 1 = 1 then 2 else if type64 (memType f) then 1 else 0

/-- log2 of the registers of an LDG or STG group. -/
def ldgGroup (f : BitVec 13) : Nat := (f.extractLsb' 10 3).toNat + (if type64 (memType f) then 1 else 0)

/-- A CCTL control that addresses a line (R244, R255). -/
def cctlAddr (ctl : Nat) : Bool := ctl = 2 || ctl = 3

/-- Op-word rules of the control class (R110, R111). -/
def class0 (code : Nat) (o : Op) : Bool :=
  !o.w &&
  match code with
  | 0x000 => o.dst = 0 && o.a.isZero && branchOff o && o.c = 0
  | 0x001 => o.dst = 0 && formOk .pred 0 false false o.a && branchOff o && o.c.toNat < 3
  | 0x002 => o.dst = 0 && o.a.isZero && addrPair o.b && o.c = 0
  | 0x003 => o.dst.toNat % 2 = 0 && o.a.isZero && (branchOff o || vPair o.b) && o.c = 0
  | 0x004 => o.dst = 0 && o.a.isZero && vPair o.b && o.c = 0
  | _ => fieldsZero o

/-- Op-word rules of the fibre class (R184). -/
def class8 (code : Nat) (o : Op) : Bool :=
  let dstF := decide (o.dst.toNat < 8)
  match code with
  | 0x100 => !o.w && o.guardP7 && dstF && sPair o.a && valueB false o && o.c.toNat < 4
  | 0x101 | 0x102 => !o.w && o.guardP7 && dstF && fibreSrc o.a && fibreSrc o.b && o.c = 0
  | 0x103 => fibreSrc o.a && vReg o.b && o.b.num ≠ o.dst && o.c.toNat < 8
  | 0x104 => !o.w && o.guardP7 && dstF && o.a.isZero && valueB false o && o.c = 0
  | 0x105 => !o.w && o.guardP7 && o.dst.toNat < 64 && fibreSrc o.a && o.b.isZero && o.c.toNat < 8
  | 0x106 => !o.w && dstF && fibreSrc o.a && o.b.isZero && o.c = 0
  | 0x107 => !o.w && o.guardP7 && dstF && o.a.isZero && o.b.isZero && o.c = 0
  | _ => !o.w && o.guardP7 && dstF && sPair o.a && valueB true o && o.c = 0

/-- Op-word rules of the global-memory class (R244, R245, R247). -/
def class9 (code : Nat) (o : Op) : Bool :=
  let f := o.c
  match code with
  | 0x120 | 0x121 =>
    (code = 0x120 || !o.w) && addrPair o.a && offsetB o && fnType f ≤ 11 && scopeOk f && ldOrderOk (code = 0x121) f
      && x4Ok f && o.dst.toNat % 2 ^ ldGroup f = 0
  | 0x122 | 0x123 | 0x124 =>
    (code ≠ 0x123 || !o.w) && addrPair o.a && offsetB o && f.extractLsb' 10 3 = 0
      && (fnType f = 0 || typeMx (fnType f)) && scopeOk f
  | 0x125 | 0x126 =>
    (code = 0x125 || !o.w) && sPair o.a && (o.b.cls = .v || (o.b.cls = .latch && o.b.num.toNat < 4))
      && !o.b.mod.isSign && (f.extractLsb' 10 3).toNat < 4 && fnType f ≤ 11 && scopeOk f
      && o.dst.toNat % 2 ^ ldgGroup f = 0
  | 0x127 =>
    addrPair o.a && atomB o && atomOk f && scopeOk f
      && (!type64 (atomType f) || o.dst.toNat % 2 = 0)
  | 0x128 =>
    !o.w && o.dst = 0 && addrPair o.a && atomB o && atomOk f && scopeOk f && (f.extractLsb' 10 3).toNat < 6
      && ((f.extractLsb' 3 2).toNat = 0 || (f.extractLsb' 3 2).toNat = 2)
  | 0x129 =>
    !o.w && o.guardP7 && o.dst = 0 && o.a.isZero && o.b.isZero && f.extractLsb' 3 7 = 0
      && (f.extractLsb' 10 3).toNat < 4 && scopeOk f && ((f.extractLsb' 10 3).toNat ≠ 3 || fnScope f = 3)
  | 0x12A =>
    !o.w && o.dst = 0 && addrPair o.a && offsetB o && f.extractLsb' 5 8 = 0 && fnPolicy f < 3 && fnScope f = 0
  | _ =>
    let ctl := (f.extractLsb' 10 3).toNat
    !o.w && o.dst = 0 && f.extractLsb' 0 10 = 0 && ctl < 5 &&
      (if cctlAddr ctl then addrPair o.a && offsetB o else o.guardP7 && o.a.isZero && o.b.isZero)

/-- Op-word rules of the arena class (R233, R236). -/
def classA (code : Nat) (o : Op) : Bool :=
  let f := o.c
  let region := f.extractLsb' 4 1 = 0
  match code with
  | 0x140 | 0x141 =>
    (code = 0x140 || !o.w) && arenaOff o.a && offsetB o && f.extractLsb' 10 3 = 0 && fnType f ≤ 11 && region
      && (!type64 (memType f) || o.dst.toNat % 2 = 0)
  | 0x142 | 0x143 =>
    (code = 0x142 || !o.w) && arenaOff o.a && arenaOff o.b && f.extractLsb' 10 3 = 0
      && (fnType f = 0 || typeMx (fnType f)) && region
  | 0x144 => arenaOff o.a && atomB o && atomOk f && region && (!type64 (atomType f) || o.dst.toNat % 2 = 0)
  | 0x145 => !o.w && o.guardP7 && o.dst = 0 && sPair o.a && valueB false o && f = 0
  | _ => o.guardP7 && o.dst.toNat < 64 && o.dst.toNat % 2 = 0 && o.a.isZero && o.b.isZero && f.extractLsb' 4 9 = 0

/-- src C of class 0b11 with number 0 and modifier 0, and the extension word present: a control word (R283). -/
def control (o : Op) : Bool := o.c = 0x1800 && o.ext.isSome

/-- Op-word rules of the matrix class (R283). The modifier of a v operand follows R74: the A group holds elements of type TA,
which is a float or signed type; an index of MMA.G is an unsigned 32-bit value (log entry 48). -/
def classB (code : Nat) (o : Op) : Bool :=
  let tile := decide (o.dst.toNat < 16)
  match code with
  | 0x160 =>
    !o.w && o.guardP7 && o.dst = 0 && sPair o.a && ((o.b.isImm && o.ext.isNone) || sReg o.b) && o.c.toNat < 2
  | 0x161 | 0x162 => !o.w && o.guardP7 && fieldsZero o
  | 0x163 => !o.w && o.guardP7 && tile && (o.a.cls = .v || sReg o.a) && sReg o.b && control o
  | 0x164 =>
    !o.w && o.guardP7 && o.dst.toNat < 48 && (o.a.cls = .v || sReg o.a) && sPair o.b && control o
  | 0x165 => !o.w && o.guardP7 && tile && o.a.cls = .v && !o.a.mod.isSign && sPair o.b && control o
  | 0x166 => !o.w && o.guardP7 && sReg o.a && sReg o.b && control o
  | 0x167 => !o.w && o.guardP7 && tile && o.a.isZero && o.b.isZero && o.c = 0
  | 0x168 =>
    let t := fnType o.c
    (sReg o.a || (o.a.isImm && o.ext.isSome && immOk false true o.a)) && o.b.isZero
      && (t = 0 || (9 ≤ t && t ≤ 17))
      && (if t = 0 || t = 11 then fnRnd o.c = 0 || fnRnd o.c = 7 else fnRnd o.c ≠ 5 && fnRnd o.c ≠ 6)
      && (o.c.extractLsb' 4 1 = 0 || typeMx t)
  | 0x169 => !o.w && o.guardP7 && tile && sPair o.a && sReg o.b && control o
  | _ => !o.w && o.guardP7 && o.dst.toNat < 3 && sPair o.a && sReg o.b && sReg o.srcC

/-- A control word's type codes: 9, 10 or 12 to 17 (R284). -/
def stepType (t : Nat) : Bool := t = 9 || t = 10 || typeMx t

/-- The fields of the control words of R284 and R293 that trap ILLEGAL_OP. -/
def controlOk (code : Nat) (o : Op) (x : Word) : Bool :=
  match code with
  | 0x163 | 0x164 | 0x165 | 0x166 =>
    let ta := (x.extractLsb' 0 5).toNat
    let tb := (x.extractLsb' 5 5).toNat
    stepType ta && stepType tb && typeMx ta = typeMx tb
      && (code = 0x165 || o.a.cls ≠ .v || x.extractLsb' 22 4 = 0)
  | 0x169 =>
    let t := (x.extractLsb' 0 5).toNat
    let r := x.extractLsb' 5 3
    (t = 0 || (9 ≤ t && t ≤ 17))
      && (if t = 0 || t = 11 then r = 0 || r = 7 else r ≠ 5 && r ≠ 6)
      && (x.extractLsb' 8 1 = 0 || typeMx t)
      && (if x.extractLsb' 9 1 = 1 then x.extractLsb' 10 4 = 0 else x.extractLsb' 14 2 = 0)
      && x.extractLsb' 16 16 = 0
  | _ => true

/-- Op-word rules of the copy and queue class (R311, R326, R328, R330, R341, R342). -/
def classC (code : Nat) (o : Op) : Bool :=
  !o.w && o.guardP7 &&
  match code with
  | 0x180 | 0x181 | 0x182 => o.dst.toNat < 16 && sReg o.a && o.b.isZero && o.c = 0
  | 0x183 => fieldsZero o
  | 0x184 => o.dst = 0 && o.a.isZero && o.b.isImm && o.ext.isNone && o.b.imm11.toNat < 8 && o.c = 0
  | 0x185 =>
    o.dst.toNat < 64 && o.dst.toNat % 2 = 0 && o.a.isZero
      && ((o.b.isImm && o.ext.isNone) || (o.b.cls = .s && o.b.num.toNat < 64 && !o.b.mod.isSign))
      && o.c.toNat < 32
  | 0x186 => o.dst.toNat < 64 && sPair o.a && o.b.isZero && o.c.toNat < 4
  | _ => o.dst = 0 && o.a.isZero && valueB false o && o.c = 0

/-- Barrier operand and barrier bits of a counter op (R361); `sec` allows bit 5. -/
def barrierOk (sec : Bool) (o : Op) : Bool :=
  let k := decide (o.c.extractLsb' 4 1 = 1)
  (if k then sReg o.a else sPair o.a && o.c.extractLsb' 0 4 = 0)
    && o.c.extractLsb' 6 7 = 0 && (sec || o.c.extractLsb' 5 1 = 0)

/-- Op-word rules of the counter class (R361). -/
def classD (code : Nat) (o : Op) : Bool :=
  !o.w && o.guardP7 &&
  match code with
  | 0x1A0 | 0x1A1 | 0x1A3 => o.dst = 0 && barrierOk false o && valueB0 o
  | 0x1A2 => o.dst.toNat < 64 && barrierOk true o && valueB0 o
  | 0x1A4 => o.dst.toNat < 8 && barrierOk false o && valueB0 o
  | 0x1A5 => o.dst = 0 && o.a.isZero && valueB0 o && o.c.toNat < 8
  | 0x1A6 => o.dst = 0 && o.a.isZero && o.b.isZero && o.c.toNat < 8
  | _ => o.dst.toNat < 64 && o.dst.toNat % 2 = 0 && o.a.isZero && valueB0 o && o.c = 0

/-- The special-register numbers of R102. -/
def specialReg (n : Nat) : Bool :=
  n ≤ 0x0A || (0x10 ≤ n && n ≤ 0x14) || (0x18 ≤ n && n ≤ 0x1C) || n = 0x20

/-- The 64-bit special registers. -/
def special64 (n : Nat) : Bool :=
  n = 0 || n = 0x11 || n = 0x19 || n = 0x1A || n = 0x1B || n = 0x1C || n = 0x20

/-- The lane-scoped special registers. -/
def specialLane (n : Nat) : Bool := n ≤ 0x07

/-- The special registers that R102 lets SWRITE name; TMASK is refused later outside a handler (R104). -/
def specialWrite (n : Nat) : Bool := n = 0x10 || n = 0x11 || n = 0x13 || n = 0x1B

/-- Op-word rules of the system class (R402, R404, R405). -/
def classE (code : Nat) (o : Op) : Bool :=
  match code with
  | 0x1C0 | 0x1C2 =>
    !o.w && o.dst = 0 && o.a.isZero && o.b.isImm && immOk true o.ext.isSome o.b && o.c = 0
  | 0x1C1 => !o.w && o.guardP7 && fieldsZero o
  | 0x1C3 =>
    let n := o.c.toNat
    n < 128 && specialReg n && o.b.isZero && (!special64 n || o.dst.toNat % 2 = 0) &&
      (o.a.isZero || (o.a = ⟨.s, 0, .none⟩ && o.guardP7 && o.dst.toNat < 64 && !specialLane n))
  | _ =>
    let n := o.c.toNat
    !o.w && o.guardP7 && o.dst = 0 && o.b.isZero && n < 128 && specialWrite n &&
      (if o.a.isImm then o.ext.isSome && immOk false true o.a
       else if special64 n then sPair o.a else sWord o.a)

/-! ## Whole instructions -/

/-- The opcodes of R91. -/
def assigned (code : Nat) : Bool :=
  let op := code % 32
  match code / 32 with
  | 0 => op < 8 | 1 => op < 16 | 2 => op < 14 | 3 => op < 6 | 4 => op < 17 | 5 => op < 10 | 6 => op < 8
  | 7 => op < 8 | 8 => op < 10 | 9 => op < 12 | 10 => op < 7 | 11 => op < 11 | 12 => op < 8 | 13 => op < 8
  | 14 => op < 5 | _ => false

/-- The rules that the fields of the op word must keep. -/
def Op.wfWord (code : Nat) (o : Op) : Bool :=
  extShape code o &&
  match code / 32 with
  | 0 => class0 code o
  | 8 => class8 code o
  | 9 => class9 code o
  | 10 => classA code o
  | 11 => classB code o
  | 12 => classC code o
  | 13 => classD code o
  | 14 => classE code o
  | _ => classes17 code o

/-- The rules that the fields of the extension word must keep (R77, R78, R151, R284, R293). -/
def Op.wfExt (code : Nat) (o : Op) : Bool :=
  match o.ext with
  | none => true
  | some x =>
    (!fnInExt code o || (x.value.extractLsb' 13 19 = 0 && fnOk code (x.value.extractLsb' 0 13)))
      && optExtOk code o && controlOk code o x.value

def Op.wf (code : Nat) (o : Op) : Bool := o.wfWord code && o.wfExt code

/-- The multiplier set of R84. -/
def CompactOp.mulSet : CompactOp → Bool
  | .mul | .fadd | .fsub | .fmul | .fmin | .fmax | .hadd2 => true
  | _ => false

/-- The source registers of a compact op: MOV has only a (R83). -/
def Compact.sources (x : Compact) : List (BitVec 8) :=
  match x.op with
  | .mov => [x.a]
  | _ => [x.a, x.b]

/-- Two distinct registers in one bank (R84). -/
def bankClash (x y : BitVec 8) : Bool := x ≠ y && x.toNat % 4 = y.toNat % 4

/-- No two distinct source registers of the pair lie in one bank. -/
def banksOk : List (BitVec 8) → Bool
  | [] => true
  | r :: rs => rs.all (fun q => !bankClash r q) && banksOk rs

/-- R84, for a pair word with reserved bit 0 and assigned compact opcodes. -/
def Pair.wf (p : Pair) : Bool :=
  p.x.dst ≠ p.y.dst && (p.x.op ≠ .mov || p.x.b = 0) && (p.y.op ≠ .mov || p.y.b = 0)
    && banksOk (p.x.sources ++ p.y.sources) && !(p.x.op.mulSet && p.y.op.mulSet)

/-! ## The opcode map (R91) -/

/-- The opcode and fields of a single-op instruction; none for a pair word and for the steps of other agents. -/
def Instr.op? : Instr → Option (Nat × Op)
  | .bra o => some (0x000, o)
  | .brc o => some (0x001, o)
  | .brx o => some (0x002, o)
  | .call o => some (0x003, o)
  | .ret o => some (0x004, o)
  | .exit o => some (0x005, o)
  | .yieldRun o => some (0x006, o)
  | .nop o => some (0x007, o)
  | .add o => some (0x020, o)
  | .sub o => some (0x021, o)
  | .addc o => some (0x022, o)
  | .mul o => some (0x023, o)
  | .mulh o => some (0x024, o)
  | .mad o => some (0x025, o)
  | .idiv o => some (0x026, o)
  | .irem o => some (0x027, o)
  | .min o => some (0x028, o)
  | .max o => some (0x029, o)
  | .abs o => some (0x02A, o)
  | .neg o => some (0x02B, o)
  | .lea o => some (0x02C, o)
  | .mov o => some (0x02D, o)
  | .movi o => some (0x02E, o)
  | .i2i o => some (0x02F, o)
  | .and o => some (0x040, o)
  | .or o => some (0x041, o)
  | .xor o => some (0x042, o)
  | .not o => some (0x043, o)
  | .shl o => some (0x044, o)
  | .shr o => some (0x045, o)
  | .sar o => some (0x046, o)
  | .rot o => some (0x047, o)
  | .clz o => some (0x048, o)
  | .popc o => some (0x049, o)
  | .brev o => some (0x04A, o)
  | .bfx o => some (0x04B, o)
  | .bfi o => some (0x04C, o)
  | .sel o => some (0x04D, o)
  | .cmp o => some (0x060, o)
  | .pand o => some (0x061, o)
  | .por o => some (0x062, o)
  | .pxor o => some (0x063, o)
  | .pnot o => some (0x064, o)
  | .pmov o => some (0x065, o)
  | .fadd o => some (0x080, o)
  | .fsub o => some (0x081, o)
  | .fmul o => some (0x082, o)
  | .fma o => some (0x083, o)
  | .fmin o => some (0x084, o)
  | .fmax o => some (0x085, o)
  | .fabs o => some (0x086, o)
  | .fneg o => some (0x087, o)
  | .fcmp o => some (0x088, o)
  | .fclass o => some (0x089, o)
  | .frnd o => some (0x08A, o)
  | .fcvt o => some (0x08B, o)
  | .f2i o => some (0x08C, o)
  | .i2f o => some (0x08D, o)
  | .hfma2 o => some (0x08E, o)
  | .hadd2 o => some (0x08F, o)
  | .bfma2 o => some (0x090, o)
  | .bmax o => some (0x0A0, o)
  | .bscale o => some (0x0A1, o)
  | .bquant o => some (0x0A2, o)
  | .bdeq o => some (0x0A3, o)
  | .brescale o => some (0x0A4, o)
  | .dot4 o => some (0x0A5, o)
  | .dot8 o => some (0x0A6, o)
  | .dot2h o => some (0x0A7, o)
  | .amaxrd o => some (0x0A8, o)
  | .amaxclr o => some (0x0A9, o)
  | .exb o => some (0x0C0, o)
  | .lg2 o => some (0x0C1, o)
  | .rcp o => some (0x0C2, o)
  | .rsq o => some (0x0C3, o)
  | .sqt o => some (0x0C4, o)
  | .sin o => some (0x0C5, o)
  | .cos o => some (0x0C6, o)
  | .tanh o => some (0x0C7, o)
  | .shfl o => some (0x0E0, o)
  | .vote o => some (0x0E1, o)
  | .ballot o => some (0x0E2, o)
  | .scan o => some (0x0E3, o)
  | .vred o => some (0x0E4, o)
  | .confl o => some (0x0E5, o)
  | .matchLanes o => some (0x0E6, o)
  | .perm o => some (0x0E7, o)
  | .fbopen o => some (0x100, o)
  | .fbisect o => some (0x101, o)
  | .fbunion o => some (0x102, o)
  | .fbnext o => some (0x103, o)
  | .fbskip o => some (0x104, o)
  | .fbpos o => some (0x105, o)
  | .fbend o => some (0x106, o)
  | .fbclose o => some (0x107, o)
  | .fbsave o => some (0x108, o)
  | .fbrstr o => some (0x109, o)
  | .ld o => some (0x120, o)
  | .st o => some (0x121, o)
  | .ldb o => some (0x122, o)
  | .stb o => some (0x123, o)
  | .ldsc o => some (0x124, o)
  | .ldg o => some (0x125, o)
  | .stg o => some (0x126, o)
  | .atom o => some (0x127, o)
  | .red o => some (0x128, o)
  | .fence o => some (0x129, o)
  | .pref o => some (0x12A, o)
  | .cctl o => some (0x12B, o)
  | .lda o => some (0x140, o)
  | .sta o => some (0x141, o)
  | .ldab o => some (0x142, o)
  | .stab o => some (0x143, o)
  | .atoma o => some (0x144, o)
  | .turn o => some (0x145, o)
  | .rgq o => some (0x146, o)
  | .mconv o => some (0x160, o)
  | .mdisb o => some (0x161, o)
  | .mfence o => some (0x162, o)
  | .mma o => some (0x163, o)
  | .mmaSp o => some (0x164, o)
  | .mmaG o => some (0x165, o)
  | .mloop o => some (0x166, o)
  | .accz o => some (0x167, o)
  | .accld o => some (0x168, o)
  | .accst o => some (0x169, o)
  | .patld o => some (0x16A, o)
  | .copy o => some (0x180, o)
  | .copyg o => some (0x181, o)
  | .copys o => some (0x182, o)
  | .mcommit o => some (0x183, o)
  | .mwait o => some (0x184, o)
  | .tclaim o => some (0x185, o)
  | .launch o => some (0x186, o)
  | .sleep o => some (0x187, o)
  | .tbinit o => some (0x1A0, o)
  | .tbexpect o => some (0x1A1, o)
  | .tbarrive o => some (0x1A2, o)
  | .tbwait o => some (0x1A3, o)
  | .tbtest o => some (0x1A4, o)
  | .bara o => some (0x1A5, o)
  | .barw o => some (0x1A6, o)
  | .cntrd o => some (0x1A7, o)
  | .trap o => some (0x1C0, o)
  | .rett o => some (0x1C1, o)
  | .bkpt o => some (0x1C2, o)
  | .sread o => some (0x1C3, o)
  | .swrite o => some (0x1C4, o)
  | _ => none

/-- The pair of a pair word. -/
def Instr.pair? : Instr → Option Pair
  | .pairWord p => some p
  | _ => none

/-- The instruction of an opcode (R91). -/
def opInstr (code : Nat) (o : Op) : Option Instr :=
  match code with
  | 0x000 => some (.bra o)
  | 0x001 => some (.brc o)
  | 0x002 => some (.brx o)
  | 0x003 => some (.call o)
  | 0x004 => some (.ret o)
  | 0x005 => some (.exit o)
  | 0x006 => some (.yieldRun o)
  | 0x007 => some (.nop o)
  | 0x020 => some (.add o)
  | 0x021 => some (.sub o)
  | 0x022 => some (.addc o)
  | 0x023 => some (.mul o)
  | 0x024 => some (.mulh o)
  | 0x025 => some (.mad o)
  | 0x026 => some (.idiv o)
  | 0x027 => some (.irem o)
  | 0x028 => some (.min o)
  | 0x029 => some (.max o)
  | 0x02A => some (.abs o)
  | 0x02B => some (.neg o)
  | 0x02C => some (.lea o)
  | 0x02D => some (.mov o)
  | 0x02E => some (.movi o)
  | 0x02F => some (.i2i o)
  | 0x040 => some (.and o)
  | 0x041 => some (.or o)
  | 0x042 => some (.xor o)
  | 0x043 => some (.not o)
  | 0x044 => some (.shl o)
  | 0x045 => some (.shr o)
  | 0x046 => some (.sar o)
  | 0x047 => some (.rot o)
  | 0x048 => some (.clz o)
  | 0x049 => some (.popc o)
  | 0x04A => some (.brev o)
  | 0x04B => some (.bfx o)
  | 0x04C => some (.bfi o)
  | 0x04D => some (.sel o)
  | 0x060 => some (.cmp o)
  | 0x061 => some (.pand o)
  | 0x062 => some (.por o)
  | 0x063 => some (.pxor o)
  | 0x064 => some (.pnot o)
  | 0x065 => some (.pmov o)
  | 0x080 => some (.fadd o)
  | 0x081 => some (.fsub o)
  | 0x082 => some (.fmul o)
  | 0x083 => some (.fma o)
  | 0x084 => some (.fmin o)
  | 0x085 => some (.fmax o)
  | 0x086 => some (.fabs o)
  | 0x087 => some (.fneg o)
  | 0x088 => some (.fcmp o)
  | 0x089 => some (.fclass o)
  | 0x08A => some (.frnd o)
  | 0x08B => some (.fcvt o)
  | 0x08C => some (.f2i o)
  | 0x08D => some (.i2f o)
  | 0x08E => some (.hfma2 o)
  | 0x08F => some (.hadd2 o)
  | 0x090 => some (.bfma2 o)
  | 0x0A0 => some (.bmax o)
  | 0x0A1 => some (.bscale o)
  | 0x0A2 => some (.bquant o)
  | 0x0A3 => some (.bdeq o)
  | 0x0A4 => some (.brescale o)
  | 0x0A5 => some (.dot4 o)
  | 0x0A6 => some (.dot8 o)
  | 0x0A7 => some (.dot2h o)
  | 0x0A8 => some (.amaxrd o)
  | 0x0A9 => some (.amaxclr o)
  | 0x0C0 => some (.exb o)
  | 0x0C1 => some (.lg2 o)
  | 0x0C2 => some (.rcp o)
  | 0x0C3 => some (.rsq o)
  | 0x0C4 => some (.sqt o)
  | 0x0C5 => some (.sin o)
  | 0x0C6 => some (.cos o)
  | 0x0C7 => some (.tanh o)
  | 0x0E0 => some (.shfl o)
  | 0x0E1 => some (.vote o)
  | 0x0E2 => some (.ballot o)
  | 0x0E3 => some (.scan o)
  | 0x0E4 => some (.vred o)
  | 0x0E5 => some (.confl o)
  | 0x0E6 => some (.matchLanes o)
  | 0x0E7 => some (.perm o)
  | 0x100 => some (.fbopen o)
  | 0x101 => some (.fbisect o)
  | 0x102 => some (.fbunion o)
  | 0x103 => some (.fbnext o)
  | 0x104 => some (.fbskip o)
  | 0x105 => some (.fbpos o)
  | 0x106 => some (.fbend o)
  | 0x107 => some (.fbclose o)
  | 0x108 => some (.fbsave o)
  | 0x109 => some (.fbrstr o)
  | 0x120 => some (.ld o)
  | 0x121 => some (.st o)
  | 0x122 => some (.ldb o)
  | 0x123 => some (.stb o)
  | 0x124 => some (.ldsc o)
  | 0x125 => some (.ldg o)
  | 0x126 => some (.stg o)
  | 0x127 => some (.atom o)
  | 0x128 => some (.red o)
  | 0x129 => some (.fence o)
  | 0x12A => some (.pref o)
  | 0x12B => some (.cctl o)
  | 0x140 => some (.lda o)
  | 0x141 => some (.sta o)
  | 0x142 => some (.ldab o)
  | 0x143 => some (.stab o)
  | 0x144 => some (.atoma o)
  | 0x145 => some (.turn o)
  | 0x146 => some (.rgq o)
  | 0x160 => some (.mconv o)
  | 0x161 => some (.mdisb o)
  | 0x162 => some (.mfence o)
  | 0x163 => some (.mma o)
  | 0x164 => some (.mmaSp o)
  | 0x165 => some (.mmaG o)
  | 0x166 => some (.mloop o)
  | 0x167 => some (.accz o)
  | 0x168 => some (.accld o)
  | 0x169 => some (.accst o)
  | 0x16A => some (.patld o)
  | 0x180 => some (.copy o)
  | 0x181 => some (.copyg o)
  | 0x182 => some (.copys o)
  | 0x183 => some (.mcommit o)
  | 0x184 => some (.mwait o)
  | 0x185 => some (.tclaim o)
  | 0x186 => some (.launch o)
  | 0x187 => some (.sleep o)
  | 0x1A0 => some (.tbinit o)
  | 0x1A1 => some (.tbexpect o)
  | 0x1A2 => some (.tbarrive o)
  | 0x1A3 => some (.tbwait o)
  | 0x1A4 => some (.tbtest o)
  | 0x1A5 => some (.bara o)
  | 0x1A6 => some (.barw o)
  | 0x1A7 => some (.cntrd o)
  | 0x1C0 => some (.trap o)
  | 0x1C1 => some (.rett o)
  | 0x1C2 => some (.bkpt o)
  | 0x1C3 => some (.sread o)
  | 0x1C4 => some (.swrite o)
  | _ => none

end Sys2Proof
end

