-- ==== Sys2Proof/WellFormed.lean ====
section
/-! DEFINITION. Well-formed instructions: a single op or a pair word whose fields keep every rule that does not depend
on the state of the troupe (03 R72 to R84, with the encoding rule of each class; the rules themselves stand in
Machine/Fields.lean). The steps of other agents have no word and are always well formed. -/

namespace Sys2Proof

/-- Whether an instruction has a word of its own: a single op or a pair word. -/
def Instr.isWord (i : Instr) : Bool := i.op?.isSome || i.pair?.isSome

/-- Whether an instruction is well formed. -/
def Instr.wf (i : Instr) : Bool :=
  match i.op? with
  | some (code, o) => o.wf code
  | none =>
    match i.pair? with
    | some p => p.wf
    | none => true

end Sys2Proof
end

