-- ==== Sys2Proof/Decode.lean ====
section
/-! DEFINITION. The decoder and the encoder of instruction words (03_instruction_words.md R66, R72, R73, R76 to R79,
R82 to R84, R91). Decoding is total on any words and rejects by name; each rejection carries TVAL (R89). -/

namespace Sys2Proof

/-! ## Fields of words -/

/-- The kind bits of a word (R66). -/
def kindOf (w : DWord) : BitVec 2 := w.extractLsb' 62 2

/-- Bits [63:32] of a word. -/
def hiOf (w : DWord) : Word := w.extractLsb' 32 32

/-- The 9-bit opcode of a single-op word (R72). -/
def opcodeOf (w : DWord) : BitVec 9 := w.extractLsb' 52 9

/-- The fields of a single-op word (R72), with its extension word. -/
def opOf (w : DWord) (x : Option Ext) : Op :=
  { e := w.getLsbD 61, guard := ⟨w.getLsbD 51, w.extractLsb' 48 3⟩, w := w.getLsbD 47, dst := w.extractLsb' 39 8
    a := Src.ofBits (w.extractLsb' 26 13), b := Src.ofBits (w.extractLsb' 13 13), c := w.extractLsb' 0 13, ext := x }

/-- An extension word (R77). -/
def extOf (w : DWord) : Ext := ⟨w.getLsbD 61, w.extractLsb' 0 32⟩

/-- The compact opcodes (R83). -/
def CompactOp.code : CompactOp → BitVec 6
  | .add => 0x00 | .sub => 0x01 | .mul => 0x02 | .min => 0x03 | .max => 0x04 | .minN => 0x05 | .maxN => 0x06
  | .and => 0x08 | .or => 0x09 | .xor => 0x0A | .shl => 0x0B | .shr => 0x0C | .sar => 0x0D | .mov => 0x0F
  | .fadd => 0x10 | .fsub => 0x11 | .fmul => 0x12 | .fmin => 0x13 | .fmax => 0x14 | .hadd2 => 0x18

/-- The compact op of a 6-bit code; the other codes are reserved (R83). -/
def CompactOp.ofCode (b : BitVec 6) : Option CompactOp :=
  match b.toNat with
  | 0x00 => some .add | 0x01 => some .sub | 0x02 => some .mul | 0x03 => some .min | 0x04 => some .max
  | 0x05 => some .minN | 0x06 => some .maxN | 0x08 => some .and | 0x09 => some .or | 0x0A => some .xor
  | 0x0B => some .shl | 0x0C => some .shr | 0x0D => some .sar | 0x0F => some .mov | 0x10 => some .fadd
  | 0x11 => some .fsub | 0x12 => some .fmul | 0x13 => some .fmin | 0x14 => some .fmax | 0x18 => some .hadd2
  | _ => none

/-- A compact op from its 30 bits (R82). -/
def compactOf (b : BitVec 30) : Option Compact :=
  match CompactOp.ofCode (b.extractLsb' 24 6) with
  | some op => some ⟨op, b.extractLsb' 16 8, b.extractLsb' 8 8, b.extractLsb' 0 8⟩
  | none => none

/-! ## Decoding -/

/-- Why a word is no instruction. -/
inductive DecodeErr where
  /-- A reserved slot of the opcode map (R91): ILLEGAL_OP. -/
  | reservedOpcode
  /-- A field of the op word breaks its rule (R72 to R80 and the class's encoding rule): ILLEGAL_OP. -/
  | opField
  /-- A field of the extension word breaks its rule (R77, R79, R284, R293): ILLEGAL_OP. -/
  | extField
  /-- An extension word that is no operand of the word before it (R77): ILLEGAL_OP at itself. -/
  | strayExtension
  /-- A word of kind 0b11 inside the body of a block (R67): ILLEGAL_OP. -/
  | headerInBody
  /-- A pair word that R84 calls malformed: ILLEGAL_PAIR. -/
  | pairField
  deriving DecidableEq, Repr

/-- A rejected word: the reason, TVAL of R89, and, where only the extension word is at fault, the instruction whose
register numbers are checked before it (R89). -/
structure Illegal where
  err   : DecodeErr
  tval  : Word
  first : Option Instr
  deriving DecidableEq, Repr

/-- What the words at an address are: an instruction of one or two words, or a rejection. -/
inductive Decoded where
  | instr (i : Instr) (len : Nat)
  | illegal (x : Illegal)
  deriving DecidableEq, Repr

/-- Decodes a single-op word; `next` is the following word of the same block (R76 to R78). -/
def decodeOp (w : DWord) (next : Option DWord) : Decoded :=
  let code := (opcodeOf w).toNat
  let o0 := opOf w none
  let attached := match next with
    | some n => if kindOf n = 2 && takesExt code o0 then some n else none
    | none => none
  let o := opOf w (attached.map extOf)
  match opInstr code o with
  | none => .illegal ⟨.reservedOpcode, hiOf w, none⟩
  | some i =>
    if !o.wfWord code then .illegal ⟨.opField, hiOf w, none⟩
    else match attached with
      | none => .instr i 1
      | some n =>
        if n.extractLsb' 32 29 = 0 && o.wfExt code then .instr i 2
        else .illegal ⟨.extField, hiOf n, some i⟩

/-- Decodes a pair word (R82 to R84). -/
def decodePair (w : DWord) : Decoded :=
  match compactOf (w.extractLsb' 30 30), compactOf (w.extractLsb' 0 30) with
  | some x, some y =>
    let p : Pair := ⟨w.getLsbD 61, x, y⟩
    if !w.getLsbD 60 && p.wf then .instr (.pairWord p) 1 else .illegal ⟨.pairField, hiOf w, none⟩
  | _, _ => .illegal ⟨.pairField, hiOf w, none⟩

/-- Decodes the word `w` of a block's body with the word after it in the same block. -/
def decode (w : DWord) (next : Option DWord) : Decoded :=
  if kindOf w = 0 then decodeOp w next
  else if kindOf w = 1 then decodePair w
  else if kindOf w = 2 then .illegal ⟨.strayExtension, hiOf w, none⟩
  else .illegal ⟨.headerInBody, hiOf w, none⟩

/-! ## Encoding -/

/-- The op word of a single op (R72). -/
def encodeOp (code : Nat) (o : Op) : DWord :=
  (0#2 : BitVec 2) ++ BitVec.ofBool o.e ++ BitVec.ofNat 9 code ++ BitVec.ofBool o.guard.neg ++ o.guard.p
    ++ BitVec.ofBool o.w ++ o.dst ++ o.a.code ++ o.b.code ++ o.c

/-- The extension word (R77). -/
def encodeExt (x : Ext) : DWord := (2#2 : BitVec 2) ++ BitVec.ofBool x.e ++ (0#29 : BitVec 29) ++ x.value

/-- The 30 bits of a compact op (R82). -/
def encodeCompact (x : Compact) : BitVec 30 := x.op.code ++ x.dst ++ x.a ++ x.b

/-- A pair word (R82). -/
def encodePair (p : Pair) : DWord :=
  (1#2 : BitVec 2) ++ BitVec.ofBool p.e ++ (0#1 : BitVec 1) ++ encodeCompact p.x ++ encodeCompact p.y

/-- The words of an instruction; a step of another agent has none. -/
def encode (i : Instr) : List DWord :=
  match i.op? with
  | some (code, o) =>
    match o.ext with
    | some x => [encodeOp code o, encodeExt x]
    | none => [encodeOp code o]
  | none =>
    match i.pair? with
    | some p => [encodePair p]
    | none => []

/-- Decodes a list of words of one block from its first word. -/
def decodeWords : List DWord → Option Decoded
  | [] => none
  | [w] => some (decode w none)
  | w :: n :: _ => some (decode w (some n))

/-! ## Bytes -/

/-- The `n` low bytes of a number, least significant first (R2). -/
def bytesOf : Nat → Nat → List Byte
  | 0, _ => []
  | n + 1, x => BitVec.ofNat 8 x :: bytesOf n (x / 256)

/-- The number that bytes hold, least significant first. -/
def ofBytes : List Byte → Nat
  | [] => 0
  | b :: bs => b.toNat + 256 * ofBytes bs

/-- The 64-bit word stored little-endian in the first eight bytes (R66). -/
def wordOfBytes (bs : List Byte) : DWord := BitVec.ofNat 64 (ofBytes (bs.take 8))

/-- Decodes the instruction stored at the start of a list of bytes of one block; fewer than eight bytes hold none. -/
def decodeBytes (bs : List Byte) : Option Decoded :=
  if bs.length < 8 then none
  else if bs.length < 16 then some (decode (wordOfBytes bs) none)
  else some (decode (wordOfBytes bs) (some (wordOfBytes (bs.drop 8))))

/-- The instruction whose bits are `w`, numbered from bit 0 of its first word, read from its sixteen bytes in memory. -/
def decodeTableWord (nbits w : Nat) : Option Instr :=
  match decodeBytes (bytesOf 16 (w % 2 ^ nbits)) with
  | some (.instr i _) => some i
  | _ => none

end Sys2Proof
end

