-- ==== Sys2Proof/Machine/Num.lean ====
section
/-! DEFINITION. Number formats and arithmetic (02_number_formats.md): element formats R39 to R42, rounding R49 to R53,
saturation and scale choice R54 to R56, NaNs R57 to R59, block dot products R60 and R61, narrow immediates R62.
Arithmetic is exact over dyadic numbers and rounds only where a rule rounds. -/

namespace Sys2Proof.Machine

/-- An exact real n · 2^e. -/
structure Dy where
  n : Int
  e : Int
  deriving DecidableEq, Repr

namespace Dy

def add (a b : Dy) : Dy :=
  if a.n = 0 then b else if b.n = 0 then a else
  if a.e ≤ b.e then ⟨a.n + b.n * 2 ^ (b.e - a.e).toNat, a.e⟩
  else ⟨a.n * 2 ^ (a.e - b.e).toNat + b.n, b.e⟩

def mul (a b : Dy) : Dy := ⟨a.n * b.n, a.e + b.e⟩
def neg (a : Dy) : Dy := ⟨-a.n, a.e⟩
def scale (a : Dy) (k : Int) : Dy := ⟨a.n, a.e + k⟩

/-- a ≤ b, exactly. -/
def le (a b : Dy) : Bool := decide ((add a (neg b)).n ≤ 0)

end Dy

/-- The element formats of R39 and R41. -/
inductive Fmt where
  | fp32 | fp16 | bf16 | e4m3 | e5m2 | e2m3 | e3m2 | e2m1 | mxi8
  deriving DecidableEq, Repr

namespace Fmt

/-- Total bits (R39). -/
def bits : Fmt → Nat
  | fp32 => 32 | fp16 => 16 | bf16 => 16 | e4m3 => 8 | e5m2 => 8 | e2m3 => 6 | e3m2 => 6 | e2m1 => 4 | mxi8 => 8

/-- Mantissa bits (R39); MXINT8 has six fraction bits (R41). -/
def man : Fmt → Nat
  | fp32 => 23 | fp16 => 10 | bf16 => 7 | e4m3 => 3 | e5m2 => 2 | e2m3 => 3 | e3m2 => 2 | e2m1 => 1 | mxi8 => 6

/-- Exponent bias (R39). -/
def bias : Fmt → Nat
  | fp32 => 127 | fp16 => 15 | bf16 => 127 | e4m3 => 7 | e5m2 => 15 | e2m3 => 1 | e3m2 => 3 | e2m1 => 1 | mxi8 => 0

/-- The code of the largest finite magnitude (R39, R41). -/
def maxMag : Fmt → Nat
  | fp32 => 0x7F7FFFFF | fp16 => 0x7BFF | bf16 => 0x7F7F | e4m3 => 0x7E | e5m2 => 0x7B | e2m3 => 0x1F
  | e3m2 => 0x1F | e2m1 => 0x7 | mxi8 => 127

/-- Whether the format has infinities (R39). -/
def hasInf : Fmt → Bool
  | fp32 => true | fp16 => true | bf16 => true | e5m2 => true | _ => false

/-- The code of +∞, in a format with infinities. -/
def infMag : Fmt → Nat
  | fp32 => 0x7F800000 | fp16 => 0x7C00 | bf16 => 0x7F80 | e5m2 => 0x7C | _ => 0

/-- emax of R55. -/
def emax : Fmt → Int
  | e4m3 => 8 | e5m2 => 15 | e2m3 => 2 | e3m2 => 4 | e2m1 => 2 | _ => 0

/-- The MX element formats of R43. -/
def isMx : Fmt → Bool
  | e4m3 => true | e5m2 => true | e2m3 => true | e3m2 => true | e2m1 => true | mxi8 => true | _ => false

/-- Elements per 32-bit register (R45). -/
def epl : Fmt → Nat
  | fp32 => 1 | fp16 => 2 | bf16 => 2 | e2m1 => 8 | _ => 4

/-- Bits that one element takes in a register: FP6 codes are held one per byte (R45). -/
def slot : Fmt → Nat
  | fp32 => 32 | fp16 => 16 | bf16 => 16 | e2m1 => 4 | _ => 8

/-- The sign bit's weight. -/
def signBit (T : Fmt) : Nat := 2 ^ (T.bits - 1)

/-- The element format that a type code names (R79). -/
def ofType : Nat → Option Fmt
  | 9 => some fp16 | 10 => some bf16 | 11 => some fp32 | 12 => some e4m3 | 13 => some e5m2 | 14 => some e2m3
  | 15 => some e3m2 | 16 => some e2m1 | 17 => some mxi8 | _ => none

/-- The page format code of R47. -/
def pageFmt : Fmt → Nat
  | e4m3 => 1 | e5m2 => 2 | e2m3 => 3 | e3m2 => 4 | e2m1 => 5 | mxi8 => 6 | _ => 0

/-- The bytes of a packed block of 32 elements (R44). -/
def blockBytes : Fmt → Nat
  | e2m3 => 24 | e3m2 => 24 | e2m1 => 16 | _ => 32

end Fmt

/-- What a code stands for: a NaN, an infinity, or (−1)^neg · m · 2^e (R40 to R42). Zero keeps its sign. -/
inductive FVal where
  | nan
  | inf (neg : Bool)
  | fin (neg : Bool) (m : Nat) (e : Int)
  deriving DecidableEq, Repr

namespace FVal

def isNan : FVal → Bool | nan => true | _ => false
def isInf : FVal → Bool | inf _ => true | _ => false
def isZero : FVal → Bool | fin _ 0 _ => true | _ => false
def isNeg : FVal → Bool | inf s => s | fin s _ _ => s | nan => false

/-- The finite value as an exact real; 0 for a NaN or an infinity. -/
def dy : FVal → Dy
  | fin s m e => ⟨if s then -(m : Int) else m, e⟩
  | _ => ⟨0, 0⟩

def scale (k : Int) : FVal → FVal
  | fin s m e => fin s m (e + k)
  | x => x

/-- The magnitude |x|. -/
def abs : FVal → FVal
  | fin _ m e => fin false m e
  | inf _ => inf false
  | nan => nan

end FVal

/-- The value of a code under R40, R41 and R42. Bits above the format's width are ignored (R45). -/
def decodeF (T : Fmt) (code : Nat) : FVal :=
  match T with
  | .mxi8 =>
    let c := code % 256
    if c < 128 then .fin false c (-6) else .fin true (256 - c) (-6)
  | T =>
    let c := code % 2 ^ T.bits
    let neg := decide (T.signBit ≤ c)
    let mag := c % T.signBit
    let ef := mag / 2 ^ T.man
    let mf := mag % 2 ^ T.man
    if T.hasInf && decide (mag = T.infMag) then .inf neg
    else if T.hasInf && decide (T.infMag < mag) then .nan
    else if decide (T = .e4m3) && decide (mag = 0x7F) then .nan
    else if ef = 0 then .fin neg mf (1 - (T.bias : Int) - T.man)
    else .fin neg (2 ^ T.man + mf) ((ef : Int) - T.bias - T.man)

/-- The rounding modes of R49. -/
inductive RMode where
  | rne | rtz | rup | rdn | rsr
  deriving DecidableEq, Repr

/-- A rounding field's mode with the default mode of CTL for 0b111 (R49). The reserved values never reach a rounding
(they trap), and read here as RNE. -/
def rmode (field dflt : BitVec 3) : RMode :=
  let f := if field = 7 then (if dflt = 7 then 0 else dflt) else field
  if f = 1 then .rtz else if f = 2 then .rup else if f = 3 then .rdn else if f = 4 then .rsr else .rne

/-- hash64 (R52). -/
def hash64 (seed idx : DWord) : DWord :=
  let z := seed ^^^ (idx * 0x9E3779B97F4A7C15#64)
  let z := (z ^^^ (z >>> 30)) * 0xBF58476D1CE4E5B9#64
  let z := (z ^^^ (z >>> 27)) * 0x94D049BB133111EB#64
  z ^^^ (z >>> 31)

/-- How one element is rounded: the mode, and the bits u of R51 that RSR uses. -/
structure Rnd where
  mode : RMode
  u    : Nat
  deriving DecidableEq, Repr

/-- Round to nearest, ties to even. -/
def Rnd.rne : Rnd := ⟨.rne, 0⟩

/-- The rounding of the element with global index `idx` under `seed` (R51, R53). -/
def Rnd.at (mode : RMode) (seed : DWord) (idx : Nat) : Rnd :=
  ⟨mode, match mode with
    | .rsr => (hash64 seed (BitVec.ofNat 64 idx)).toNat % 2 ^ 32
    | _ => 0⟩

/-- Whether a magnitude lo + rem / 2^sh (with rem < 2^sh) rounds away from zero (R49, R51). -/
def roundsAway (r : Rnd) (neg : Bool) (lo rem sh : Nat) : Bool :=
  if rem = 0 then false else
  match r.mode with
  | .rne => decide (2 ^ sh < 2 * rem) || (decide (2 * rem = 2 ^ sh) && decide (lo % 2 = 1))
  | .rtz => false
  | .rup => !neg
  | .rdn => neg
  | .rsr => decide (2 ^ 32 ≤ rem * 2 ^ 32 / 2 ^ sh + r.u)

/-- m · 2^e rounded to a multiple of 2^q, as the integer multiple. -/
def roundAt (r : Rnd) (neg : Bool) (m : Nat) (e q : Int) : Nat :=
  if q ≤ e then m * 2 ^ (e - q).toNat
  else
    let sh := (q - e).toNat
    let lo := m / 2 ^ sh
    if roundsAway r neg lo (m % 2 ^ sh) sh then lo + 1 else lo

/-- The magnitude code of m · 2^e in T, with the exponent range unbounded above (R50). -/
def roundMag (T : Fmt) (r : Rnd) (neg : Bool) (m : Nat) (e : Int) : Nat :=
  match T with
  | .mxi8 => roundAt r neg m e (-6)
  | T =>
    if m = 0 then 0 else
    let qmin : Int := 1 - (T.bias : Int) - T.man
    let q := max ((Nat.log2 m : Int) + e - T.man) qmin
    (q - qmin).toNat * 2 ^ T.man + roundAt r neg m e q

/-- Puts a sign on a magnitude code; MXINT8 is two's complement (R41). -/
def signed (T : Fmt) (neg : Bool) (mag : Nat) : Nat :=
  match T with
  | .mxi8 => if neg then (256 - mag) % 256 else mag
  | T => if neg then T.signBit + mag else mag

/-- rnd followed by sat (R50, R54): the code, and whether sat changed its argument. -/
def rndSat (T : Fmt) (r : Rnd) (neg : Bool) (m : Nat) (e : Int) : Nat × Bool :=
  let mag := roundMag T r neg m e
  if T.maxMag < mag then (signed T neg T.maxMag, true) else (signed T neg mag, false)

/-- rnd into T (R50): IEEE 754 overflow in a format with infinities, sat otherwise. RSR of a magnitude between the largest
finite one and the next step gives infinity where its draw rounds up, the largest finite one elsewhere (log entry 84). The second part says whether sat
changed its argument (R54; overflow to infinity sets no flag). -/
def rndF (T : Fmt) (r : Rnd) (neg : Bool) (m : Nat) (e : Int) : Nat × Bool :=
  if T.hasInf then
    let mag := roundMag T r neg m e
    if T.maxMag < mag then
      let toInf := match r.mode with
        | .rne => true | .rtz => false | .rup => !neg | .rdn => neg | .rsr => true
      (signed T neg (if toInf then T.infMag else T.maxMag), false)
    else (signed T neg mag, false)
  else rndSat T r neg m e

/-- rnd of an exact nonzero real into a format with infinities. -/
def rndDy (T : Fmt) (r : Rnd) (x : Dy) : Nat := (rndF T r (decide (x.n < 0)) x.n.natAbs x.e).1

/-- The NaN that an operation generates with cause k (R57). -/
def nanc (k : Nat) (T : Fmt) : Nat :=
  match T with
  | .fp32 => 0x7FC00000 + k | .fp16 => 0x7E00 + k | .bf16 => 0x7FC0 + k | .e4m3 => 0x7F | .e5m2 => 0x7E | _ => 0

/-- A NaN code with its quiet bit set (R58). -/
def quiet (T : Fmt) (code : Nat) : Nat :=
  if code / 2 ^ (T.man - 1) % 2 = 1 then code else code + 2 ^ (T.man - 1)

def isNanF (T : Fmt) (code : Nat) : Bool := (decodeF T code).isNan

/-- R58: the first NaN of the operands, quieted. -/
def firstNan (T : Fmt) : List Nat → Option Nat
  | [] => none
  | c :: cs => if isNanF T c then some (quiet T c) else firstNan T cs

/-- A NaN code of S converted to T outside a block operation, and whether that sets STICKY.OVF (R57, R59). -/
def convNan (S T : Fmt) (code : Nat) : Nat × Bool :=
  let neg := decide (S.signBit ≤ code % 2 ^ S.bits)
  match T with
  | .e4m3 => (signed T neg 0x7F, false)
  | .e5m2 => (signed T neg 0x7E, false)
  | .fp32 | .fp16 | .bf16 =>
    match S with
    | .fp32 | .fp16 | .bf16 =>
      (signed T neg (nanc 0 T + code % 2 ^ (S.man - 1) % 2 ^ (T.man - 1)), false)
    | _ => (signed T neg (nanc 6 T), false)
  | _ => (0, true)

/-- A conversion of one code from S to a float or MX format T outside a block (R50, R59). -/
def convF (S T : Fmt) (r : Rnd) (code : Nat) : Nat × Bool :=
  match decodeF S code with
  | .nan => convNan S T code
  | .inf s => if T.hasInf then (signed T s T.infMag, false) else (signed T s T.maxMag, true)
  | .fin s m e => rndF T r s m e

/-- The sign of an exact zero sum whose terms do not all have one sign: −0 under RDN, +0 otherwise (R140). -/
def zeroSum (T : Fmt) (mode : RMode) : Nat := signed T (decide (mode = .rdn)) 0

/-- Rounds an exact sum; `allNeg` and `allPos` say that every term is a zero of that sign (R140). -/
def rndSum (T : Fmt) (r : Rnd) (allNegZero allPosZero : Bool) (x : Dy) : Nat :=
  if x.n = 0 then
    if allNegZero then signed T true 0 else if allPosZero then 0 else zeroSum T r.mode
  else rndDy T r x

/-- The rounded sum of a list of values of one format, in list order (R140, R58; R175 for cross-lane sums). -/
def sumF (T : Fmt) (r : Rnd) (cs : List Nat) : Nat :=
  match firstNan T cs with
  | some n => n
  | none =>
    let vs := cs.map (decodeF T)
    let pinf := vs.any (fun v => v = .inf false)
    let ninf := vs.any (fun v => v = .inf true)
    if pinf && ninf then nanc 3 T
    else if pinf then T.infMag
    else if ninf then signed T true T.infMag
    else rndSum T r (vs.all (fun v => v.isZero && v.isNeg)) (vs.all (fun v => v.isZero && !v.isNeg))
      (vs.foldl (fun acc v => acc.add v.dy) ⟨0, 0⟩)

/-- FADD (R140, R141). -/
def addF (T : Fmt) (r : Rnd) (a b : Nat) : Nat := sumF T r [a, b]

/-- The code with its sign bit inverted. -/
def negF (T : Fmt) (a : Nat) : Nat := if T.signBit ≤ a then a - T.signBit else a + T.signBit

/-- FSUB: a − b; a NaN operand keeps its sign (R58). -/
def subF (T : Fmt) (r : Rnd) (a b : Nat) : Nat :=
  match firstNan T [a, b] with
  | some n => n
  | none => addF T r a (negF T b)

/-- FMUL (R140, R141). -/
def mulF (T : Fmt) (r : Rnd) (a b : Nat) : Nat :=
  match firstNan T [a, b] with
  | some n => n
  | none =>
    let x := decodeF T a
    let y := decodeF T b
    let s := Bool.xor x.isNeg y.isNeg
    if (x.isInf && y.isZero) || (x.isZero && y.isInf) then nanc 4 T
    else if x.isInf || y.isInf then signed T s T.infMag
    else
      let p := x.dy.mul y.dy
      (rndF T r s p.n.natAbs p.e).1

/-- FMA, HFMA2, BFMA2: one rounding (R142). -/
def fmaF (T : Fmt) (r : Rnd) (a b c : Nat) : Nat :=
  match firstNan T [a, b, c] with
  | some n => n
  | none =>
    let x := decodeF T a
    let y := decodeF T b
    let z := decodeF T c
    let s := Bool.xor x.isNeg y.isNeg
    if (x.isInf && y.isZero) || (x.isZero && y.isInf) then nanc 4 T
    else if x.isInf || y.isInf then
      if z.isInf && z.isNeg != s then nanc 3 T else signed T s T.infMag
    else if z.isInf then c
    else
      let p := x.dy.mul y.dy
      let pz := decide (p.n = 0)
      rndSum T r (pz && s && z.isZero && z.isNeg) (pz && !s && z.isZero && !z.isNeg) (p.add z.dy)

/-- A total order on codes in which −0 is less than +0 (R143). -/
def orderKey (T : Fmt) (c : Nat) : Int :=
  if T.signBit ≤ c then -((c - T.signBit : Nat) : Int) - 1 else c

/-- FMIN (R143). -/
def minF (T : Fmt) (a b : Nat) : Nat :=
  match firstNan T [a, b] with
  | some n => n
  | none => if orderKey T a ≤ orderKey T b then a else b

/-- FMAX (R143). -/
def maxF (T : Fmt) (a b : Nat) : Nat :=
  match firstNan T [a, b] with
  | some n => n
  | none => if orderKey T b ≤ orderKey T a then a else b

/-- The value order of codes in which −0 = +0 (R145). -/
def valueKey (T : Fmt) (c : Nat) : Int :=
  if T.signBit ≤ c then -((c - T.signBit : Nat) : Int) else c

/-- a < b with no NaN (R145). -/
def ltF (T : Fmt) (a b : Nat) : Bool := !isNanF T a && !isNanF T b && decide (valueKey T a < valueKey T b)
/-- a = b with no NaN (R145). -/
def eqF (T : Fmt) (a b : Nat) : Bool := !isNanF T a && !isNanF T b && decide (valueKey T a = valueKey T b)

/-- FCLASS's one-bit mask (R146). -/
def classF (T : Fmt) (c : Nat) : Nat :=
  let s := decide (T.signBit ≤ c)
  match decodeF T c with
  | .nan => if c / 2 ^ (T.man - 1) % 2 = 1 then 512 else 256
  | .inf s => if s then 1 else 128
  | .fin _ m _ =>
    if m = 0 then (if s then 8 else 16)
    else if m < 2 ^ T.man then (if s then 4 else 32)
    else (if s then 2 else 64)

/-- FRND: rounds to an integral value in the same format (R147). -/
def roundIntegralF (T : Fmt) (r : Rnd) (c : Nat) : Nat :=
  match decodeF T c with
  | .nan => quiet T c
  | .inf _ => c
  | .fin s m e =>
    if m = 0 || decide (0 ≤ e) then c
    else (rndF T Rnd.rne s (roundAt r s m e 0) 0).1

/-- F2I: rounds to the integer grid and clamps to [lo, hi]; a NaN gives 0. The flag is STICKY.OVF (R149). -/
def toIntF (r : Rnd) (lo hi : Int) (c : Nat) : Int × Bool :=
  match decodeF .fp32 c with
  | .nan => (0, true)
  | .inf s => if s then (lo, true) else (hi, true)
  | .fin s m e =>
    let k := roundAt r s m e 0
    let v : Int := if s then -(k : Int) else k
    if v < lo then (lo, true) else if hi < v then (hi, true) else (v, false)

/-- I2F (R149). -/
def ofIntF (r : Rnd) (v : Int) : Nat := (rndF .fp32 r (decide (v < 0)) v.natAbs 0).1

/-- |x| as the MAG field of AMAX counts it: rounded toward zero to FP32, infinity only for infinity (R63). -/
def amaxMag : FVal → Nat
  | .nan => 0
  | .inf _ => 0x7F800000
  | .fin _ m e => (rndF .fp32 ⟨.rtz, 0⟩ false m e).1

/-- dq (R65): the exact value of an MX element under its scale code; a NaN scale or a NaN code gives a NaN. -/
def dq (T : Fmt) (c s : Nat) : FVal :=
  if s = 0xFF then .nan else (decodeF T c).scale ((s : Int) - 127)

/-- The cause of the NaN that dq gives (R65). -/
def dqCause (s : Nat) : Nat := if s = 0xFF then 2 else 1

/-- The larger of two magnitudes of non-NaN values. -/
def maxAbs (a b : FVal) : FVal :=
  match a, b with
  | .inf _, _ => .inf false
  | _, .inf _ => .inf false
  | a, b => if a.abs.dy.le b.abs.dy then b.abs else a.abs

/-- floor(log2 (m · 2^e)) for m ≠ 0. -/
def floorLog2 (m : Nat) (e : Int) : Int := (Nat.log2 m : Int) + e

/-- bscale (R55): the unbiased block exponent for a block of largest magnitude a. -/
def bscale (T : Fmt) (fit : Bool) (a : FVal) : Int :=
  match a with
  | .fin _ m e =>
    if m = 0 then -127 else
    let x :=
      if fit then
        match decodeF T T.maxMag with
        | .fin _ mm me =>
          let x0 := floorLog2 m e - floorLog2 mm me
          if (Dy.mk m e).le ⟨mm, me + x0⟩ then x0 else x0 + 1
        | _ => 0
      else floorLog2 m e - T.emax
    max (-127) (min 127 x)
  | _ => 127

/-- One element of q's loop under block exponent x (R56): its code, and whether STICKY.OVF is set. -/
def quantElem (T : Fmt) (r : Rnd) (x : Int) (v : FVal) : Nat × Bool :=
  match v with
  | .nan => (0, false)
  | .inf s => if T = .e5m2 then (signed T s T.infMag, false) else (signed T s T.maxMag, true)
  | .fin s m e => rndSat T r s m (e - x)

/-- A quantised block: its codes, its scale code, and whether STICKY.OVF is set. -/
structure QBlock where
  codes : List Nat
  scale : Nat
  ovf   : Bool
  deriving DecidableEq, Repr

/-- The element loop of q for a given block exponent. -/
def quantWith (T : Fmt) (x : Int) (vs : List (FVal × Rnd)) : QBlock :=
  let rs := vs.map (fun v => quantElem T v.2 x v.1)
  ⟨rs.map (·.1), (x + 127).toNat, rs.any (·.2)⟩

/-- q (R56), with the rounding of each element. -/
def quantBlock (T : Fmt) (fit : Bool) (vs : List (FVal × Rnd)) : QBlock :=
  if vs.any (fun v => v.1.isNan) then ⟨vs.map (fun _ => 0), 0xFF, false⟩
  else quantWith T (bscale T fit (vs.foldl (fun a v => maxAbs a v.1) (.fin false 0 0))) vs

/-- One element pair of a K-block: the codes of A and B and the scale code of the B element (R60, R290). -/
structure DotElem where
  a  : Nat
  b  : Nat
  sb : Nat
  deriving DecidableEq, Repr

/-- The first NaN met among codes of T, in element order, as R61 orders 2 and 3 give it. -/
def dotNan (T : Fmt) (cs : List Nat) : Option Nat :=
  match cs.find? (fun c => isNanF T c) with
  | none => none
  | some c => if T.isMx then some (nanc 1 .fp32) else some (convNan T .fp32 c).1

/-- One K-block added to an FP32 accumulator (R60, R61, R290). `scalesB` are the B scales that order 1 tests. -/
def dotBlock (TA TB : Fmt) (sa : Nat) (scalesB : List Nat) (es : List DotElem) (acc : Nat) : Nat :=
  if sa = 0xFF || scalesB.any (fun s => s = 0xFF) then nanc 2 .fp32 else
  let nanA := dotNan TA (es.map (·.a))
  let nanB := dotNan TB (es.map (·.b))
  -- order 2 takes MX NaN codes of A then B before order 3 takes 16-bit NaNs; the two kinds never meet in one block
  match nanA.orElse (fun _ => nanB) with
  | some n => n
  | none =>
    if isNanF .fp32 acc then acc else
    let ps := es.map (fun d => (decodeF TA d.a, decodeF TB d.b, (d.sb : Int) - 127))
    if ps.any (fun p => (p.1.isInf && p.2.1.isZero) || (p.1.isZero && p.2.1.isInf)) then nanc 4 .fp32 else
    let infs := (ps.filter (fun p => p.1.isInf || p.2.1.isInf)).map (fun p => Bool.xor p.1.isNeg p.2.1.isNeg)
    let accV := decodeF .fp32 acc
    match infs with
    | s :: rest =>
      if rest.any (fun t => t != s) || (accV.isInf && accV.isNeg != s) then nanc 3 .fp32
      else signed .fp32 s Fmt.fp32.infMag
    | [] =>
      if accV.isInf then acc else
      let p := ps.foldl (fun (t : Dy) p => t.add ((p.1.dy.mul p.2.1.dy).scale p.2.2)) ⟨0, 0⟩
      if p.n = 0 then acc
      else rndSum .fp32 Rnd.rne false false (accV.dy.add (p.scale ((sa : Int) - 127)))

/-- A narrow immediate read as a float of the operation type (R62). -/
def narrowFloat (T : Fmt) (imm : Nat) : Nat :=
  let c := imm % 2 ^ 11 * 32
  if isNanF .fp16 c then nanc 5 T else (convF .fp16 T Rnd.rne c).1

end Sys2Proof.Machine
end

