-- ==== Sys2Proof/Config.lean ====
section
/-! DEFINITION. What an implementation fixes and what the manual leaves open (00_scope.md R6).
Every constant is opaque: nothing in Lean can evaluate one, so no proof can rest on a value of it. -/

namespace Sys2Proof.Config

/-- An undefined value of R6: fresh for each value of the model's own counter `State.free`
(log entry 3). -/
opaque freeWord : Nat → Word

/-- An unspecified choice between two outcomes that the manual lists (R6: "unspecified"), fresh for each
value of `State.free` (log entry 3). -/
opaque freeChoice : Nat → Bool

/-- The HBM4E channel of a physical address, by its bits [51:10] (R202): the manual gives the hash no formula (log entry 81). -/
opaque hbmChannel : Nat → Nat

/-- Whether the device's trust keys accept the ECDSA P-384 signature over a header (R439, R447).
The manual names the algorithm and not the keys (log entry 20). -/
opaque ecdsaAccepts : List Byte → List Byte → Bool

/-- Whether the device's trust keys accept the LMS signature over a header (R439, R447; log entry 20). -/
opaque lmsAccepts : List Byte → List Byte → Bool

/-- The device's own ECDSA P-384 signature over an attestation report (R446; log entry 20). -/
opaque ecdsaSign : List Byte → List Byte

/-- The device's own LMS signature over an attestation report (R446; log entry 20). -/
opaque lmsSign : List Byte → List Byte

end Sys2Proof.Config
end

