-- ==== Sys2Proof/Machine/Sparse.lean ====
section
/-! DEFINITION. Sparse data by key: a list of (key, value) pairs with keys strictly rising and no entry equal to the
default `d` that an unlisted key reads as. Every memory and register file of the machine is held so, and equal
contents are equal lists. -/

namespace Sys2Proof.Machine

/-- A sparse map from natural-number keys. -/
abbrev Sparse (α : Type) := List (Nat × α)

/-- The value at key `k`; an unlisted key reads as `d`. -/
def sget {α : Type} (d : α) : Sparse α → Nat → α
  | [], _ => d
  | (k', x) :: m, k => if k = k' then x else sget d m k

/-- Writes `x` at key `k`, keeping the canonical form. -/
def sset {α : Type} [DecidableEq α] (d : α) : Sparse α → Nat → α → Sparse α
  | [], k, x => if x = d then [] else [(k, x)]
  | (k', y) :: m, k, x =>
    if k = k' then (if x = d then sset d m k x else (k, x) :: m)
    else if k < k' && x ≠ d then (k, x) :: (k', y) :: m
    else (k', y) :: sset d m k x

/-- Writes a list of (key, value) pairs, in the order of the list. -/
def ssets {α : Type} [DecidableEq α] (d : α) (m : Sparse α) (ws : List (Nat × α)) : Sparse α :=
  ws.foldl (fun m kw => sset d m kw.1 kw.2) m

/-- All keys of `m` lie at or above `lo`, rise strictly, and no value is the default. -/
def swfFrom {α : Type} [DecidableEq α] (d : α) : Nat → Sparse α → Bool
  | _, [] => true
  | lo, (k, x) :: m => decide (lo ≤ k) && decide (x ≠ d) && swfFrom d (k + 1) m

/-- The canonical form of a sparse map. -/
def swf {α : Type} [DecidableEq α] (d : α) (m : Sparse α) : Bool := swfFrom d 0 m

/-- The values at `n` consecutive keys from `k`. -/
def sgets {α : Type} (d : α) (m : Sparse α) (k n : Nat) : List α :=
  (List.range n).map (fun i => sget d m (k + i))

/-- Pairs a list of values with consecutive keys from `k`. -/
def keyed {α : Type} (k : Nat) : List α → List (Nat × α)
  | [] => []
  | x :: xs => (k, x) :: keyed (k + 1) xs

/-- Removes the entries whose keys satisfy `p`, so that they read as the default. -/
def sdrop {α : Type} (p : Nat → Bool) (m : Sparse α) : Sparse α := m.filter (fun e => !p e.1)

/-- The elements of a list without repeats, first occurrences kept. -/
def uniq {α : Type} [DecidableEq α] : List α → List α
  | [] => []
  | x :: xs => x :: (uniq xs).filter (fun y => y ≠ x)

/-- The value that an association list gives a key. -/
def aget {α : Type} : List (Nat × α) → Nat → Option α
  | [], _ => none
  | (k, x) :: m, q => if q = k then some x else aget m q

/-- Replaces the value of a key that an association list holds. -/
def aset {α : Type} : List (Nat × α) → Nat → α → List (Nat × α)
  | [], _, _ => []
  | (k, y) :: m, q, x => if q = k then (k, x) :: m else (k, y) :: aset m q x

end Sys2Proof.Machine
end

