-- ==== Sys2Proof/Machine/State.lean ====
section
/-! DEFINITION. The state of the machine, as plain data: everything the manual gives the module, its launches, clusters,
blocks, troupes and lanes, its engines and tables, and what its surroundings keep. -/

namespace Sys2Proof.Machine

/-! ## Troupes and lanes (01, 04, 18) -/

/-- Where a frontier entry's PC lies (01 R24, 03 R71, R90). -/
inductive Place where
  /-- At the header of a block that lanes were sent to. -/
  | header
  /-- At ENTRY of the launch, not yet checked (R71). -/
  | entry
  /-- At the handler's header, not yet checked (R397). -/
  | handler
  /-- At a word inside a block whose body ends at `fin` (R67). -/
  | body (fin : DWord)
  deriving DecidableEq, Repr

/-- A frontier entry (R24) with the live value of its header (R68; 0 before the header has been checked). `yielded` numbers
the YIELD after which the entry has not issued, and `owes` the first YIELD of another entry since this one last issued; 0
stands for none (R27). -/
structure FEntry where
  pc      : DWord
  prio    : Nat
  mask    : Lanes
  place   : Place
  owes    : Nat
  yielded : Nat
  live    : Nat
  deriving DecidableEq, Repr

/-- A set bypass latch (R86): 32 bits per lane, a scale tag, and whether a uniform op wrote it (R80). -/
structure Latch where
  vals    : List Word
  tag     : List Byte
  uniform : Bool
  deriving DecidableEq, Repr

/-- The bypass latches and counts of a run (R85 to R88). -/
structure Run where
  latches : List (Option Latch)
  k       : Nat
  words   : Nat
  deriving DecidableEq, Repr

/-- Results issued and not yet written to the registers (R86, R97, R163), of an SFU op, of a load (R117) or of another op: v
cells by register · 128 + lane, s cells by register, tag bytes by register · 32 + byte. -/
structure Late where
  sfu : Bool
  load : Bool
  v   : List (Nat × Word)
  s   : List (Nat × Word)
  sc  : List (Nat × Byte)
  deriving DecidableEq, Repr

/-- One side of a fibre register (08 R182). -/
structure Side where
  desc   : Nat
  level  : Nat
  spec   : Nat
  iw     : Bool
  adv    : Bool
  parent : Word
  cur    : Word
  fin    : Word
  coord  : Word
  deriving DecidableEq, Repr

/-- A fibre register (R182). -/
structure Fibre where
  a     : Side
  b     : Side
  mode  : Nat
  count : Word
  deriving DecidableEq, Repr

/-- A piece of memory that the model watches: its address and length, and its bytes that were not 0 when it could first be
read. -/
structure Piece where
  va   : Nat
  len  : Nat
  seen : Option (List Host.Cell)
  deriving DecidableEq, Repr

/-- What the model watches of an open fibre (08 R196; log entry 3): its descriptor and arrays in pieces, and whether a fibre op has
found them changed. -/
structure Watch where
  pieces  : List Piece
  changed : Bool
  deriving DecidableEq, Repr

/-- What handler mode holds aside (18 R395): the interrupted frontier with the issuing entry first, H, the run, and what the
faulting word has yielded for its latch (03 R86). -/
structure Held where
  frontier : List FEntry
  h        : Lanes
  run      : Run
  kept     : List (Nat × Word)
  keptTag  : List (Nat × Byte)
  deriving DecidableEq, Repr

/-- The kind of a memory access (R217, R219, R409). -/
inductive Access where
  | load | store | atomic | fetch | engine
  deriving DecidableEq, Repr

/-- A pager report (R219) or the pending fault of a saved context (R409). -/
structure Report where
  va    : DWord
  kind  : Access
  lanes : Lanes
  seq   : Word
  level : Nat
  deriving DecidableEq, Repr

/-- Where an op issues: its troupe, the address of its op word, bits [63:32] of the op word and of its extension
word, its length in words, and whether it is the last of its block. -/
structure Cur where
  r     : TRef
  pc    : DWord
  hi    : Word
  hiExt : Word
  len   : Nat
  last  : Bool
  deriving DecidableEq, Repr

/-- The waits that give up the issue slot (18 R406). -/
inductive WaitKind where
  | turn
  | barw (tag : Nat)
  | tbwait | tbtest | mwait
  deriving DecidableEq, Repr

/-- Why a troupe is not ready (14 R344). -/
inductive TStatus where
  /-- Ready to issue, or issuing. -/
  | ready
  /-- In a wait; the word is kept so that its release completes it. -/
  | waiting (k : WaitKind) (i : Instr) (c : Cur)
  /-- Stalled at a word, holding the slot; the word is kept so that its event goes on with it (R85). -/
  | stalled (i : Instr) (c : Cur)
  /-- In SLEEP until the clock given (R342). -/
  | sleeping (until_ : Nat)
  /-- Parked on a recoverable page fault (R396). -/
  | parked (rep : Report)
  /-- Parked at BKPT with a debugger attached (R403). -/
  | breakpoint
  /-- Ended by a trap (R398). -/
  | stopped
  /-- The code at an address that it needs is in a segment that has not been verified yet (22 R444). -/
  | verifying (va : DWord)
  /-- Every launched lane has exited (R30). -/
  | retired
  deriving DecidableEq, Repr

/-- The counters that R375 holds per troupe. -/
structure TCounters where
  retired : Nat
  runs    : Nat
  hold    : Nat
  readyw  : Nat
  spills  : Nat
  deriving DecidableEq, Repr

/-- A declared troupe (R11 to R19, R95, R102, R395). -/
structure Troupe where
  width    : Nat
  wid0     : DWord
  fields   : List Word
  nregs    : Nat
  launched : Lanes
  exited   : Lanes
  v        : Sparse Word
  sc       : Sparse Byte
  s        : Sparse Word
  p        : Sparse Lanes
  fb       : List Fibre
  /-- A watch for each fibre register: the model's own (log entry 3). -/
  watch    : List Watch
  run      : Run
  midRun   : Bool
  rnd      : BitVec 3
  det      : Bool
  seed     : DWord
  amax     : Word
  sticky   : Word
  prog     : Word
  tcause   : Word
  tpc      : DWord
  tval     : DWord
  tmask    : Lanes
  tvec     : DWord
  frontier : List FEntry
  held     : Option Held
  rm       : Option Lanes
  late     : List Late
  status   : TStatus
  retiredInsns : Nat
  launches : Nat
  waitw    : Nat
  /-- Arena stores since the last MFENCE are still on their way (12 R296). -/
  arenaBusy : Bool
  /-- The lanes of TMASK as the last trap wrote it (12 R288): the model's own. -/
  trapped  : Lanes
  /-- How many writes of each v register, or of its tag, the troupe has issued since placement (R101, R109). -/
  wrote    : Sparse Nat
  /-- The troupe has resumed at the word of a pending fault, which it executes before it takes part in arbitration (18 R410). -/
  redo     : Bool
  /-- The lanes that the LDG or STG at the head has completed so far, where a pre-emption or a pager's page fault has stopped it
  part-way (04 R105; 11 R250). -/
  served   : Lanes
  /-- What the load or FBNEXT with W at the head has yielded so far, by lane and by tag byte, where a pre-emption or a pager's page
  fault has stopped it part-way: its latch receives this when it completes (03 R86; 08 R199; 18 R410). -/
  kept     : List (Nat × Word)
  keptTag  : List (Nat × Byte)
  counters : TCounters
  deriving DecidableEq, Repr


/-! ## Translation (09) -/

/-- What a leaf of the page table says (R214): its size in address bits, permissions, format, home and frame, and whether it
is part of a run. As an entry of the translation cache it may have the 25 bits of a whole run (R215). -/
structure Leaf where
  bits   : Nat
  w      : Bool
  x      : Bool
  recov  : Bool
  fmt    : Nat
  home   : Nat
  member : Nat
  frame  : Nat
  run    : Bool
  deriving DecidableEq, Repr

/-- An entry of a core's translation cache (R216). -/
structure TlbEntry where
  core : Nat
  ctx  : Nat
  va   : Nat
  leaf : Leaf
  deriving DecidableEq, Repr

/-- A translation taken at the issue of asynchronous work: the base of a 256 KiB piece of address space and its leaf (R220). -/
abbrev Pages := List (Nat × Leaf)

/-- A byte of an L1 data cache (R206): absent, as filled, or stored with .ca and not yet written through. -/
inductive L1Byte where
  | absent
  | clean (b : Byte)
  | dirty (b : Byte)
  deriving DecidableEq, Repr

/-- Whether a frame may be fetched from (22 R444). -/
inductive FrameState where
  /-- No verified load has written it, or a store has written it since. -/
  | unverified
  /-- Its segment has not been verified yet. -/
  | pending
  | verified
  deriving DecidableEq, Repr

/-! ## The arena of a block (10) -/

/-- The marks of a word of a next plane (R229): the key of the standing write (0 for an asynchronous writer, one more
than troupe · 128 + lane otherwise), the copy and destination element that gave it (13 R318; 0 for none, one more than
the copy's number otherwise), the troupes that have written it, whether an asynchronous writer has, and whether it is
collided. -/
structure Mark where
  key      : Nat
  copy     : Nat
  elem     : Nat
  troupes  : BitVec 64
  async    : Bool
  collided : Bool
  deriving DecidableEq, Repr

/-- A pending turn (R239). -/
structure Turn where
  g       : BitVec 64
  m       : BitVec 16
  arrived : BitVec 64
  deriving DecidableEq, Repr

/-- Who wrote a piece of the arena, as the ordering of operand reads asks (R241, R267, R322): a store of a troupe; a copy, with
its number, its troupe and the place of its COPY in the order of issue; an engine; or a turn, which swapped the planes. -/
inductive ArenaWriter where
  | store (troupe : Nat)
  | copy (id troupe issue : Nat)
  | engine
  | turn
  deriving DecidableEq, Repr

/-- A write to a 4-byte piece of the arena (R224, R267): its place in the order of issue, its writer and the piece it
replaced. -/
structure Stamp where
  seq : Nat
  who : ArenaWriter
  old : Word
  deriving DecidableEq, Repr

/-- Elements of a tile: `rows` rows of `cols` columns. -/
structure TileArea where
  tile : Nat
  row  : Nat
  rows : Nat
  col  : Nat
  cols : Nat
  deriving DecidableEq, Repr

/-- A copy into the arena or a tile that is complete (R322): its number, the tile elements that it wrote, its barrier, and the
troupes that have observed its completion there, each with its place in the order of issue. -/
structure Landed where
  id   : Nat
  area : Option TileArea
  bar  : Nat × Nat
  seen : List (Nat × Nat)
  deriving DecidableEq, Repr

/-! ## Acts (12, 14) -/

/-- An act-stream instruction in a member's list (R273): the instruction, the values it read from s registers, the index
vector of MMA.G, the A group and its tags as they stood at issue with the counts of writes to its registers, the
translations of ACCST and PATLD, the step number of
MLOOP, its place in the order of issue and that of the member's last MFENCE, and SEED and the default rounding of the
member (R294). -/
structure MInsn where
  i     : Instr
  svals : List Word
  idx   : List Word
  grp   : List Word
  tags  : List Byte
  counts : List Nat
  pages : Pages
  step  : Nat
  seq   : Nat
  fence : Nat
  seed  : DWord
  rnd   : BitVec 3
  deriving DecidableEq, Repr

/-- A pending MCONV (R272) with the act-stream instructions issued since. -/
structure PendMember where
  troupe : Nat
  gmask  : BitVec 64
  tiles  : BitVec 16
  rows32 : Bool
  list   : List MInsn
  deriving DecidableEq, Repr

/-- An error of a batch (R299). -/
inductive BatchErr where
  | pattern (offset step reason : Nat)
  | poison (offset region step : Nat)
  deriving DecidableEq, Repr

/-- An A group that a performed step has read (R101): its troupe, first register, the counts of writes to its registers when
the step was issued, and the step's tile. -/
structure GroupRead where
  troupe : Nat
  reg    : Nat
  counts : List Nat
  tile   : Nat
  deriving DecidableEq, Repr

/-- Arena bytes that a performed step has read (R282): their first byte in the allocation, their number, who issued the step
(for each member its troupe, the place of its instruction and that of its last MFENCE) and the step's tile. -/
structure WordRead where
  first   : Nat
  len     : Nat
  issuers : List (Nat × Nat × Nat)
  tile    : Nat
  deriving DecidableEq, Repr

/-- A batch of an act (R325): entries counted into it and performed, whether an MCOMMIT closed it, its error, the
members it has been reported to, the tiles its entries name, and the A groups and operand words that belong to it until
MWAIT. -/
structure Batch where
  entries  : Nat
  done     : Nat
  closed   : Bool
  err      : Option BatchErr
  reported : List Nat
  tiles    : BitVec 16
  reads    : List GroupRead
  words    : List WordRead
  deriving DecidableEq, Repr

/-- A member of an act: its troupe, whether it has left, its unmatched instructions, whether an act-stream
instruction followed its last MWAIT 0 (R274). -/
structure Member where
  troupe : Nat
  left   : Bool
  list   : List MInsn
  dirty  : Bool
  deriving DecidableEq, Repr

/-- An entry that is matched and not yet performed, with its batch; the instructions are in member order. -/
structure MEntry where
  batch : Nat
  insns : List MInsn
  deriving DecidableEq, Repr

/-- The record of an act (R269, R273): members in index order, rows per member, tiles, entries matched so far, the
matched entries still to be performed, its batches, the first offending entry, and whether a report of that entry has
dissolved it (R276; log entry 87). -/
structure MAct where
  members  : List Member
  rm       : Nat
  tiles    : BitVec 16
  matched  : Nat
  queue    : List MEntry
  batches  : List Batch
  bad      : Option (Nat × Nat)
  dissolved : Bool
  deriving DecidableEq, Repr

/-! ## Copies (13) -/

/-- What a copy has read for a destination row, transformed (13 R305 to R308): its bytes, those that derive from poison, and
the scale codes of a row of typed lines. -/
structure RowImage where
  bytes  : List Byte
  bad    : List Bool
  scales : List Byte
  deriving DecidableEq, Repr

/-- A copy in a request queue (R301, R312): who issued it, its kind (0 COPY, 1 COPYG, 2 COPYS), descriptor and index vector, the
translations of step 7, the seed of RSR, the WID of lane 0 and the default rounding of the issuing troupe, its place in
the order of issue, the key of a global barrier, the units in all and those settled, its destination rows once it has read its
source, the row from which on nothing is written (R323), and whether it conflicts with an entry on its tile (R317). -/
structure CopyReq where
  id      : Nat
  core    : Nat
  cluster : Nat
  block   : Nat
  troupe  : Nat
  ctx     : Nat
  kind    : Nat
  desc    : List Byte
  idx     : List Word
  pages   : Pages
  seed    : DWord
  wid0    : DWord
  rnd     : BitVec 3
  seq     : Nat
  bkey    : Nat
  total   : Nat
  settled : List Nat
  image   : Option (List RowImage)
  stop    : Option Nat
  loose   : Bool
  deriving DecidableEq, Repr

/-! ## Barrier tags (16) -/

/-- A barrier tag (R372): COUNT, TOTAL, and the troupes (block · 64 + index) with ARV and with DONE. -/
structure Tag where
  count : Nat
  total : Nat
  arv   : List Nat
  done  : List Nat
  deriving DecidableEq, Repr

/-! ## Blocks and clusters (01) -/

/-- A block: its core, its troupes, arena allocation, region table, planes' marks, complete copies, turns, tiles, pattern memory,
acts. -/
structure Block where
  core      : Nat
  troupes   : List Troupe
  rgn       : List DWord
  arenaSize : Nat
  arena     : Sparse Byte
  apoison   : Sparse Bool
  marks     : Sparse (Option Mark)
  stamps    : Sparse (List Stamp)
  landed    : List Landed
  turns     : List Turn
  tileCount : Nat
  tiles     : Sparse Word
  tilePoison : Sparse Bool
  /-- Tiles that two acts have named at once, or of whose batch an operand was written before its MWAIT: their elements hold
  undefined values (12 R272, R282; 04 R101). -/
  undef     : BitVec 16
  /-- The elements of those tiles that a copy has written since. -/
  fixed     : Sparse Bool
  patSize   : Nat
  pat       : Sparse Byte
  patPoison : Sparse Bool
  pend      : List PendMember
  acts      : List MAct
  actErr    : List (Nat × Nat × Nat)
  fences    : List (Nat × Nat)
  since     : List (Nat × Nat)
  exited    : Bool
  deriving DecidableEq, Repr

/-- The life of a cluster (R28, R32, R338). -/
inductive ClusterState where
  | resident
  /-- Told to stop for a pre-emption; its troupes stop at their next instruction boundaries (18 R406). -/
  | stopping
  /-- Saved, and a candidate for placement again (R339). -/
  | saved
  /-- Every block has retired; its retirement actions are still to come (R338). -/
  | finished
  deriving DecidableEq, Repr

/-- A cluster that has been placed: its launch, coordinates and ordinal, die, place in the order of placements, the bytes of
troupe saves in its saved context (04 R109), and its blocks and barrier tags. -/
structure Cluster where
  launch  : Nat
  f3      : Nat
  f4      : Nat
  f5      : Nat
  ordinal : Nat
  die     : Nat
  placed  : Nat
  state   : ClusterState
  reason  : Nat
  saved   : Nat
  blocks  : List Block
  tags    : List Tag
  deriving DecidableEq, Repr

/-! ## Collective bindings (15 R353, 17) -/

/-- A result that waits for the ready notify of the peer it goes to (R382): the peer's rank, and the notify and bytes. -/
structure ResultWait where
  rank  : Nat
  note  : Notify
  bytes : List Byte
  deriving DecidableEq, Repr

/-- A notify's parameters that a peer sent when it reserved (R382): its RXBASE and TXBASE. -/
structure PeerBase where
  rank : Nat
  rx   : DWord
  tx   : DWord
  deriving DecidableEq, Repr

/-- A collective binding of a launch: its table entry, peers, translations, and the counters of R378 once reserved. -/
structure Binding where
  entry    : List Byte
  peers    : List Nat
  pages    : Pages
  reserved : Bool
  complete : Bool
  epoch    : Nat
  fire     : Sparse Nat
  /-- Chunks read into their send slots, those handed on (R338), and those of them that wait for READY of their owner. -/
  fired    : List Nat
  handed   : List Nat
  sendWait : List Nat
  resWait  : List ResultWait
  arrive   : Sparse Nat
  /-- Chunks whose reduce block runs, with its core · 4 + quadrant (R383). -/
  dispatched : List (Nat × Nat)
  reduced  : List Nat
  ready    : List PeerBase
  results  : Nat
  written  : List Nat
  txbase   : Nat
  rxbase   : Nat
  pmaps    : List (Nat × Nat × BitVec 64 × Bool)
  hist     : List Nat
  amax     : Word
  sticky   : Word
  poison   : Bool
  fault    : Bool
  deriving DecidableEq, Repr

/-! ## Launches and queues (14, 15) -/

/-- A launch record in a launch queue (R329, R346): the 256 bytes as they were copied, arrival number, context, SEQ of the
host command, and for a record from LAUNCH the issuing launch with its effective grant. -/
structure QRec where
  bytes   : List Byte
  arrival : Word
  ctx     : Nat
  hseq    : Word
  parent  : Option Nat
  grant   : Bool
  deriving DecidableEq, Repr

/-- A trap that stopped a troupe (R398), as the completion record reports it: status 8 UNHANDLED or 9 NESTED, and the
trap state. -/
structure TrapReport where
  status : Nat
  wid    : DWord
  tcause : Word
  tpc    : DWord
  tval   : DWord
  tmask  : Lanes
  deriving DecidableEq, Repr

/-- What the device is doing with a launch's recording (18 R411): the host's interval and log buffer, the bytes of it that
the log has taken, the retired count at the last checkpoint, the instructions that clusters no longer present have
retired, whether the buffer is full, and the entries that wait for space in it. -/
structure Recording where
  interval : Nat
  addr     : Nat
  size     : Nat
  used     : Nat
  since    : Nat
  gone     : Nat
  full     : Bool
  unsent   : List Byte
  deriving DecidableEq, Repr

/-- A launch in the dependence table (R333, R355 to R357), with the tables read at admission (R350). -/
structure Launch where
  bytes    : List Byte
  arrival  : Word
  ctx      : Nat
  hseq     : Word
  parent   : Option Nat
  grant    : Bool
  order    : Nat
  entry    : Nat
  waits    : List Nat
  rgn      : List DWord
  tvecEnt  : List Byte
  bindings : List Binding
  reservedAll : Bool
  state    : Nat
  next     : Nat
  done     : Nat
  /-- Candidates of the launch that have been skipped, by ordinal, with the clock since which; and those that now hold back
  every candidate behind them (14 R336). -/
  skipped  : List (Nat × Nat)
  blocking : List Nat
  ended    : Bool
  traps    : List TrapReport
  sticky   : Word
  claims   : List Nat
  widen    : Bool
  record   : Option Recording
  deriving DecidableEq, Repr

/-- A claim queue (R340). -/
structure Claim where
  next   : Word
  limit  : Word
  owners : List Nat
  deriving DecidableEq, Repr

/-! ## The module, its host and its firmware (22) -/

/-- A context (R434), with the SEQ of the last command accepted for it (R437). -/
structure Ctx where
  num      : Nat
  l1       : Nat
  pager    : Bool
  debugger : Bool
  last     : Word
  deriving DecidableEq, Repr

/-- A response to the host (R430, R432): its header, with the payload's length in 64-byte units and the reserved field, and
its payload. -/
structure Resp where
  seq     : Word
  ack     : Word
  kind    : Nat
  ctx     : Nat
  len     : Nat
  rsv     : Word
  payload : List Byte
  deriving DecidableEq, Repr

/-- A ZCO object in the course of loading, or loaded (R439, R440): its handle and context, where its code goes, the segment
expected with its bytes so far and its digest, the header, the image verified so far with the image offset at which
each segment ends, the functions already translated, and whether the code cache gave its frames (R443). -/
structure Obj where
  handle  : DWord
  ctx     : Nat
  codeva  : Nat
  seg     : Nat
  buf     : List Byte
  digest  : List Byte
  header  : List Byte
  image   : List Byte
  segEnds : List Nat
  done    : List Nat
  cached  : Bool
  loaded  : Bool
  deriving DecidableEq, Repr

/-- An entry of the code cache (R443). -/
structure CodeEntry where
  key    : List Byte
  svn    : Nat
  ok     : Bool
  frames : List Nat
  deriving DecidableEq, Repr

/-- A message to another module (17 R380): the member it goes to, the KIND and fields of its notify, and the address and
bytes of the slot it announces. -/
structure FabricMsg where
  member : Nat
  kind   : Nat
  note   : Notify
  slot   : Nat
  bytes  : List Byte
  deriving DecidableEq, Repr

/-- One move of the machine: the word that a quadrant's slot issues next, or a step of another agent. -/
inductive Act where
  | word (core quadrant : Nat)
  | ev (i : Instr)
  deriving DecidableEq, Repr

/-- An invalidation of translations in progress (R220), with the command's SEQ. -/
structure Invalidation where
  ctx : Nat
  seq : Word
  deriving DecidableEq, Repr

/-- The counts and queues that a move finds and that the work of others moves too: a replay sets them as they stood (R412). -/
structure Setting where
  clk      : Nat
  seq      : Nat
  free     : Nat
  nextId   : Nat
  pagerSeq : Word
  ack      : Word
  arrivals : Word
  lq       : List (List QRec)
  deriving DecidableEq, Repr

/-- A logged move (R411) with what it found and the bytes of memory that it changed, in which the coherence order of their writes
can be read. -/
structure LogMove where
  act   : Act
  found : Setting
  wrote : List Nat
  deriving DecidableEq, Repr

/-- A checkpoint of a recorded launch (R411): the launch and its clusters, memory, staging pool and claim queues, whether a
debugger was attached, the counts at which the recorded run went on, the moves logged since, and the bytes of memory that
they have changed. -/
structure Checkpoint where
  launch   : Nat
  la       : Launch
  clusters : List (Nat × Cluster)
  mem      : List Host.Cell
  side     : Sparse Byte
  poison   : Sparse (Option (BitVec 64))
  sidePoison : Sparse Bool
  frames   : Sparse FrameState
  claims   : List Claim
  staging  : Sparse Byte
  debugger : Bool
  clk      : Nat
  seq      : Nat
  free     : Nat
  moves    : List LogMove
  touched  : Sparse Bool
  deriving DecidableEq, Repr

/-- A replay under way (R412): its launch, the moves still to come, the troupe and retired count at which it stops, the bytes
that are the launch's, and what the module goes on with afterwards outside the launch. -/
structure Replay where
  launch  : Nat
  todo    : List LogMove
  upTo    : Option (TRef × Nat)
  touched : Sparse Bool
  mem     : List Host.Cell
  side    : Sparse Byte
  poison  : Sparse (Option (BitVec 64))
  sidePoison : Sparse Bool
  frames  : Sparse FrameState
  claims  : List Claim
  staging : Sparse Byte
  found   : Setting
  deriving DecidableEq, Repr

/-! ## The state -/

/-- The state of the module and of what surrounds it. -/
structure State where
  /-- Clocks since module reset (04 R106), one a step (log entry 5). -/
  clk      : Nat
  /-- The module's domain member id (01 R13), and the members present in the domain. -/
  member   : Nat
  domain   : List Nat
  /-- Memory by physical key, with line sidebands and poison (09 R201, R212). -/
  mem      : List Host.Cell
  side     : Sparse Byte
  poison   : Sparse (Option (BitVec 64))
  /-- Sectors whose blocks' sideband bytes are poisoned by an error in the sideband (R212). -/
  sidePoison : Sparse Bool
  frames   : Sparse FrameState
  /-- L1 data caches and miss-status entries of the cores (R204, R206). -/
  l1       : Sparse L1Byte
  mshr     : List (Nat × Nat)
  /-- Sectors that L2 holds: lines of local memory, and copies of lines of other modules (R201, R206). -/
  l2       : Sparse Bool
  /-- Lines that L2 evicts first (R206). -/
  l2First  : Sparse Bool
  /-- Sectors that the L2 of another module holds, as far as this module's accesses at the domain home have brought them (R204). -/
  far      : Sparse Bool
  tlb      : List TlbEntry
  invals   : List Invalidation
  ctxs     : List Ctx
  pagerSeq : Word
  /-- Issue slots in use: core · 4 + quadrant, and the troupe (14 R343). -/
  slots    : List (Nat × TRef)
  clusters : List (Nat × Cluster)
  launches : List (Nat × Launch)
  nextId   : Nat
  /-- Launch queues lq0 to lq15 (14 R329) and the context bound to each of lq0 to lq11. -/
  lq       : List (List QRec)
  bound    : List (Option Nat)
  arrivals : Word
  claims   : List Claim
  copies   : List CopyReq
  coreCount : Sparse Nat
  /-- The staging pool of collectives (17 R381): slot · 4,224 + byte; the slots taken, as (base, length). -/
  staging  : Sparse Byte
  /-- Poisoned sectors of the staging pool, with the bytes written since (R212). -/
  stagingPoison : Sparse (Option (BitVec 64))
  stagingUse : List (Nat × Nat)
  epochs   : Sparse Nat
  heldNotes : List Notify
  outbox   : List FabricMsg
  /-- The host link (22 R430 to R432). -/
  ack      : Word
  devSeq   : Word
  responses : List Resp
  /-- Every response in the order in which it went over the link, those sent again included. -/
  link     : List Resp
  heldLaunch : Option (Cmd × Nat × List Byte)
  /-- The commands that wait behind a held LAUNCH, oldest first (R431). -/
  waiting  : List (Word × Instr)
  /-- The management and security processor (22 R439 to R447). -/
  objects  : List Obj
  codeCache : List CodeEntry
  measure  : List Byte
  fuse     : Nat
  firmware : List Byte
  /-- The image segments of the FW_UPDATE in progress (R447). -/
  fwParts  : List Byte
  /-- Degraded operation (22 R448, R449). -/
  clockMhz : Nat
  overLimit : Bool
  channels : List Nat
  badSlices : List (Nat × Nat)
  checkpoints : List Checkpoint
  replay   : Option Replay
  /-- The issue context of the word that is issuing: the model's own (log entry 4). -/
  cur      : Option Cur
  /-- The moves that come next, before the model's own choice (log entry 4). -/
  agenda   : List Act
  /-- The order of issue, for the ordering rules of stores and engines: the model's own (log entry 24). -/
  seq      : Nat
  /-- The counter that free values are taken at: the model's own (log entry 3). -/
  free     : Nat
  deriving DecidableEq, Repr

/-- Why the machine stops with a fault. -/
inductive Fault where
  /-- Raised by an instruction word that is executed with no troupe issuing (no issue context): safe, since no such
  moment exists in the hardware. -/
  | noIssuer
  deriving DecidableEq, Repr

/-- Why the machine refuses. -/
inductive Refusal where
  /-- Raised by an arm of exec whose instruction has no meaning yet: safe. -/
  | notModelled (mnemonic : String)
  deriving DecidableEq, Repr

/-- What a byte of memory that nothing has written reads as (log entry 2). -/
def emptyByte : Byte := 0

/-- The canonical form of memory. -/
abbrev Memory.wf (m : List Host.Cell) : Prop := swf emptyByte m = true

/-- The machine right after module reset (22 R445; 04 R102; 14 R329; 16 R376; 17 R381). -/
def State.reset : State :=
  { clk := 0, member := 0, domain := [0], mem := [], side := [], poison := [], sidePoison := [], frames := []
    l1 := [], mshr := [], l2 := [], l2First := [], far := [], tlb := [], invals := [], ctxs := [], pagerSeq := 0, slots := [], clusters := []
    launches := [], nextId := 0, lq := List.replicate 16 [], bound := List.replicate 12 none, arrivals := 0
    claims := List.replicate 32 ⟨0, 0, []⟩, copies := [], coreCount := [], staging := [], stagingPoison := [], stagingUse := []
    epochs := [], heldNotes := [], outbox := [], ack := 0xFFFFFFFF, devSeq := 0, responses := [], link := []
    heldLaunch := none, waiting := []
    objects := [], codeCache := [], measure := List.replicate 48 0, fuse := 0, firmware := [], fwParts := [], clockMhz := 1600
    overLimit := false, channels := [], badSlices := [], checkpoints := [], replay := none, cur := none, agenda := [], seq := 0
    free := 0 }

end Sys2Proof.Machine
end

