-- ==== Sys2Proof/Machine/Regs.lean ====
section
/-! DEFINITION. Registers of a troupe and the lane masks that select among them (01 R15, 03 R81, R86, 04 R95 to R100):
every read and write of a v, s, p, latch or tag cell goes through here. -/

namespace Sys2Proof.Machine

/-! ## Lane masks -/

/-- Bit `l` of a lane mask. -/
def hasLane (m : Lanes) (l : Nat) : Bool := m.getLsbD l

/-- The lanes of a mask in lane order, among the first `w`. -/
def lanesOf (w : Nat) (m : Lanes) : List Nat := (List.range w).filter (fun l => m.getLsbD l)

/-- The mask of a list of lanes. -/
def maskOf (ls : List Nat) : Lanes := ls.foldl (fun m l => m ||| BitVec.ofNat 128 (2 ^ l)) 0

/-- The lanes below `w`. -/
def lanesBelow (w : Nat) : Lanes := BitVec.ofNat 128 (2 ^ w - 1)

/-- The lanes of the first `w` that satisfy `f`. -/
def maskWhere (w : Nat) (f : Nat → Bool) : Lanes := maskOf ((List.range w).filter f)

namespace Troupe

/-- Bytes of scale tag that a register has in a declared troupe: 16 in each half (02 R46). -/
def tagBytes : Nat := 32

/-- The lanes that are neither exited nor never launched (R15). -/
def live (t : Troupe) : Lanes := t.launched &&& ~~~t.exited

/-- The active lanes: the mask of the issuing entry (R15). -/
def active (t : Troupe) : Lanes :=
  match t.frontier with
  | e :: _ => e.mask
  | [] => 0

/-- Predicate p: p7 reads true (R95). -/
def readP (t : Troupe) (p : Nat) : Lanes := if p = 7 then lanesBelow t.width else sget 0 t.p p

/-- A predicate written in the lanes of `sel`; a write to p7 is discarded (R80). -/
def writeP (t : Troupe) (p : Nat) (sel val : Lanes) : Troupe :=
  if p = 7 then t else { t with p := sset 0 t.p p ((sget 0 t.p p &&& ~~~sel) ||| (val &&& sel)) }

/-- The resume mask of a word that a handler returned to; every lane otherwise (R400). -/
def resumeMask (t : Troupe) : Lanes := t.rm.getD (BitVec.allOnes 128)

/-- The selected lanes of an op: lanes of the troupe that are active, with a true guard, and in the resume mask (R81, R400). -/
def selected (t : Troupe) (g : Guard) : Lanes :=
  let p := t.readP g.p.toNat
  t.active &&& lanesBelow t.width &&& (if g.neg then ~~~p else p) &&& t.resumeMask

/-! ## v, s and tag cells, with late results (R97) -/

/-- The newest pending value of a cell. -/
def pendingV (late : List Late) (key : Nat) : Option Word :=
  match late with
  | [] => none
  | p :: ps => (pendingV ps key).orElse (fun _ => p.v.lookup key)

def pendingS (late : List Late) (key : Nat) : Option Word :=
  match late with
  | [] => none
  | p :: ps => (pendingS ps key).orElse (fun _ => p.s.lookup key)

def pendingSc (late : List Late) (key : Nat) : Option Byte :=
  match late with
  | [] => none
  | p :: ps => (pendingSc ps key).orElse (fun _ => p.sc.lookup key)

/-- v register `r` of lane `l`: the latest earlier write of the lane, late results included (R97). -/
def readV (t : Troupe) (r l : Nat) : Word := (pendingV t.late (r * 128 + l)).getD (sget 0 t.v (r * 128 + l))

/-- s register `r`. -/
def readS (t : Troupe) (r : Nat) : Word := (pendingS t.late r).getD (sget 0 t.s r)

/-- Tag byte `b` of v register `r`: a byte beyond every block that the declared troupe can have, of 4 lanes each at the
least, reads as 0 (02 R46). -/
def readTag (t : Troupe) (r b : Nat) : Byte :=
  if t.width ≤ 4 * b then 0 else (pendingSc t.late (r * 32 + b)).getD (sget 0x7F t.sc (r * 32 + b))

/-- The whole tag of v register `r`. -/
def readTags (t : Troupe) (r : Nat) : List Byte := (List.range tagBytes).map (fun b => t.readTag r b)

/-- Drops pending results of the v cells that `dead` names (R97). -/
def dropV (dead : Nat → Bool) (late : List Late) : List Late :=
  late.map (fun p => { p with v := p.v.filter (fun c => !dead c.1) })

/-- Writes v cells, given by key; pending results of the same cells are discarded (R97). -/
def writeV (t : Troupe) (ws : List (Nat × Word)) : Troupe :=
  { t with
    v := ssets 0 t.v ws
    late := dropV (fun k => ws.any (fun w => w.1 = k)) t.late }

/-- Counts a write of each of some v registers or of their tags (R101, R109). -/
def noteV (t : Troupe) (rs : List Nat) : Troupe := { t with wrote := rs.foldl (fun m r => sset 0 m r (sget 0 m r + 1)) t.wrote }

/-- The registers from `d` on that an op writes in the lanes of `sel` or in tag bytes: none where it selects no lane. -/
def written (d n : Nat) (sel : Lanes) (tag : List (Nat × Byte)) : List Nat :=
  if sel = 0 && tag.isEmpty then [] else (List.range n).map (fun i => d + i)

/-- Writes an s register. -/
def writeS (t : Troupe) (r : Nat) (x : Word) : Troupe :=
  { t with
    s := sset 0 t.s r x
    late := t.late.map (fun p => { p with s := p.s.filter (fun c => c.1 ≠ r) }) }

/-- Writes an s pair, even register first (R102, R110). -/
def writeSPair (t : Troupe) (r : Nat) (x : DWord) : Troupe :=
  (t.writeS r (x.extractLsb' 0 32)).writeS (r + 1) (x.extractLsb' 32 32)

/-- Writes tag bytes, given by key. -/
def writeTags (t : Troupe) (ws : List (Nat × Byte)) : Troupe :=
  { t with
    sc := ssets 0x7F t.sc ws
    late := t.late.map (fun p => { p with sc := p.sc.filter (fun c => !ws.any (fun w => w.1 = c.1)) }) }

/-- An s pair as a 64-bit value (R110). -/
def readSPair (t : Troupe) (r : Nat) : DWord := t.readS (r + 1) ++ t.readS r

/-- A v pair of a lane as a 64-bit value (R110). -/
def readVPair (t : Troupe) (r l : Nat) : DWord := t.readV (r + 1) l ++ t.readV r l

/-! ## Latches (R86, R87) -/

/-- A latch of the run; none when it is unset. -/
def latch (t : Troupe) (n : Nat) : Option Latch := (t.run.latches[n]?).getD none

/-- The latch value that lane `l` reads. -/
def readLatch (t : Troupe) (n l : Nat) : Word :=
  match t.latch n with
  | some x => (x.vals[l]?).getD 0
  | none => 0

/-- Puts a latch into place k mod 4 and advances k (R86). -/
def pushLatch (t : Troupe) (x : Latch) : Troupe :=
  { t with run := { t.run with latches := t.run.latches.set (t.run.k % 4) (some x), k := t.run.k + 1 } }

/-- A run with every latch unset, at its start (R85, R87). -/
def freshRun : Run := ⟨[none, none, none, none], 0, 0⟩

/-! ## Result-producing writes (R86, R98 to R100) -/

/-- What v register `d` of lane `l` held before an op, or would hold without W by what the op has yielded already (R86). -/
def priorV (t : Troupe) (d l : Nat) : Word := (t.kept.lookup l).getD (t.readV d l)

/-- The same for tag byte `b` of v register `d`. -/
def priorTag (t : Troupe) (d b : Nat) : Byte := (t.keptTag.lookup b).getD (t.readTag d b)

/-- The element values that a v destination has after an op: those of `f` in the lanes of `sel`, the old ones
elsewhere. -/
def mergedV (t : Troupe) (d : Nat) (sel : Lanes) (f : Nat → Word) : List Word :=
  (List.range t.width).map (fun l => if hasLane sel l then f l else t.priorV d l)

/-- The cells of v register `d` in the lanes of `sel`. -/
def cellsV (t : Troupe) (d : Nat) (sel : Lanes) (f : Nat → Word) : List (Nat × Word) :=
  (lanesOf t.width sel).map (fun l => (d * 128 + l, f l))

/-- The tag of `d` after tag bytes `ws` (by byte) have been written to it. -/
def mergedTag (t : Troupe) (d : Nat) (ws : List (Nat × Byte)) : List Byte :=
  (List.range tagBytes).map (fun b => (ws.lookup b).getD (t.priorTag d b))

/-- An op with W has yielded values and tag bytes before it was stopped part-way: they are kept for its latch (R86). -/
def keep (t : Troupe) (vs : List (Nat × Word)) (tag : List (Nat × Byte)) : Troupe :=
  { t with kept := vs ++ t.kept, keptTag := tag ++ t.keptTag }

/-- An op's v results: registers `d`, `d + 1`, … receive the values of `fs` in the lanes of `sel`, tag bytes `tag` of
`d` are written, and the latch receives register `d` with its tag. With W = 1 only the latch is written (R72, R86). -/
def produceV (t : Troupe) (w : Bool) (d : Nat) (sel : Lanes) (fs : List (Nat → Word)) (tag : List (Nat × Byte)) : Troupe :=
  let x : Latch := ⟨t.mergedV d sel (fs.headD (fun _ => 0)), t.mergedTag d tag, false⟩
  let cells := (List.range fs.length).flatMap (fun i => t.cellsV (d + i) sel (fs.getD i (fun _ => 0)))
  let t1 := if w then t
    else ((t.writeV cells).writeTags (tag.map (fun b => (d * 32 + b.1, b.2)))).noteV (written d fs.length sel tag)
  t1.pushLatch x

/-- The latch of an s destination: the value in every lane (R86); an s register has no tag, so every tag byte is 0x7F (log
entry 85). -/
def latchS (t : Troupe) (uniform : Bool) (x : Word) : Latch :=
  ⟨List.replicate t.width x, List.replicate tagBytes 0x7F, uniform⟩

/-- An op's s results: registers `d`, `d + 1`, … receive `xs` when `on` holds; the latch receives what `d` then holds
or would hold (R86). -/
def produceS (t : Troupe) (uniform w on : Bool) (d : Nat) (xs : List Word) : Troupe :=
  let x := t.latchS uniform (if on then xs.headD 0 else t.readS d)
  let t1 := if w || !on then t else (List.range xs.length).foldl (fun t i => t.writeS (d + i) (xs.getD i 0)) t
  t1.pushLatch x

/-! ## Late results (R86, R97, R163) -/

/-- A result joins the pending ones: of an SFU op, of a load, or of another op; `rs` are the v registers that it writes. -/
def addLate (t : Troupe) (p : Late) (rs : List Nat) : Troupe := { t with late := t.late ++ [p] }.noteV rs

/-- The pending form of v results: the registers are written when the result arrives. -/
def issueLateV (t : Troupe) (sfu load w : Bool) (d : Nat) (sel : Lanes) (fs : List (Nat → Word)) (tag : List (Nat × Byte)) :
    Troupe :=
  let x : Latch := ⟨t.mergedV d sel (fs.headD (fun _ => 0)), t.mergedTag d tag, false⟩
  let cells := (List.range fs.length).flatMap (fun i => t.cellsV (d + i) sel (fs.getD i (fun _ => 0)))
  let t1 := if w then t.addLate ⟨sfu, load, [], [], []⟩ []
    else t.addLate ⟨sfu, load, cells, [], tag.map (fun b => (d * 32 + b.1, b.2))⟩ (written d fs.length sel tag)
  t1.pushLatch x

/-- The pending form of the v results of an op other than a load. -/
def produceLateV (t : Troupe) (sfu w : Bool) (d : Nat) (sel : Lanes) (fs : List (Nat → Word)) (tag : List (Nat × Byte)) :
    Troupe := t.issueLateV sfu false w d sel fs tag

/-- The pending form of s results. -/
def produceLateS (t : Troupe) (sfu uniform w on : Bool) (d : Nat) (xs : List Word) : Troupe :=
  let y := t.latchS uniform (if on then xs.headD 0 else t.readS d)
  let p : Late := if w || !on then ⟨sfu, false, [], [], []⟩ else ⟨sfu, false, [], keyed d xs, []⟩
  { t with late := t.late ++ [p] }.pushLatch y

/-- Writes a late result into the registers: cells that an older pending result still holds are discarded there, since
this result is later in program order (R97). -/
def arrive (t : Troupe) (before : List Late) (p : Late) (after : List Late) : Troupe :=
  let dead (q : Late) : Late :=
    { q with
      v := q.v.filter (fun c => (p.v.lookup c.1).isNone)
      s := q.s.filter (fun c => (p.s.lookup c.1).isNone)
      sc := q.sc.filter (fun c => (p.sc.lookup c.1).isNone) }
  { t with v := ssets 0 t.v p.v, s := ssets 0 t.s p.s, sc := ssets 0x7F t.sc p.sc, late := before.map dead ++ after }

/-- Splits a list of pending results at the first one of the kind asked for. -/
def splitLate (sfu : Bool) : List Late → Option (List Late × Late × List Late)
  | [] => none
  | p :: ps =>
    if p.sfu = sfu then some ([], p, ps)
    else (splitLate sfu ps).map (fun x => (p :: x.1, x.2.1, x.2.2))

/-- Writes the oldest pending result of a kind (R97). A later pending write of the same cell keeps standing, because
reads take the newest. -/
def arriveOne (sfu : Bool) (t : Troupe) : Troupe :=
  match splitLate sfu t.late with
  | none => t
  | some (before, p, after) => t.arrive before p after

/-- Writes every pending SFU result, oldest first (R164). -/
def drainSfu (t : Troupe) : Troupe :=
  (List.range t.late.length).foldl (fun t _ => t.arriveOne true) t

/-- Writes every pending result (R407). -/
def drainLate (t : Troupe) : Troupe :=
  { t with
    v := t.late.foldl (fun m p => ssets 0 m p.v) t.v
    s := t.late.foldl (fun m p => ssets 0 m p.s) t.s
    sc := t.late.foldl (fun m p => ssets 0x7F m p.sc) t.sc
    late := [] }

/-- The SFU entries in use (R163). -/
def sfuEntries (t : Troupe) : Nat := (t.late.filter (fun p => p.sfu)).length

/-! ## Work identifiers (R11, R13) -/

/-- WID of lane `l`. -/
def wid (t : Troupe) (l : Nat) : DWord := t.wid0 + BitVec.ofNat 64 l

end Troupe

end Sys2Proof.Machine
end

