-- ==== Sys2Proof/Machine/Flags.lean ====
section
/-! DEFINITION. The numeric flags and the default rounding mode of a troupe: AMAX (02 R63), STICKY (R64), CTL (04 R103),
the rounding of each element (R49, R51, R53). -/

namespace Sys2Proof.Machine

namespace Troupe

/-- Sets STICKY.OVF (R54, R59). -/
def stickyOvf (t : Troupe) (b : Bool) : Troupe := if b then { t with sticky := t.sticky ||| 1 } else t

/-- Sets STICKY.DEG (R64, R296). -/
def stickyDeg (t : Troupe) : Troupe := { t with sticky := t.sticky ||| 4 }

/-- CTL as software reads it (R103). -/
def ctl (t : Troupe) : Word := (t.rnd.setWidth 32) ||| (if t.det then 8 else 0)

/-- The rounding of the element with index `idx`, for a rounding field (R49, R53). -/
def rounding (t : Troupe) (field : BitVec 3) (idx : Nat) : Rnd := Rnd.at (rmode field t.rnd) t.seed idx

/-- The index of element `j` of lane `l` for `epl` elements a lane (R53). -/
def elemIndex (t : Troupe) (l epl j : Nat) : Nat := ((t.wid l).toNat * epl + j) % 2 ^ 64

end Troupe

/-- AMAX after one input: the larger magnitude, or NAN (R63). -/
def amaxStep (m : Word) (x : FVal) : Word :=
  if x.isNan then m ||| 0x80000000
  else if (m &&& 0x7FFFFFFF).toNat < amaxMag x then (m &&& 0x80000000) ||| BitVec.ofNat 32 (amaxMag x) else m

/-- The AMAX update of a converting instruction with inputs `xs` (R63). -/
def Troupe.amaxIn (t : Troupe) (xs : List FVal) : Troupe := { t with amax := xs.foldl amaxStep t.amax }

end Sys2Proof.Machine
end

