-- ==== Sys2Proof/Machine/Operands.lean ====
section
/-! DEFINITION. Operands of instruction words: elements of a type (02 R45), modifiers (03 R74), immediates (02 R62, 03 R76,
05 R121), register and latch reads, the registers an op names (R19), uniformity (R80) and the latch sources (R87). -/

namespace Sys2Proof.Machine

/-! ## Elements -/

/-- The width of an element's place in a register: FP6 codes take a byte (R45). -/
def slotBits (ty : Nat) : Nat :=
  if ty = 12 || ty = 13 || ty = 14 || ty = 15 || ty = 17 then 8 else if ty = 16 then 4 else typeBits ty

/-- Elements per 32-bit register, or one for a 64-bit type. -/
def eplOf (ty : Nat) : Nat := if type64 ty then 1 else 32 / slotBits ty

/-- Element `j` of width `w` of a value. -/
def elemOf (w x j : Nat) : Nat := x / 2 ^ (w * j) % 2 ^ w

/-- The elements of a register value. -/
def elemsOf (w n x : Nat) : List Nat := (List.range n).map (elemOf w x)

/-- The value that holds a list of elements. -/
def joinElems (w : Nat) : List Nat → Nat
  | [] => 0
  | x :: xs => x % 2 ^ w + 2 ^ w * joinElems w xs

/-- Applies a function to each element of a type. -/
def mapElems (ty : Nat) (f : Nat → Nat) (x : Nat) : Nat :=
  joinElems (slotBits ty) ((elemsOf (slotBits ty) (eplOf ty) x).map f)

/-- A two's complement reading of a `w`-bit number. -/
def toSigned (w x : Nat) : Int := if x < 2 ^ (w - 1) then x else (x : Int) - 2 ^ w

/-- The value of an integer element in its type (R120). -/
def intVal (ty x : Nat) : Int := if typeSigned ty then toSigned (typeBits ty) x else x

/-- An integer reduced modulo 2^w (R120). -/
def wrap (w : Nat) (x : Int) : Nat := (x % 2 ^ w).toNat

/-! ## Modifiers (R74) -/

/-- The sign bit's weight within an element of a float type. -/
def signWeight (ty : Nat) : Nat := if ty = 14 || ty = 15 then 32 else 2 ^ (slotBits ty - 1)

/-- A type whose elements carry a sign bit rather than two's complement. -/
def signMagnitude (ty : Nat) : Bool := typeFloat ty || (12 ≤ ty && ty ≤ 16)

/-- Modifiers 0b001 to 0b011 on one element (R74). An MXINT8 code takes them as a two's-complement integer (log entry 88). -/
def signMod (ty : Nat) (m : Modifier) (x : Nat) : Nat :=
  if signMagnitude ty then
    let s := signWeight ty
    let neg := x / s % 2 = 1
    match m with
    | .neg => if neg then x - s else x + s
    | .abs => if neg then x - s else x
    | .nabs => if neg then x else x + s
    | _ => x
  else
    let w := slotBits ty
    let a := (2 ^ w - x) % 2 ^ w
    let neg := x / 2 ^ (w - 1) % 2 = 1
    match m with
    | .neg => a
    | .abs => if neg then a else x
    | .nabs => if neg then x else a
    | _ => x

/-- A modifier on an operand value of the operation type (R74). -/
def applyMod (ty : Nat) (m : Modifier) (x : Nat) : Nat :=
  match m with
  | .none => x
  | .lo => x % 65536 * 65537
  | .hi => x / 65536 % 65536 * 65537
  | .swp => x % 65536 * 65536 + x / 65536 % 65536
  | .bsw => joinElems 8 (elemsOf 8 4 x).reverse
  | m => mapElems ty (signMod ty m) x

/-! ## Immediates -/

/-- The 11-bit immediate extended to an element of the operation type (R62). SEL with type code 0 has an untyped 32-bit
operation, for which it is zero-extended (log entry 82). -/
def imm11Elem (ty : Nat) (imm : BitVec 11) : Nat :=
  match Fmt.ofType ty with
  | some T => narrowFloat T imm.toNat
  | none => if typeSigned ty then (imm.signExtend (typeBits ty)).toNat else (imm.setWidth (typeBits ty)).toNat

/-- The value of an immediate operand: the extension word as it stands, extended for a 64-bit type, or the 11-bit
immediate as every element (R62, R76, R121). -/
def immValue (ty : Nat) (o : Op) (x : Src) : Nat :=
  match o.ext with
  | some e => if ty = 7 then (e.value.signExtend 64).toNat else e.value.toNat
  | none =>
    let e := imm11Elem ty x.imm11
    if type64 ty then e else joinElems (slotBits ty) (List.replicate (eplOf ty) e)

/-! ## Operand values -/

namespace Troupe

/-- The 32-bit register, latch or extension value of a source field in lane `l`, before its modifier. -/
def rawSrc (t : Troupe) (x : Src) (l : Nat) : Nat :=
  match x.cls with
  | .v => (t.readV x.num.toNat l).toNat
  | .s => (t.readS x.num.toNat).toNat
  | .latch => (t.readLatch x.num.toNat l).toNat
  | .imm => 0

/-- A 64-bit register pair of a source field (R110). -/
def rawPair (t : Troupe) (x : Src) (l : Nat) : DWord :=
  match x.cls with
  | .v => t.readVPair x.num.toNat l
  | .s => t.readSPair x.num.toNat
  | _ => 0

/-- An operand of type `ty` in lane `l`: 64 bits for a 64-bit type, 32 bits otherwise (R74, R120, R138). -/
def operand (t : Troupe) (ty : Nat) (o : Op) (x : Src) (l : Nat) : Nat :=
  if x.isImm then immValue ty o x
  else applyMod ty x.mod (if type64 ty then (t.rawPair x l).toNat else t.rawSrc x l)

/-- A predicate operand (R75). -/
def predSrc (t : Troupe) (x : Src) : Lanes :=
  let p := t.readP x.num.toNat
  if x.mod = .neg then lanesBelow t.width &&& ~~~p else p

/-- The tag of a source that carries one: a v register or a latch (R86, R148, R150). -/
def srcTag (t : Troupe) (x : Src) (b : Nat) : Nat :=
  match x.cls with
  | .v => (t.readTag x.num.toNat b).toNat
  | .latch =>
    match t.latch x.num.toNat with
    | some y => ((y.tag[b]?).getD 0x7F).toNat
    | none => 0x7F
  | _ => 0x7F

end Troupe

/-! ## What an op names -/

/-- The registers that a source field of classes 0x1 to 0x7 reaches: one more than the highest v register. -/
def formNeed (fm : Form) (ty : Nat) (x : Src) : Nat :=
  if x.cls = .v then
    match fm with
    | .value _ => x.num.toNat + (if type64 ty then 2 else 1)
    | .typed ts => x.num.toNat + (if type64 ts then 2 else 1)
    | .word _ | .f32 | .mx | .elems | .lanes _ => x.num.toNat + 1
    | .addr => x.num.toNat + 2
    | .group k => x.num.toNat + 2 ^ k
    | _ => 0
  else 0

/-- A source field of class v that reaches `n` registers. -/
def srcNeed (n : Nat) (x : Src) : Nat := if x.cls = .v then x.num.toNat + n else 0

/-- The registers that a v destination reaches. -/
def dstNeed (d : DstForm) (dst : Nat) : Nat :=
  match d with
  | .reg wide => dst + (if wide then 2 else 1)
  | .group k => dst + 2 ^ k
  | _ => 0

/-- The operation type of an op of classes 0x1 to 0x7. -/
def tyOf (code : Nat) (o : Op) : Nat := opType code (fnType (fnField code o))

/-- Whether the source fields of an op of classes 0x1 to 0x7 are register operands (R80): a field that must be zero
is none. -/
def isOperand (fm : Form) : Bool :=
  match fm with
  | .zero | .pred | .opt _ => false
  | _ => true

/-- The source fields of an op of classes 0x1 to 0x6 that name registers. -/
def regSources (code : Nat) (o : Op) : List Src :=
  let fm := opForm code (tyOf code o) o
  (if isOperand fm.a then [o.a] else []) ++ (if isOperand fm.b then [o.b] else [])
    ++ (if fm.three && isOperand fm.c then [o.srcC] else []) |>.filter (fun x => !x.isImm)

/-- The ops of classes 0x1 to 0x6 that can be uniform (R80, R134, R150, R158): those with a v or s destination other
than SEL and the block-aware ops. FCVT of MX elements acts per lane whatever wrote its latch source (log entry 83). -/
def mayBeUniform (code : Nat) (o : Op) : Bool :=
  0x020 ≤ code && code < 0x0E0 && code ≠ 0x04D && !(0x0A0 ≤ code && code < 0x0C0)
    && !(code = 0x08B && typeMx (formSrcType o)) && code ≠ 0x02E
    && (match (opForm code (tyOf code o) o).dst with
      | .reg _ => true
      | .group _ => true
      | _ => false)

/-- Whether an op is uniform (R80): it has a register source, and every one is an s register or a latch that a uniform
op wrote. MOVI chooses by its own field (R128). -/
def uniformOp (code : Nat) (t : Troupe) (o : Op) : Bool :=
  if code = 0x02E then o.a.cls = .s
  else if code = 0x0A8 then true
  else
    mayBeUniform code o && !(regSources code o).isEmpty &&
      (regSources code o).all (fun x =>
        match x.cls with
        | .s => true
        | .latch => (match t.latch x.num.toNat with
          | some y => y.uniform
          | none => false)
        | _ => false)

/-- One more than the highest v register that an op names (R19). -/
def opNeed (code : Nat) (uniform : Bool) (o : Op) : Nat :=
  let f := o.c
  if 0x020 ≤ code && code < 0x100 then
    let ty := tyOf code o
    let fm := opForm code ty o
    let own := match code with
      | 0x08B => srcNeed (2 ^ fcvtGroup (formSrcType o) ty) o.a
      | 0x0A0 => srcNeed (2 ^ ((bValue o).toNat % 4)) o.a
      | 0x0E3 | 0x0E4 => if fnVariant f / 16 = 1 then srcNeed 1 o.b else 0
      | _ => 0
    max (max (formNeed fm.a ty o.a) (formNeed fm.b ty o.b))
      (max (max own (if fm.three then formNeed fm.c ty o.srcC else 0)) (if uniform then 0 else dstNeed fm.dst o.dst.toNat))
  else
    match code with
    | 0x002 | 0x004 => srcNeed 2 o.b
    | 0x003 => max (srcNeed 2 o.b) (o.dst.toNat + 2)
    | 0x103 => max (srcNeed 1 o.b) (o.dst.toNat + 1)
    | 0x120 | 0x121 => max (max (srcNeed 2 o.a) (srcNeed 1 o.b)) (o.dst.toNat + 2 ^ ldGroup f)
    | 0x122 | 0x123 | 0x124 => max (max (srcNeed 2 o.a) (srcNeed 1 o.b)) (o.dst.toNat + 1)
    | 0x125 | 0x126 => max (srcNeed 1 o.b) (o.dst.toNat + 2 ^ ldgGroup f)
    | 0x127 =>
      let n := if type64 (atomType f) then 2 else 1
      max (max (srcNeed 2 o.a) (srcNeed n o.b)) (o.dst.toNat + n)
    | 0x128 => max (srcNeed 2 o.a) (srcNeed (if type64 (atomType f) then 2 else 1) o.b)
    | 0x12A => max (srcNeed 2 o.a) (srcNeed 1 o.b)
    | 0x12B => if cctlAddr (f.extractLsb' 10 3).toNat then max (srcNeed 2 o.a) (srcNeed 1 o.b) else 0
    | 0x140 | 0x141 =>
      max (max (srcNeed 1 o.a) (srcNeed 1 o.b)) (o.dst.toNat + (if type64 (memType f) then 2 else 1))
    | 0x142 | 0x143 => max (max (srcNeed 1 o.a) (srcNeed 1 o.b)) (o.dst.toNat + 1)
    | 0x144 =>
      let n := if type64 (atomType f) then 2 else 1
      max (max (srcNeed 1 o.a) (srcNeed n o.b)) (o.dst.toNat + n)
    | 0x163 | 0x164 | 0x165 => srcNeed 1 o.a
    | 0x168 => o.dst.toNat + 1
    | 0x1C3 => if o.a.cls = .v then o.dst.toNat + (if special64 o.c.toNat then 2 else 1) else 0
    | _ => 0

/-- The source fields of an op that may name a latch, lowest-lettered first (R87, R89). -/
def latchFields (code : Nat) (o : Op) : List Src :=
  if 0x020 ≤ code && code < 0x100 then
    let fm := opForm code (tyOf code o) o
    let bOwn := (code = 0x0E3 || code = 0x0E4) && fnVariant o.c / 16 = 0 || code = 0x0E7 && fnVariant o.c ≠ 0
    (if fm.a = .zero || fm.a = .pred || code = 0x02E then [] else [o.a])
      ++ (if fm.b = .zero || bOwn then [] else [o.b])
      ++ (if fm.three && fm.c ≠ .pred then [o.srcC] else [])
  else [o.a, o.b]

/-- The first latch source that is unset (R87). -/
def unsetLatch (code : Nat) (t : Troupe) (o : Op) : Option Nat :=
  ((latchFields code o).find? (fun x => x.cls = .latch && (t.latch x.num.toNat).isNone)).map (fun x => x.num.toNat)

/-- The destination rules of a uniform op: an s register and guard p7 (R80). -/
def uniformOk (code : Nat) (o : Op) : Bool :=
  o.guardP7 && o.dst.toNat + (match (opForm code (tyOf code o) o).dst with
    | .reg true => 2
    | .group k => 2 ^ k
    | _ => 1) ≤ 64

/-- Operand checks that depend on the state, first failing first (R19, R80, R87, R89). -/
inductive OpCheck where
  | ok
  | illegal
  | latchUnset (n : Nat)
  deriving DecidableEq, Repr

def opCheck (code : Nat) (t : Troupe) (o : Op) : OpCheck :=
  let u := uniformOp code t o
  if t.nregs < opNeed code u o || (u && !uniformOk code o) then .illegal
  else match unsetLatch code t o with
    | some n => .latchUnset n
    | none => .ok

end Sys2Proof.Machine
end

