-- ==== Sys2Proof/Machine/Memory.lean ====
section
/-! DEFINITION. Memory, line sidebands, poison, L1 data caches and miss-status entries (02 R47, 09 R201 to R212, R204,
R206, 22 R444). Every memory of the system is one sparse map by physical key: local addresses as they are, those of
another member of the domain and those of the host above them. -/

namespace Sys2Proof.Machine

/-! ## Physical keys -/

/-- The first key of the memory of domain member `m`. -/
def memberBase (m : Nat) : Nat := (1 + m) * 2 ^ 52

/-- The first key of host memory. -/
def hostBase : Nat := 1025 * 2 ^ 52

/-- The key of a frame address under HOME and MEMBER; HOME 1 naming the module itself is local (R217). -/
def physKey (self home member pa : Nat) : Nat :=
  if home = 2 then hostBase + pa
  else if home = 1 && member ≠ self then memberBase member + pa
  else pa

/-- A key of host memory. -/
def isHostKey (k : Nat) : Bool := hostBase ≤ k

/-- A key of this module's own memory. -/
def isLocalKey (k : Nat) : Bool := k < 2 ^ 52

/-! ## Free values (00 R6) -/

/-- The `i`-th undefined word of this step. -/
def State.freeWord (s : State) (i : Nat) : Word := Config.freeWord (s.free * 2 ^ 40 + i)

/-- The `i`-th unspecified choice of this step. -/
def State.freeChoice (s : State) (i : Nat) : Bool := Config.freeChoice (s.free * 2 ^ 40 + i)

/-! ## Points of performance (R206 to R208) -/

/-- Where an access of global memory is performed (R201, R206 to R208): in the core's L1, at this module's L2, or at the domain
home, which for a page of this module is its L2 too, or host memory. -/
inductive Point where
  | l1 | l2 | home
  deriving DecidableEq, Repr

/-- The number of a point in a miss-status entry. -/
def Point.code : Point → Nat
  | .l2 => 0
  | .l1 => 1
  | .home => 2

/-! ## Bytes of memory -/

namespace State

/-- One byte at its point of coherence (R201): L2 for local memory, the home otherwise. -/
def rdByte (s : State) (k : Nat) : Byte := sget emptyByte s.mem k

/-- `n` bytes from key `k`. -/
def rdBytes (s : State) (k n : Nat) : List Byte := (List.range n).map (fun i => s.rdByte (k + i))

/-- `n` bytes as a little-endian number (R2). -/
def rdNat (s : State) (k n : Nat) : Nat := ofBytes (s.rdBytes k n)

/-- Poison of a sector after one of its bytes has been written (R212). -/
def repairByte (p : Sparse (Option (BitVec 64))) (k : Nat) : Sparse (Option (BitVec 64)) :=
  match sget none p (k / 64) with
  | none => p
  | some m =>
    let m' := m ||| BitVec.ofNat 64 (2 ^ (k % 64))
    sset none p (k / 64) (if m' = BitVec.allOnes 64 then none else some m')

/-- With a sector that has cleared, the sideband byte of every block in it has been written (R212). -/
def repairSide (p : Sparse (Option (BitVec 64))) (sp : Sparse Bool) (k : Nat) : Sparse Bool :=
  if (sget none p (k / 64)).isNone then sset false sp (k / 64) false else sp

/-! ## The contents of L2 (R201, R202, R204, R206) -/

/-- The home die of a physical address (R202). -/
def homeDie (k : Nat) : Nat := (k / 2 ^ 8 % 4) ^^^ (k / 2 ^ 16 % 4)

/-- Sectors of the L2 of a die: 256 MiB of 64 bytes (R201). -/
def l2Limit : Nat := 2 ^ 22

/-- Whether the sector of a key is present in L2. -/
def inL2 (s : State) (k : Nat) : Bool := sget false s.l2 (k / 64)

/-- The sectors of L2 after one has entered it: from the full L2 of a die one other sector leaves, of a line that is evicted
first where there is one, and which is unspecified (R206). Host memory is never cached (R208). -/
def roomL2 (s : State) (m : Sparse Bool) (sector : Nat) : Sparse Bool :=
  if isHostKey (64 * sector) || sget false m sector then m
  else
    let m1 := sset false m sector true
    if m1.length ≤ l2Limit then m1
    else
      let pool := m1.filter (fun e => homeDie (64 * e.1) = homeDie (64 * sector))
      let old := pool.filter (fun e => e.1 ≠ sector)
      let first := old.filter (fun e => sget false s.l2First (e.1 / 4))
      let out := if first.isEmpty then old else first
      if pool.length ≤ l2Limit then m1
      else match out[(s.freeWord (2 ^ 39 + sector % 2 ^ 37)).toNat % out.length]? with
        | some e => sset false m1 e.1 false
        | none => m1

/-- A sector enters L2. -/
def fillL2 (s : State) (sector : Nat) : State := { s with l2 := s.roomL2 s.l2 sector }

/-- Lines of L2 are evicted first from now on (R206). -/
def markFirst (s : State) (lines : List Nat) : State := { s with l2First := lines.foldl (fun m q => sset false m q true) s.l2First }

/-- Sectors of other modules that have been accessed at the domain home: the module's own L2 keeps no copy of them, and the L2
of their home holds them (R206). -/
def settleHome (s : State) (sectors : List Nat) : State :=
  let out := sectors.filter (fun q => !isLocalKey (64 * q) && !isHostKey (64 * q))
  { s with
    l2 := out.foldl (fun m q => sset false m q false) s.l2
    far := out.foldl (fun m q => sset false m q true) s.far }

/-- Writes bytes at their point of coherence: poison is repaired under R212, and a frame written by a store is no
longer a verified frame (22 R444). -/
def wrBytes (s : State) (ws : List Host.Cell) : State :=
  let p := ws.foldl (fun p w => repairByte p w.1) s.poison
  { s with
    mem := ssets emptyByte s.mem ws
    l2 := ws.foldl (fun m w => s.roomL2 m (w.1 / 64)) s.l2
    poison := p
    sidePoison := ws.foldl (fun sp w => repairSide p sp w.1) s.sidePoison
    frames := ws.foldl (fun f w => sset FrameState.unverified f (w.1 / 2 ^ 18) FrameState.unverified) s.frames }

/-- Writes a list of consecutive bytes. -/
def wrList (s : State) (k : Nat) (bs : List Byte) : State := s.wrBytes (keyed k bs)

/-- Whether the sector of a byte is poisoned (R212). -/
def poisoned (s : State) (k : Nat) : Bool := (sget none s.poison (k / 64)).isSome

/-- Whether any of `n` bytes lies in a poisoned sector. -/
def poisonedRange (s : State) (k n : Nat) : Bool := (List.range n).any (fun i => s.poisoned (k + i))

/-- Poisons a sector anew (R212): no byte of it has been written since. -/
def poisonSector (s : State) (k : Nat) : State := { s with poison := sset none s.poison (k / 64) (some 0) }

/-- Poisons a line by an error in its sideband (R212): its four sectors, and the sideband bytes of the blocks in them. -/
def poisonLine (s : State) (k : Nat) : State :=
  let line := k / 256
  { s with
    poison := (List.range 4).foldl (fun p i => sset none p (line * 4 + i) (some 0)) s.poison
    sidePoison := (List.range 4).foldl (fun p i => sset false p (line * 4 + i) true) s.sidePoison }

/-- Whether the sideband byte of the block of `n` bytes at `k` is poisoned (R212): no sector of the block has cleared since
the error in the sideband. -/
def scalePoison (s : State) (k n : Nat) : Bool :=
  sget false s.sidePoison (k / 64) && sget false s.sidePoison ((k + n - 1) / 64)

/-- Sideband byte `b` of the line that holds key `k` (R47). -/
def rdSide (s : State) (k b : Nat) : Byte := sget 0 s.side (k / 256 * 16 + b)

/-- Writes a sideband byte. -/
def wrSide (s : State) (k b : Nat) (x : Byte) : State := { s with side := sset 0 s.side (k / 256 * 16 + b) x }

end State

/-- Blocks per line of a typed page (R47). -/
def lineBlocks (T : Fmt) : Nat := match T with
  | .e2m3 | .e3m2 => 10 | .e2m1 => 16 | _ => 8

namespace State

/-- Writes one block of a typed line whole or in part, with its sideband byte: the bytes given, the sideband byte, and
the padding and unused sideband bytes as zero (R210, R211). -/
def wrBlock (s : State) (T : Fmt) (base slot : Nat) (ws : List Host.Cell) (scale : Byte) : State :=
  let line := base / 256 * 256
  let pad := if lineBlocks T = 10 then (List.range 16).map (fun i => (line + 240 + i, (0 : Byte))) else []
  let s1 := s.wrBytes (ws ++ pad)
  let s2 := ((List.range 16).filter (fun b => lineBlocks T ≤ b)).foldl (fun s b => s.wrSide line b 0) s1
  s2.wrSide line slot scale

/-! ## L1 (R206) -/

/-- The key of a core's L1 byte. -/
def l1Key (core k : Nat) : Nat := core * 2 ^ 64 + k

def l1Byte (s : State) (core k : Nat) : L1Byte := sget L1Byte.absent s.l1 (l1Key core k)

/-- Sideband byte `b` of the line that holds key `k`, as it came to L1 with the sector of `k` or was stored with a block that
begins there: its key lies above every byte's. -/
def l1SideKey (k b : Nat) : Nat := 2 ^ 63 + k / 64 * 16 + b

/-- The key of a byte of the sector that an L1 entry belongs to. -/
def l1Addr (p : Nat) : Nat := if p < 2 ^ 63 then p else (p - 2 ^ 63) / 16 * 64

/-- A byte of a core whose line `copy` says still stands in L1: an unwritten-through store of the core, or the L1 copy, or
what lies at the point of coherence. -/
def pickL1 (copy : Bool) (x : L1Byte) (home : Byte) : Byte :=
  match x with
  | .dirty b => b
  | .clean b => if b ≠ home && copy then b else home
  | .absent => home

/-- Whether a .ca load of the bytes `ps` of one single-copy-atomic unit (11 R265) is served by the copy in L1, as far as it is
not dirty: L1 holds them all, and its line has not been evicted before the load, which is unspecified; `i` numbers the
choice. -/
def copyStands (s : State) (core : Nat) (ps : List Nat) (i : Nat) : Bool :=
  ps.all (fun p => s.l1Byte core p ≠ .absent) && s.freeChoice i

/-- The bytes of a plain unit as a .ca load of a core sees them. -/
def rdUnit (s : State) (core k n i : Nat) : List Byte :=
  let ks := (List.range n).map (fun j => k + j)
  let copy := s.copyStands core ks i
  ks.map (fun q => pickL1 copy (s.l1Byte core q) (s.rdByte q))

/-- The core that an L1 key belongs to, and the byte's key. -/
def l1Core (k : Nat) : Nat := k / 2 ^ 64
def l1Phys (k : Nat) : Nat := k % 2 ^ 64

/-- The stores of L1 that are not yet written through, where `sel` holds for core and address: data bytes by key. -/
def l1Dirty (s : State) (sel : Nat → Nat → Bool) : List Host.Cell :=
  s.l1.filterMap (fun e => match e.2 with
    | .dirty b => if l1Phys e.1 < 2 ^ 63 && sel (l1Core e.1) (l1Phys e.1) then some (l1Phys e.1, b) else none
    | _ => none)

/-- The sideband bytes among them, by place in the sidebands. -/
def l1DirtySide (s : State) (sel : Nat → Nat → Bool) : List (Nat × Byte) :=
  s.l1.filterMap (fun e => match e.2 with
    | .dirty b => if 2 ^ 63 ≤ l1Phys e.1 && sel (l1Core e.1) (l1Addr (l1Phys e.1)) then 
      some ((l1Phys e.1 - 2 ^ 63) / 64 * 16 + (l1Phys e.1 - 2 ^ 63) % 16, b) else none
    | _ => none)

/-- Writes through the .ca stores that `sel` names; they stay in L1 as clean bytes. -/
def writeThrough (s : State) (sel : Nat → Nat → Bool) : State :=
  let ws := s.l1Dirty sel
  let side := s.l1DirtySide sel
  let s1 := if ws.isEmpty then s else s.wrBytes ws
  { s1 with
    side := ssets 0 s1.side side
    l1 := s1.l1.map (fun e => match e.2 with
      | .dirty b => if sel (l1Core e.1) (l1Addr (l1Phys e.1)) then (e.1, L1Byte.clean b) else e
      | _ => e) }

/-- Drops the clean bytes of L1 that `sel` names. -/
def invalidateL1 (s : State) (sel : Nat → Nat → Bool) : State :=
  { s with l1 := s.l1.filter (fun e => !(sel (l1Core e.1) (l1Addr (l1Phys e.1)))) }

/-- Every store of a core written through (R253, R255). -/
def flushCore (s : State) (core : Nat) : State := s.writeThrough (fun c _ => c = core)

/-- Every line of a core's L1 written through and invalidated. -/
def flushInvalCore (s : State) (core : Nat) : State := (s.flushCore core).invalidateL1 (fun c _ => c = core)

/-- Every store of every core written through (R260). -/
def flushAll (s : State) : State := s.writeThrough (fun _ _ => true)

/-- The lines of a core that hold some of `ks`, written through: before a load performed at L2 or beyond, whose core's own
earlier .ca stores it must see (R206). -/
def sendLines (s : State) (core : Nat) (ks : List Nat) : State :=
  s.writeThrough (fun c k => c = core && ks.any (fun q => q / 256 = k / 256))

/-- The lines of a core that hold some of `ks`, written through and invalidated: before a store or an atomic performed at L2
or beyond (R206). -/
def yieldLines (s : State) (core : Nat) (ks : List Nat) : State :=
  (s.sendLines core ks).invalidateL1 (fun c k => c = core && ks.any (fun q => q / 256 = k / 256))

/-! ## The size of L1 (R37, R201) -/

/-- Lines of a core's L1: 512 KiB of 256 bytes. -/
def l1Limit : Nat := 2048

/-- Adds a line to a list of lines in descending order, unless it is its head. -/
def consLine (q : Nat) (ls : List Nat) : List Nat := if ls.head? = some q then ls else q :: ls

/-- The lines that a core's L1 holds. -/
def l1Lines (s : State) (core : Nat) : List Nat :=
  s.l1.foldl (fun ls e => if l1Core e.1 = core && l1Phys e.1 < 2 ^ 63 then consLine (l1Phys e.1 / 256) ls else ls) []

/-- Evicts lines of a core until L1 holds no more than it can, in at most `fuel` evictions; the line `new` stays, and which
other goes is unspecified. A store of an evicted line is written through (R206). -/
def trimL1 (s : State) (core new : Nat) : Nat → State
  | 0 => s
  | fuel + 1 =>
    let ls := s.l1Lines core
    if ls.length ≤ l1Limit then s
    else
      let old := ls.filter (fun q => q ≠ new)
      match old[(s.freeWord (2 ^ 39 + 2 ^ 36 * (fuel % 4) + new % 2 ^ 36)).toNat % old.length]? with
      | some q => trimL1 (s.yieldLines core [q * 256]) core new fuel
      | none => s

/-- L1 after the line of key `k` has entered it. -/
def roomL1 (s : State) (core k : Nat) : State :=
  if s.l1.length ≤ l1Limit then s else s.trimL1 core (k / 256) 4

/-- Writes bytes of one line, and its sideband bytes by key, into L1 as .ca stores (R206). -/
def wrL1 (s : State) (core : Nat) (ws : List Host.Cell) : State :=
  let s1 : State := { s with l1 := ssets L1Byte.absent s.l1 (ws.map (fun w => (l1Key core w.1, L1Byte.dirty w.2))) }
  s1.roomL1 core (l1Addr ((ws.map (·.1)).headD 0))

/-! ## Miss-status entries (R204) -/

/-- Entries that a core may hold. -/
def mshrLimit : Nat := 1536

/-- The entries of a core: the second number is sector · 4, plus the number of the point where the sector is filled. -/
def mshrOf (s : State) (core : Nat) : List Nat := (s.mshr.filter (fun e => e.1 = core)).map (fun e => e.2)

/-- The sectors of `ks` that have no entry yet. -/
def missSectors (s : State) (core : Nat) (ks : List Nat) : List Nat :=
  (uniq (ks.map (fun k => k / 64))).filter (fun q => !(s.mshrOf core).any (fun e => e / 4 = q))

/-- Whether the entries that a request needs are free. -/
def mshrRoom (s : State) (core : Nat) (ks : List Nat) : Bool :=
  (s.mshrOf core).length + (s.missSectors core ks).length ≤ mshrLimit

/-- A counter of a core (16 R375). -/
def bumpCore (s : State) (core n by_ : Nat) : State :=
  { s with coreCount := sset 0 s.coreCount (core * 32 + n) ((sget 0 s.coreCount (core * 32 + n) + by_) % 2 ^ 64) }

/-- Takes the entries of a request for sectors that `p` is to hold. -/
def takeMshr (s : State) (core : Nat) (p : Point) (ks : List Nat) : State :=
  let qs := s.missSectors core ks
  { s with mshr := s.mshr ++ qs.map (fun q => (core, q * 4 + p.code)) }.bumpCore core 0x11 qs.length

/-- The fill of some bytes of L1, each given by its key in L1 and its value at the point of coherence: a byte that the core has
stored stays (R206). -/
def fillBytes (s : State) (core : Nat) (ws : List (Nat × Byte)) : State :=
  { s with l1 := ssets L1Byte.absent s.l1 (ws.filterMap (fun (w : Nat × Byte) =>
      match s.l1Byte core w.1 with
      | .dirty _ => none
      | _ => some (l1Key core w.1, L1Byte.clean w.2))) }

/-- The fill of a sector into L1, with the sideband of its line, which the blocks of that sector read (R204, R210). -/
def fillL1 (s : State) (core sector : Nat) : State :=
  let k := sector * 64
  (s.fillBytes core (((List.range 64).map (fun i => (k + i, s.rdByte (k + i))))
    ++ (List.range 16).map (fun b => (l1SideKey k b, s.rdSide k b)))).roomL1 core k

/-- A sector has come to the point where it is awaited (R204, R206 to R208): one of L1 from L2; host memory is not cached. -/
def fillAt (s : State) (core sector : Nat) (p : Nat) : State :=
  if p = Point.l1.code then (s.fillL2 sector).fillL1 core sector
  else if p = Point.home.code && !isLocalKey (64 * sector) then s.settleHome [sector]
  else s.fillL2 sector

end State

end Sys2Proof.Machine
end

