-- ==== Sys2Proof/Machine/Translate.lean ====
section
/-! DEFINITION. Address translation (09 R213 to R220): the walk of the three-level table, the checks of a leaf, the
translation cache, and the faults of R218. -/

namespace Sys2Proof.Machine

/-- The trap causes of R393. -/
def causeIllegalOp : Nat := 0x01
def causeIllegalPair : Nat := 0x02
def causeBadTarget : Nat := 0x03
def causeRunOverlong : Nat := 0x04
def causeLatchUnset : Nat := 0x05
def causePriv : Nat := 0x06
def causePageFault : Nat := 0x08
def causeAccessFault : Nat := 0x09
def causeMisaligned : Nat := 0x0A
def causeTypeMismatch : Nat := 0x0B
def causePoison : Nat := 0x0C
def causeArenaBound : Nat := 0x10
def causePlaneCollision : Nat := 0x11
def causeRegionNondet : Nat := 0x12
def causeFibreMalformed : Nat := 0x18
def causeFibreState : Nat := 0x19
def causeMatrixPattern : Nat := 0x20
def causeMatrixShape : Nat := 0x21
def causeActMismatch : Nat := 0x22
def causeCopyDesc : Nat := 0x28
def causeCopyOverlap : Nat := 0x29
def causeCopyPoison : Nat := 0x2A
def causeDetAtomic : Nat := 0x30
def causeBarrierPhase : Nat := 0x31
def causeBreakpoint : Nat := 0x38
def causeTrapInsn : Nat := 0x39

/-- A fault of a memory access: cause, TVAL reason, virtual address, and whether the pager may serve it (R218, R219). -/
structure MemFault where
  cause  : Nat
  reason : Nat
  va     : Nat
  recov  : Bool
  deriving DecidableEq, Repr

/-- TVAL of a memory fault (R218). -/
def MemFault.tval (f : MemFault) : DWord := BitVec.ofNat 64 (f.reason % 128 * 2 ^ 57 + f.va % 2 ^ 57)

/-- The result of reading the table (R217, checks 1 and 2). -/
inductive WalkResult where
  | leaf (l : Leaf)
  | pageFault (level : Nat) (recov : Bool)
  | malformed
  deriving DecidableEq, Repr

/-- Bits [hi:lo] of a number. -/
def bitsOf (x hi lo : Nat) : Nat := x / 2 ^ lo % 2 ^ (hi + 1 - lo)

/-- The leaf that an entry describes. -/
def leafOf (e bits : Nat) : Leaf :=
  { bits := bits, w := bitsOf e 2 2 = 1, x := bitsOf e 3 3 = 1, recov := bitsOf e 5 5 = 1, fmt := bitsOf e 9 6
    home := bitsOf e 11 10, member := bitsOf e 61 52, frame := bitsOf e 51 18 * 2 ^ 18, run := bitsOf e 4 4 = 1 }

/-- The leaf that a translation-cache entry gives an address: an entry of a run implies the frame of each of its pages
(R215). -/
def Leaf.page (l : Leaf) (va : Nat) : Leaf :=
  if l.bits = 25 then { l with bits := 18, frame := l.frame + va % 2 ^ 25 / 2 ^ 18 * 2 ^ 18 } else l

/-- The number of an unspecified choice about a translation, and about a unit of memory: places of one step that never
meet. -/
def pageChoice (va : Nat) : Nat := 2 ^ 39 + va / 2 ^ 18 % 2 ^ 39
def byteChoice (k : Nat) : Nat := k % 2 ^ 39

/-- A pointer keeps W, X, RUN, FMT, HOME, MEMBER and the reserved fields zero (R214). -/
def pointerOk (e : Nat) : Bool :=
  bitsOf e 4 2 = 0 && bitsOf e 15 6 = 0 && bitsOf e 63 52 = 0

/-- A leaf's fields (R214, R217 check 2). -/
def leafOk (e : Nat) (level : Nat) : Bool :=
  bitsOf e 15 12 = 0 && bitsOf e 63 62 = 0 && bitsOf e 17 16 = 0 && bitsOf e 9 6 ≤ 6 && bitsOf e 11 10 ≠ 3
    && (bitsOf e 11 10 = 1 || bitsOf e 61 52 = 0)
    && !(bitsOf e 9 6 ≠ 0 && bitsOf e 11 10 = 2)
    && (level = 3 || (bitsOf e 30 18 = 0 && bitsOf e 4 4 = 0))

namespace State

/-- A table entry, read with policy .cg (R216). No rule checks where a pointer puts a table: one at or above 768 GiB is read
from the sparse map, where bytes nothing has written make an invalid entry (log entry 88). -/
def tableEntry (s : State) (pa : Nat) : Nat := s.rdNat pa 8

/-- The next table that a pointer names. -/
def nextTable (e : Nat) : Nat := bitsOf e 51 16 * 2 ^ 16

/-- The walk of one address from a context's level-1 table (R213 to R217). -/
def walk (s : State) (l1 va : Nat) : WalkResult :=
  let e1 := s.tableEntry (l1 + 8 * bitsOf va 56 44)
  if bitsOf e1 0 0 = 0 then .pageFault 1 true
  else if bitsOf e1 1 1 = 1 || !pointerOk e1 then .malformed
  else
    let e2 := s.tableEntry (nextTable e1 + 8 * bitsOf va 43 31)
    if bitsOf e2 0 0 = 0 then .pageFault 2 (bitsOf e1 5 5 = 1)
    else if bitsOf e2 1 1 = 1 then (if leafOk e2 2 then .leaf (leafOf e2 31) else .malformed)
    else if !pointerOk e2 then .malformed
    else
      let t3 := nextTable e2
      let i3 := bitsOf va 30 18
      let e3 := s.tableEntry (t3 + 8 * i3)
      if bitsOf e3 0 0 = 0 then .pageFault 3 (bitsOf e2 5 5 = 1)
      else if bitsOf e3 1 1 = 0 || !leafOk e3 3 then .malformed
      else .leaf (leafOf e3 18)

/-- A context by its number. -/
def ctx? (s : State) (n : Nat) : Option Ctx := s.ctxs.find? (fun c => c.num = n)

/-- The level-1 table of a context. -/
def ctxL1 (s : State) (n : Nat) : Nat := match s.ctx? n with
  | some c => c.l1
  | none => 0

/-- Whether the pager serves the faults of a context (R219). -/
def pagerOn (s : State) (n : Nat) : Bool := match s.ctx? n with
  | some c => c.pager
  | none => false

/-- A translation that a core's cache holds for an address. -/
def tlbLookup (s : State) (core ctx va : Nat) : Option Leaf :=
  (s.tlb.find? (fun e => e.core = core && e.ctx = ctx && e.va = va / 2 ^ e.leaf.bits * 2 ^ e.leaf.bits)).map (fun e => e.leaf.page va)

/-- The translation of an address in a core: the table's own leaf, or what the core's translation cache still holds, an older
translation (R220) or the frame that the first-read leaf of a run implies (R215); which of the two applies is unspecified. -/
def lookup (s : State) (core ctx va choice : Nat) : WalkResult :=
  let fresh := s.walk (s.ctxL1 ctx) va
  match s.tlbLookup core ctx va with
  | none => fresh
  | some l => if fresh = .leaf l then fresh else if s.freeChoice choice then .leaf l else fresh

/-! ## The translation cache (R216) -/

/-- Entries of a core's translation cache. -/
def tlbLimit : Nat := 512

/-- The entry that a leaf makes: one for a whole run where the leaf is of one and implies a frame for each of its pages
(R215), or else one for its page. -/
def tlbEntry (core ctx va : Nat) (leaf : Leaf) : TlbEntry :=
  let back := va % 2 ^ 25 / 2 ^ 18 * 2 ^ 18
  if leaf.run && leaf.bits = 18 && back ≤ leaf.frame then
    ⟨core, ctx, va / 2 ^ 25 * 2 ^ 25, { leaf with bits := 25, frame := leaf.frame - back }⟩
  else ⟨core, ctx, va / 2 ^ leaf.bits * 2 ^ leaf.bits, leaf⟩

/-- Enters a translation into a core's cache, where the oldest entry makes room. -/
def enterTlb (s : State) (core ctx va : Nat) (leaf : Leaf) : State :=
  let mine := s.tlb.filter (fun x => x.core = core)
  let rest := s.tlb.filter (fun x => x.core ≠ core)
  { s with tlb := rest ++ (mine ++ [tlbEntry core ctx va leaf]).drop (mine.length + 1 - tlbLimit) }

/-- The lookup of an address in a core's cache (R216; 16 R375): a miss is counted, and the translation that its walk gives enters
the cache; a walk that gives a fault enters nothing, and an address outside the address space is not looked up. -/
def lookPage (s : State) (core ctx va : Nat) : State :=
  if 2 ^ 57 ≤ va || (s.tlbLookup core ctx va).isSome then s
  else (match s.walk (s.ctxL1 ctx) va with
    | .leaf l => s.enterTlb core ctx va l
    | _ => s).bumpCore core 0x13 1

/-- The size of local memory and of every module's memory in bytes (R201). -/
def frameLimit : Nat := 768 * 2 ^ 30

/-- Checks 3 to 5 of R217 on a leaf. -/
def leafFault (s : State) (l : Leaf) (acc : Access) : Option Nat :=
  if l.home ≠ 2 && frameLimit ≤ l.frame then some 6
  else if l.home = 1 && (767 < l.member || !(s.domain.contains l.member)) then some 7
  else match acc with
    | .store | .atomic => if l.w then none else some 2
    | .fetch => if l.x && l.fmt = 0 then none else some 3
    | _ => none

/-- The physical key of an address under its leaf, whose frame address has 52 bits (R214). -/
def leafKey (s : State) (l : Leaf) (va : Nat) : Nat := physKey s.member l.home l.member ((l.frame + va % 2 ^ l.bits) % 2 ^ 52)

/-- A checked translation (R213, R217 checks 1 to 5): the leaf and the physical key, or the fault. -/
def translate (s : State) (core ctx : Nat) (acc : Access) (va choice : Nat) : Except MemFault (Leaf × Nat) :=
  if 2 ^ 57 ≤ va then .error ⟨causeAccessFault, 1, va, false⟩
  else match s.lookup core ctx va choice with
    | .pageFault lvl rec => .error ⟨causePageFault, lvl, va, rec && s.pagerOn ctx⟩
    | .malformed => .error ⟨causeAccessFault, 4, va, false⟩
    | .leaf l =>
      match s.leafFault l acc with
      | some r => .error ⟨causeAccessFault, r, va, false⟩
      | none => .ok (l, s.leafKey l va)

/-- What an access asks of the page's format (R209). -/
inductive Want where
  /-- A plain page. -/
  | plain
  /-- A typed page of the given format code. -/
  | typed (fmt : Nat)
  /-- Any page. -/
  | any
  deriving DecidableEq, Repr

/-- The TYPE_MISMATCH reason of a refused access (R209, R218). -/
def fmtFault (w : Want) (fmt : Nat) : Option Nat :=
  match w with
  | .plain => if fmt = 0 then none else some 1
  | .typed f => if fmt = 0 then some 2 else if fmt = f then none else some 3
  | .any => none

/-- An access of a lane: alignment, translation, permissions and format, without poison (R205, R213, R217, R246). -/
def checkAccess (s : State) (core ctx : Nat) (acc : Access) (want : Want) (align va choice : Nat) :
    Except MemFault (Leaf × Nat) :=
  if va % align ≠ 0 then .error ⟨causeMisaligned, 0, va, false⟩
  else match s.translate core ctx acc va choice with
    | .error f => .error f
    | .ok (l, k) =>
      match fmtFault want l.fmt with
      | some r => .error ⟨causeTypeMismatch, r, va, false⟩
      | none => .ok (l, k)

/-- A register load of `n` bytes: the checks and poison (R212, R217). -/
def checkLoad (s : State) (core ctx : Nat) (want : Want) (align n va choice : Nat) : Except MemFault (Leaf × Nat) :=
  match s.checkAccess core ctx .load want align va choice with
  | .error f => .error f
  | .ok (l, k) => if s.poisonedRange k n then .error ⟨causePoison, 0, va, false⟩ else .ok (l, k)

/-- The lookups of accesses that fault, one for each page of 256 KiB: a misaligned one is not translated (R218). -/
def lookFaults (s : State) (core ctx : Nat) (fs : List MemFault) : State :=
  (uniq ((fs.filter (fun f => f.cause ≠ causeMisaligned)).map (fun f => f.va / 2 ^ 18))).foldl
    (fun s p => s.lookPage core ctx (p * 2 ^ 18)) s

end State

/-- The rank of a cause in R218's order of report. -/
def memRank (c : Nat) : Nat :=
  if c = causeMisaligned then 0 else if c = causeAccessFault then 1 else if c = causePageFault then 2
  else if c = causeTypeMismatch then 3 else 4

/-- The fault that an instruction reports for its lanes (R218): the first cause in rank order, at its lowest lane. -/
def firstFault : List (Nat × MemFault) → Option MemFault
  | [] => none
  | (_, f) :: rest =>
    match firstFault rest with
    | none => some f
    | some g => if memRank g.cause < memRank f.cause then some g else some f

end Sys2Proof.Machine
end

