-- ==== Sys2Proof/Machine/Ops.lean ====
section
/-! DEFINITION. The operations that every instruction shares: finding and replacing a troupe, the frontier and the
transfer of lanes (01 R24 to R27, 03 R90, 05 R113), taking a trap and entering its handler (18 R394 to R397), returning
from it (R399, R400), and what follows a word (03 R85, R86). -/

namespace Sys2Proof.Machine

/-! ## Finding things in the state -/

namespace State

/-- A cluster that has been placed. -/
def cluster? (s : State) (c : Nat) : Option Cluster := aget s.clusters c

/-- A block of a placed cluster. -/
def block? (s : State) (c b : Nat) : Option Block :=
  match s.cluster? c with
  | some cl => cl.blocks[b]?
  | none => none

/-- A troupe of a placed cluster. -/
def troupe? (s : State) (r : TRef) : Option Troupe :=
  match s.block? r.cluster r.block with
  | some b => b.troupes[r.troupe]?
  | none => none

/-- Replaces a cluster. -/
def setCluster (s : State) (c : Nat) (cl : Cluster) : State := { s with clusters := aset s.clusters c cl }

/-- Replaces a block. -/
def setBlock (s : State) (c b : Nat) (x : Block) : State :=
  match s.cluster? c with
  | some cl => s.setCluster c { cl with blocks := cl.blocks.set b x }
  | none => s

/-- Replaces a troupe. -/
def setTroupe (s : State) (r : TRef) (t : Troupe) : State :=
  match s.block? r.cluster r.block with
  | some b => s.setBlock r.cluster r.block { b with troupes := b.troupes.set r.troupe t }
  | none => s

/-- Changes a troupe. -/
def modTroupe (s : State) (r : TRef) (f : Troupe → Troupe) : State :=
  match s.troupe? r with
  | some t => s.setTroupe r (f t)
  | none => s

/-- Changes a block. -/
def modBlock (s : State) (c b : Nat) (f : Block → Block) : State :=
  match s.block? c b with
  | some x => s.setBlock c b (f x)
  | none => s

/-- Changes a cluster. -/
def modCluster (s : State) (c : Nat) (f : Cluster → Cluster) : State :=
  match s.cluster? c with
  | some x => s.setCluster c (f x)
  | none => s

/-- A launch that has been admitted. -/
def launch? (s : State) (l : Nat) : Option Launch := aget s.launches l

/-- Changes a launch. -/
def modLaunch (s : State) (l : Nat) (f : Launch → Launch) : State :=
  match s.launch? l with
  | some x => { s with launches := aset s.launches l (f x) }
  | none => s

/-- Whether a launch may run: it is not held at a full log (18 R411), and no other launch is being replayed (R412). -/
def mayRun (s : State) (l : Nat) (la : Launch) : Bool :=
  !((la.record.map (·.full)).getD false) && ((s.replay.map (fun p => decide (p.launch = l))).getD true)

/-- Whether the troupes of a cluster may issue: it is resident, and its launch may run (18 R406). -/
def mayIssue (s : State) (c : Nat) : Bool :=
  match s.cluster? c with
  | none => false
  | some cl =>
    decide (cl.state = .resident) && match s.launch? cl.launch with
      | some la => s.mayRun cl.launch la
      | none => false

/-- Gives up a troupe's issue slot. -/
def freeSlot (s : State) (r : TRef) : State := { s with slots := s.slots.filter (fun e => e.2 ≠ r) }

/-- The 64-byte units that hold some bytes, and the bytes filled up with zeros to whole units (22 R430). -/
def unitsOf (payload : List Byte) : Nat := (payload.length + 63) / 64
def padUnits (payload : List Byte) : List Byte := payload ++ List.replicate (64 * unitsOf payload - payload.length) 0

/-- Sends a response to the host (22 R430, R432): the last 1,024 are kept. -/
def respond (s : State) (kind ctx : Nat) (payload : List Byte) : State :=
  let r : Resp := ⟨s.devSeq, s.ack, kind, ctx, unitsOf payload, 0, padUnits payload⟩
  let all := s.responses ++ [r]
  { s with responses := all.drop (all.length - 1024), link := s.link ++ [r], devSeq := s.devSeq + 1 }

end State

/-! ## The issue environment -/

/-- What an issuing word finds: where it issues, its troupe, block, cluster and launch. -/
structure Env where
  c  : Cur
  t  : Troupe
  b  : Block
  cl : Cluster
  la : Launch
  deriving DecidableEq, Repr

/-- The environment of the word that is issuing. -/
def State.env? (s : State) : Option Env :=
  match s.cur with
  | none => none
  | some c =>
    match s.cluster? c.r.cluster with
    | none => none
    | some cl =>
      match cl.blocks[c.r.block]? with
      | none => none
      | some b =>
        match b.troupes[c.r.troupe]?, s.launch? cl.launch with
        | some t, some la => some ⟨c, t, b, cl, la⟩
        | _, _ => none

namespace Env

def r (x : Env) : TRef := x.c.r
def core (x : Env) : Nat := x.b.core
def ctx (x : Env) : Nat := x.la.ctx
/-- The quadrant of the troupe (01 R14): the loader never splits a troupe in this model, or results do not depend on
it (log entry 6). -/
def det (x : Env) : Bool := x.t.det

end Env

/-! ## Fields of a launch record (15 R347) -/

/-- Bits [hi:lo] of a list of bytes (R346). -/
def recBits (bytes : List Byte) (hi lo : Nat) : Nat := ofBytes ((bytes.drop (lo / 8)).take ((hi - lo) / 8 + 2)) / 2 ^ (lo % 8) % 2 ^ (hi + 1 - lo)

/-- The deterministic flag of a launch. -/
def Launch.det (la : Launch) : Bool := recBits la.bytes 93 93 = 1

/-! ## Instruction fetch (09 R217; 22 R444) -/

/-- What a fetch finds. -/
inductive Fetched where
  | word (w : DWord)
  | fault (f : MemFault)
  /-- The segment that holds the word at `va` has not been verified yet: the troupe is not ready (R444). -/
  | pending (va : DWord)
  deriving DecidableEq, Repr

namespace State

/-- Fetches the word at an address. -/
def fetch (s : State) (core ctx : Nat) (pc : DWord) : Fetched :=
  match s.translate core ctx .fetch pc.toNat (pageChoice pc.toNat) with
  | .error f => .fault f
  | .ok (_, k) =>
    match sget FrameState.unverified s.frames (k / 2 ^ 18) with
    | .unverified => .fault ⟨causeAccessFault, 3, pc.toNat, false⟩
    | .pending => .pending pc
    | .verified =>
      if s.poisonedRange k 8 then .fault ⟨causePoison, 0, pc.toNat, false⟩
      else .word (BitVec.ofNat 64 (s.rdNat k 8))

/-- The state after the fetch of a word has looked up its translation (09 R216; 16 R375). -/
def useFetch (s : State) (core ctx : Nat) (pc : DWord) : State := s.lookPage core ctx pc.toNat

end State

/-! ## Block headers (03 R68 to R71) -/

def hdrLength (w : DWord) : Nat := (w.extractLsb' 52 10).toNat
def hdrPrio (w : DWord) : Nat := (w.extractLsb' 44 8).toNat
/-- The live value: 0 stands for 256 (R68). -/
def hdrLive (w : DWord) : Nat := let n := (w.extractLsb' 36 8).toNat; if n = 0 then 256 else n
/-- Flags C and X (R69). -/
def hdrC (w : DWord) : Bool := w.getLsbD 0
def hdrX (w : DWord) : Bool := w.getLsbD 1

/-- A well-formed header for a kernel of `n` registers (R20, R68, R69). -/
def hdrOk (n : Nat) (w : DWord) : Bool :=
  kindOf w = 3 && hdrLength w ≠ 0 && w.extractLsb' 4 4 = 0 && hdrLive w ≤ n

/-- What a transfer asks of its target's header (R69, R90). -/
inductive Need where
  | any | flagC | flagX
  deriving DecidableEq, Repr

def Need.ok : Need → DWord → Bool
  | .any, _ => true
  | .flagC, w => hdrC w
  | .flagX, w => hdrX w

/-! ## Traps -/

/-- A trap of the issuing word: cause, TVAL, TMASK, and the pager's share of a recoverable page fault (R219). -/
structure TrapX where
  cause : Nat
  tval  : DWord
  mask  : Lanes
  page  : Option (Nat × Access × Nat)
  deriving DecidableEq, Repr

/-- A trap that no pager serves. -/
def trapAt (cause : Nat) (tval : DWord) (mask : Lanes) : TrapX := ⟨cause, tval, mask, none⟩

/-- A trap with a reason in TVAL [63:57] and the rest below. -/
def trapReason (cause reason low : Nat) (mask : Lanes) : TrapX :=
  trapAt cause (BitVec.ofNat 64 (reason % 128 * 2 ^ 57 + low % 2 ^ 57)) mask

/-- The trap of a memory fault (R218, R219). -/
def trapMem (f : MemFault) (acc : Access) (mask : Lanes) : TrapX :=
  ⟨f.cause, f.tval, mask, if f.recov then some (f.va, acc, f.reason) else none⟩

/-- The lowest lane of a mask. -/
def lowestLane (m : Lanes) : Nat := ((List.range 128).find? (fun l => m.getLsbD l)).getD 0

/-- The launch record's trap vector entry (15 R352): the handler's address, when the entry is enabled. -/
def handlerOf (t : Troupe) (la : Launch) : Option DWord :=
  if t.tvec = 0 then none
  else if recBits la.tvecEnt 57 57 = 1 then some (BitVec.ofNat 64 (recBits la.tvecEnt 56 0)) else none

/-- Writes the trap registers (04 R107). -/
def Troupe.trapRegs (t : Troupe) (pc : DWord) (x : TrapX) : Troupe :=
  { t with tcause := BitVec.ofNat 32 x.cause, tpc := pc, tval := x.tval, tmask := x.mask, trapped := x.mask }

/-- Trap entry (18 R395): SFU results are written back, the run is saved, the trap registers are written, the frontier
is held aside with the issuing entry at TPC, and handler mode begins at HANDLER with the lanes of H. -/
def Troupe.enterHandler (t : Troupe) (pc handler : DWord) (x : TrapX) : Troupe :=
  let t1 := t.drainSfu
  let front := match t1.frontier with
    | e :: es => { e with pc := pc } :: es
    | [] => []
  let h := t1.active &&& t1.live
  { t1.trapRegs pc x with
    held := some ⟨front, h, t1.run, t1.kept, t1.keptTag⟩
    frontier := [⟨handler, 0, h, .handler, 0, 0, 0⟩]
    run := Troupe.freshRun
    midRun := false
    rm := none
    status := .ready
    redo := false
    served := 0
    kept := []
    keptTag := [] }

/-- Ends the troupe by a trap (R397, R398): the launch has ended with the status given. -/
def Troupe.stopAt (t : Troupe) (pc : DWord) (x : TrapX) : Troupe :=
  { t.drainSfu.trapRegs pc x with status := .stopped, midRun := false, rm := none, redo := false, served := 0, kept := [], keptTag := [] }

namespace State

/-- A trap with no handler: UNHANDLED 8, or NESTED 9 in handler mode (R397); and every trap of the run-on (R398). -/
def stopTroupe (s : State) (r : TRef) (launch : Nat) (t : Troupe) (pc : DWord) (x : TrapX) : State :=
  let status := if t.held.isSome then 9 else 8
  let rep : TrapReport := ⟨status, t.wid (lowestLane x.mask), BitVec.ofNat 32 x.cause, pc, x.tval, x.mask⟩
  ((s.setTroupe r (t.stopAt pc x)).freeSlot r).modLaunch launch
    (fun la => { la with ended := true, traps := la.traps ++ [rep] })

/-- Parks a troupe at the word `pc` on a recoverable page fault and reports it to the pager (R219, R396): TPC names the word,
but in handler mode it still belongs to the trap that entered the handler (R107, R394; 20 R422). The layout of the report's
payload and its access-kind codes are the model's (log entries 35 and 88). -/
def park (s : State) (r : TRef) (ctx : Nat) (t : Troupe) (pc : DWord) (va : Nat) (acc : Access) (level : Nat) (mask : Lanes) :
    State :=
  let rep : Report := ⟨BitVec.ofNat 64 va, acc, mask, s.pagerSeq, level⟩
  let s1 := (s.setTroupe r { t with
    status := .parked rep, midRun := true, redo := false, tpc := if t.held.isNone then pc else t.tpc }).freeSlot r
  let kind := match acc with
    | .load => 0 | .store => 1 | .atomic => 2 | .fetch => 3 | .engine => 4
  { s1 with pagerSeq := s.pagerSeq + 1 }.respond 0x83 ctx
    (bytesOf 8 va ++ bytesOf 8 kind ++ bytesOf 16 mask.toNat ++ bytesOf 4 s.pagerSeq.toNat)

/-- Takes a trap at the word `pc` of a troupe (R394 to R397). -/
def takeTrap (s : State) (r : TRef) (launch : Nat) (pc : DWord) (x : TrapX) : State :=
  match s.troupe? r, s.launch? launch with
  | some t, some la =>
    match x.page with
    | some (va, acc, level) => s.park r la.ctx t pc va acc level x.mask
    | none =>
      if t.held.isSome || la.ended then s.stopTroupe r launch t pc x
      else match handlerOf t la with
        | none => s.stopTroupe r launch t pc x
        | some h => (s.setTroupe r (t.enterHandler pc h x)).freeSlot r
  | _, _ => s

end State

/-! ## The frontier (01 R24 to R27) -/

/-- `a` issues before `b` (R24). -/
def ranksBefore (a b : FEntry) : Bool := b.prio < a.prio || (a.prio = b.prio && a.pc.toNat ≤ b.pc.toNat)

/-- Adds lanes at a block header: joined to an entry with the same PC (R24, R113). -/
def addEntry (e : FEntry) : List FEntry → List FEntry
  | [] => [e]
  | f :: fs => if f.pc = e.pc then { f with mask := f.mask ||| e.mask } :: fs else f :: addEntry e fs

/-- Inserts an entry by rank. -/
def insertEntry (e : FEntry) : List FEntry → List FEntry
  | [] => [e]
  | f :: fs => if ranksBefore e f then e :: f :: fs else f :: insertEntry e fs

/-- A frontier in issue order. -/
def sortEntries : List FEntry → List FEntry
  | [] => []
  | e :: es => insertEntry e (sortEntries es)

/-- Whether an entry that has yielded must not issue yet: some other entry has not issued since a YIELD no later than its own
(R27). -/
def waitsBehind (es : List FEntry) (e : FEntry) : Bool := es.any (fun f => f.pc ≠ e.pc && f.owes ≠ 0 && f.owes ≤ e.yielded)

/-- The entry that issues next: the highest-ranked one that waits behind no other (R24, R27). -/
def nextEntry (es : List FEntry) : Option FEntry := (es.find? (fun e => !waitsBehind es e)).orElse (fun _ => es.head?)

/-- The frontier with the entry that issues next in front; with its run it owes none and no longer stands as having yielded
(R24, R27; log entry 69). -/
def chooseEntry (es : List FEntry) : List FEntry :=
  let es := sortEntries (es.filter (fun e => e.mask ≠ 0))
  match nextEntry es with
  | some e => { e with owes := 0, yielded := 0 } :: es.filter (fun f => f ≠ e)
  | none => []

/-- The number of a YIELD that comes now: above those of every earlier one that still counts. -/
def nextYield (es : List FEntry) : Nat := 1 + es.foldl (fun n e => max n (max e.owes e.yielded)) 0

/-- Frontier entries in the spill area (R25). -/
def spilled (n : Nat) : Nat := n - 8

/-! ## Transfers of lanes (03 R90, 05 R113) -/

/-- A group of lanes sent to one target. -/
structure Move where
  mask   : Lanes
  target : DWord
  need   : Need
  deriving DecidableEq, Repr

/-- What R90 finds at a target. -/
inductive Target where
  | ok (hdr : DWord)
  | bad (x : TrapX)
  | pending (va : DWord)
  deriving DecidableEq, Repr

/-- The checks of R90 for the lanes of a move. -/
def State.checkTarget (s : State) (core ctx : Nat) (m : Move) : Target :=
  let bad := Target.bad (trapAt causeBadTarget (BitVec.ofNat 64 (m.target.toNat % 2 ^ 32)) m.mask)
  if m.target.toNat % 8 ≠ 0 then bad
  else match s.fetch core ctx m.target with
    | .fault f => .bad (trapMem f .fetch m.mask)
    | .pending va => .pending va
    | .word w => if kindOf w = 3 && m.need.ok w then .ok w else bad

/-- The frontier after moves to checked targets: the lanes leave the issuing entry and enter at their targets. -/
def moveLanes (front : List FEntry) (ok : List (Move × DWord)) : List FEntry :=
  match front with
  | [] => []
  | e :: es =>
    let gone := ok.foldl (fun g m => g ||| m.1.mask) 0
    let rest := ok.foldl (fun fs m => addEntry ⟨m.1.target, hdrPrio m.2, m.1.mask, .header, 0, 0, hdrLive m.2⟩ fs) es
    ({ e with mask := e.mask &&& ~~~gone } :: rest).filter (fun f => f.mask ≠ 0)

/-- The failing move that is reported: that of the lowest failing lane (R90). -/
def worstMove (xs : List TrapX) : Option TrapX :=
  match xs with
  | [] => none
  | x :: rest =>
    let all := rest.foldl (fun m y => m ||| y.mask) x.mask
    let best := rest.foldl (fun b y => if lowestLane y.mask < lowestLane b.mask then y else b) x
    some { best with mask := all }

/-! ## Return from a handler, and retirement (01 R30, 18 R399, R400) -/

/-- What R400 restores: lanes that exited in the handler leave the interrupted frontier and TMASK, the latches and the
count come back, and the issuing entry resumes at TPC under RM. With no lane left in it, the word at TPC is not resumed, so
PROG is 0 (R105), and the other entries resume; with no lane left at all, the troupe retires. -/
def Troupe.resume (t : Troupe) : Troupe :=
  match t.held with
  | none => t
  | some h =>
    let e := h.h &&& t.exited
    let cut (f : FEntry) : FEntry := { f with mask := f.mask &&& ~~~e }
    let tm := t.tmask &&& ~~~e
    let rest := (h.frontier.map cut).filter (fun f => f.mask ≠ 0)
    let skip := t.tcause.toNat = causeTrapInsn || t.tcause.toNat = causeBreakpoint
    let headLeft : Bool := match h.frontier with
      | f :: _ => decide ((cut f).mask ≠ 0)
      | [] => false
    let t1 := { t with held := none, tmask := tm, frontier := rest }
    if rest.isEmpty then { t1 with status := .retired, midRun := false, run := Troupe.freshRun, rm := none, prog := 0 }
    else if headLeft then
      { t1 with
        run := h.run, midRun := true, rm := some (if skip then 0 else tm), status := .ready, kept := h.kept, keptTag := h.keptTag }
    else { t1 with run := Troupe.freshRun, midRun := false, rm := none, status := .ready, prog := 0 }

/-- What follows when the frontier has become empty: in handler mode R399 performs the return, otherwise the troupe
retires (R30). -/
def Troupe.finish (t : Troupe) : Troupe :=
  if t.frontier.isEmpty then (if t.held.isSome then t.resume else { t with status := .retired }) else t

/-! ## What follows a word -/

/-- What a word did. -/
inductive Res where
  /-- It took effect; the issuing entry goes on at the next word. -/
  | done (s : State)
  /-- It sent its lanes elsewhere under R113; the run ends. -/
  | moved (s : State)
  /-- It trapped; effects for lanes outside TMASK are in `s` (R100, R394). -/
  | trap (s : State) (x : TrapX)
  /-- It stalls and keeps the slot (R85). -/
  | stall (s : State)
  /-- It waits and gives up the slot (R344). -/
  | wait (s : State) (k : WaitKind)
  /-- It took effect and the troupe sleeps (R342). -/
  | sleep (s : State) (until_ : Nat)
  /-- It took effect and the troupe parks for its debugger (R403). -/
  | debug (s : State)
  /-- It returned from a handler (R400). -/
  | resumed (s : State)
  /-- It cannot issue yet, because the code at `va` is being verified (22 R444). -/
  | again (s : State) (va : DWord)
  /-- It has not issued: the accesses that it must wait for are still to come (09 R220). -/
  | retry (s : State)

/-- Updates the troupe's counts when a word of `n` instructions and `len` words has taken effect. -/
def Troupe.retire (t : Troupe) (n len : Nat) : Troupe :=
  { t with
    retiredInsns := t.retiredInsns + n
    counters := { t.counters with retired := (t.counters.retired + n) % 2 ^ 64 }
    run := { t.run with words := t.run.words + len }
    rm := none
    status := .ready
    redo := false
    served := 0
    kept := []
    keptTag := [] }

/-- The issuing entry moves on to the next word; an entry whose lanes have all exited is removed (R24). -/
def Troupe.advance (t : Troupe) (c : Cur) : Troupe :=
  { t with frontier := match t.frontier with
      | e :: es => (if e.mask = 0 then es else { e with pc := c.pc + BitVec.ofNat 64 (8 * c.len) } :: es)
      | [] => [] }

/-- The run ends: the slot is given up and every latch is unset at the next one (R85, R87). -/
def State.endRun (s : State) (r : TRef) : State :=
  (s.modTroupe r (fun t => { t with midRun := false, run := Troupe.freshRun })).freeSlot r

/-- The address that follows the instruction. -/
def Cur.next (c : Cur) : DWord := c.pc + BitVec.ofNat 64 (8 * c.len)

/-- The check of the header that lanes fall through to from the last word of a block (R67, R90); `lanes` are those that
would fall through. -/
def State.fallCheck (s : State) (x : Env) (lanes : Lanes) : Target :=
  if x.c.last && lanes ≠ 0 then s.checkTarget x.core x.ctx ⟨lanes, x.c.next, .any⟩ else .ok 0

/-- The entries at `pc` take over the YIELD of an entry that falls through to it, which still counts as having yielded
(R27, R118). -/
def passYield (pc : DWord) (y : Nat) (fs : List FEntry) : List FEntry :=
  fs.map (fun f => if f.pc = pc then { f with yielded := max f.yielded y } else f)

/-- The troupe after a word of `n` instructions has taken effect: at the next word, or through the checked header `hdr` in
the next block. -/
def Troupe.goOn (n : Nat) (x : Env) (hdr : DWord) (t : Troupe) : Troupe :=
  let t1 := t.retire n x.c.len
  if x.c.last then
    match t.frontier with
    | e :: es =>
      if e.mask = 0 then ({ t1 with frontier := es }).finish
      else { t1 with
        frontier := passYield x.c.next e.yielded (moveLanes t.frontier [(⟨e.mask, x.c.next, .any⟩, hdr)]) }
    | [] => t1.finish
  else (t1.advance x.c).finish

/-- The troupe goes on after a word of `n` instructions. -/
def State.proceed (s : State) (n : Nat) (x : Env) (hdr : DWord) : State := s.modTroupe x.r (fun t => t.goOn n x hdr)

/-- Whether the troupe still holds the issuing entry in mid-run after a word. -/
def State.goesOn (s : State) (r : TRef) : Bool :=
  match s.troupe? r with
  | some t => t.status = .ready && !t.frontier.isEmpty
  | none => false

/-- Ends the run after a word that did not stop the troupe otherwise. A return from the handler (R399) has already ended
it. -/
def State.endAfter (s : State) (x : Env) : State :=
  match s.troupe? x.r with
  | some t => if t.held.isNone && x.t.held.isSome then s.freeSlot x.r else s.endRun x.r
  | none => s

/-- A troupe that needs the code at `va`, which is still being verified, is not ready (22 R444): the word has had no effect. -/
def State.later (s : State) (r : TRef) (va : DWord) : State :=
  (s.modTroupe r (fun t => { t with midRun := true, status := .verifying va })).freeSlot r

/-- A word that has to look again keeps its slot, since its run goes on (R85; 14 R343): it has had no effect. -/
def State.retry (s : State) (r : TRef) : State := s.modTroupe r (fun t => { t with midRun := true, redo := false })

/-- A word that took effect in `s` and found the state `s0`: the lanes go on, through the header `fall` where it is the
last word. A failing fall-through leaves the word without effect (R89). -/
def State.complete (ends : Bool) (n : Nat) (x : Env) (s0 : State) (fall : Target) (s : State) : State :=
  match fall with
  | .bad tr => s0.takeTrap x.r x.cl.launch x.c.pc tr
  | .pending va => s0.later x.r va
  | .ok w =>
    let s1 := s.proceed n x w
    if ends || x.c.last || !s1.goesOn x.r then s1.endAfter x else s1

/-- What follows the word of `x`, which found the state `s0`: `ends` says that it ends its run (R85), `n` counts the
instructions it holds, `fall` is what R90 finds at the header it falls through to. -/
def settle (ends : Bool) (n : Nat) (i : Instr) (x : Env) (s0 : State) (fall : Target) (r : Res) : State :=
  match r with
  | .trap s tr => s.takeTrap x.r x.cl.launch x.c.pc tr
  | .moved s => (s.modTroupe x.r (fun t => t.retire n x.c.len)).endRun x.r
  | .resumed s => s.freeSlot x.r
  | .again s va => s.later x.r va
  | .retry s => s.retry x.r
  | .stall s => s.modTroupe x.r (fun t => { t with status := .stalled i x.c })
  | .done s => State.complete ends n x s0 fall s
  | .wait s k =>
    match fall with
    | .ok _ => (s.modTroupe x.r (fun t => { t with status := .waiting k i x.c, midRun := true, redo := false })).freeSlot x.r
    | bad => State.complete ends n x s0 bad s
  | .sleep s u =>
    match fall with
    | .ok _ => (State.complete true n x s0 fall s).modTroupe x.r (fun t => { t with status := .sleeping u })
    | bad => State.complete ends n x s0 bad s
  | .debug s =>
    match fall with
    | .ok _ => (State.complete true n x s0 fall s).modTroupe x.r (fun t => { t with status := .breakpoint })
    | bad => State.complete ends n x s0 bad s

end Sys2Proof.Machine
end

