-- ==== Sys2Proof/Machine/Acts.lean ====
section
/-! DEFINITION. Acts of the matrix engine (12 R269 to R277; 14 R325 to R328): pending members, the forming of an act, the
matching of its entries, the ways a member leaves, its batches, and what an MWAIT finds. -/

namespace Sys2Proof.Machine

/-! ## Act-stream instructions -/

/-- An MCOMMIT. -/
def MInsn.isCommit (x : MInsn) : Bool :=
  match x.i with
  | .mcommit _ => true
  | _ => false

/-- The tiles that an act-stream instruction names (R283). -/
def MInsn.tile (x : MInsn) : BitVec 16 :=
  let at_ (o : Op) : BitVec 16 := BitVec.ofNat 16 (2 ^ (o.dst.toNat % 16))
  match x.i with
  | .mma o | .mmaSp o | .mmaG o | .mloop o | .accz o | .accst o => at_ o
  | _ => 0

/-- Two members' instructions for one entry are the same (R273): their words and the s registers they read. -/
def MInsn.same (x y : MInsn) : Bool := x.i = y.i && x.svals = y.svals && x.step = y.step

/-- The troupes of a mask, in ascending index. -/
def troupesOf (g : BitVec 64) : List Nat := (List.range 64).filter (fun i => g.getLsbD i)

/-! ## Batches (R325) -/

/-- The batch that a new act, or an MCOMMIT, leaves open. -/
def Batch.fresh : Batch := ⟨0, 0, false, none, [], 0, [], []⟩

/-- Every entry of the batch has been performed or stopped. -/
def Batch.complete (x : Batch) : Bool := x.done = x.entries && (x.closed || x.entries ≠ 0)

/-- Whether a batch holds an entry that is not complete. -/
def Batch.unfinished (x : Batch) : Bool := x.done < x.entries

/-- The A groups of a troupe belong to a batch no longer once it has been reported to the troupe, and operand words once it has
been reported to one (R101, R282). -/
def Batch.release (t : Nat) (x : Batch) : Batch :=
  if x.reported.contains t then { x with reads := x.reads.filter (fun g => g.troupe ≠ t), words := [] } else x

/-- A batch holds nothing any more of a tile whose elements ACCZ has set. -/
def Batch.forget (tile : Nat) (x : Batch) : Batch :=
  { x with reads := x.reads.filter (fun g => g.tile ≠ tile), words := x.words.filter (fun w => w.tile ≠ tile) }

/-- An entry joins the open batch: an error-free batch is then to be reported anew (R328). -/
def Batch.join (x : Batch) (tile : BitVec 16) : Batch :=
  { x with entries := x.entries + 1, tiles := x.tiles ||| tile, reported := if x.err.isNone then [] else x.reported }

/-- The last element of a list replaced. -/
def setLast {α : Type} (l : List α) (x : α) : List α := l.dropLast ++ [x]

namespace MAct

/-- The open batch. -/
def openBatch (a : MAct) : Batch := a.batches.getLastD Batch.fresh

/-! ## Matching (R273, R274) -/

/-- The first unmatched instruction of every member; none when one has none. -/
def heads : List Member → Option (List MInsn)
  | [] => some []
  | m :: ms =>
    match m.list, heads ms with
    | i :: _, some is => some (i :: is)
    | _, _ => none

/-- Every member's first unmatched instruction is taken out of its list. -/
def popAll (a : MAct) : MAct := { a with members := a.members.map (fun m => { m with list := m.list.tail }) }

/-- A matched entry: an MCOMMIT closes the open batch, any other entry waits to be performed in it. -/
def takeEntry (a : MAct) (is : List MInsn) : MAct :=
  let a1 := { a.popAll with matched := a.matched + 1 }
  match is with
  | [] => a1
  | i :: _ =>
    if i.isCommit then { a1 with batches := setLast a.batches { a.openBatch with closed := true } ++ [Batch.fresh] }
    else { a1 with
      batches := setLast a.batches (a.openBatch.join i.tile)
      queue := a.queue ++ [⟨a.batches.length - 1, is⟩] }

/-- One step of matching; none when nothing more matches. -/
def matchOne (a : MAct) : Option MAct :=
  if a.bad.isSome then none
  else if a.members.any (·.left) then
    if a.members.any (fun m => !m.left && m.list ≠ []) then some { a with bad := some (a.matched, 3) } else none
  else match heads a.members with
    | none => none
    | some is =>
      if is.all (fun i => (is.head?.map (fun j => j.same i)).getD true) then some (a.takeEntry is)
      else some { a with bad := some (a.matched, 1) }

/-- Matching until nothing more matches. -/
def matchAll : Nat → MAct → MAct
  | 0, a => a
  | n + 1, a =>
    match a.matchOne with
    | some b => matchAll n b
    | none => a

/-- The unmatched instructions of all members. -/
def backlog (a : MAct) : Nat := a.members.foldl (fun n m => n + m.list.length) 0

/-- The act after everything that can be matched has been. -/
def settled (a : MAct) : MAct := matchAll (a.backlog + 1) a

/-- A member of the act that has not left. -/
def member? (a : MAct) (t : Nat) : Option Member := a.members.find? (fun m => m.troupe = t && !m.left)

/-- Changes a member. -/
def modMember (a : MAct) (t : Nat) (f : Member → Member) : MAct :=
  { a with members := a.members.map (fun m => if m.troupe = t then f m else m) }

/-- Whether the act still exists: some member has not left (R274), and no report has dissolved it (R276). -/
def exists_ (a : MAct) : Bool := !a.dissolved && a.members.any (fun m => !m.left)

/-- A member leaves; its unmatched instructions are discarded (R274). -/
def leave (a : MAct) (t : Nat) : MAct := (a.modMember t (fun m => { m with left := true, list := [] })).settled

/-- Act rows M (R272). -/
def rows (a : MAct) : Nat := a.members.length * a.rm

/-! ## Pending batches (R325) -/

/-- Along a member's unmatched instructions: the MCOMMITs of batches that are not complete, and whether the last batch
holds an entry that is not; `op` says whether the open batch does before them. -/
def commits (op : Bool) : List MInsn → Nat × Bool
  | [] => (0, op)
  | i :: is =>
    if i.isCommit then
      let r := commits false is
      (r.1 + bit op, r.2)
    else commits true is

/-- The MCOMMITs among some unmatched instructions. -/
def commitCount (is : List MInsn) : Nat := (is.filter MInsn.isCommit).length

/-- The committed batches of a member that count towards the 8 of the batch queue: those not complete, an empty one that stands
behind one of them, and every one whose MCOMMIT has not been matched (R325, R326; log entry 72). -/
def committed (a : MAct) (m : Member) : Nat :=
  (((a.batches.filter (·.closed)).dropWhile (fun b => !b.unfinished)).filter (fun b => b.unfinished || b.entries = 0)).length
    + commitCount m.list

/-- The pending count of a member. -/
def pendingCount (a : MAct) (m : Member) : Nat :=
  let r := commits a.openBatch.unfinished m.list
  (a.batches.filter (fun b => b.closed && b.unfinished)).length + r.1 + bit r.2

/-- The ACT_MISMATCH that a member is to receive: reason and entry (R273, R274, R276). -/
def mismatch (a : MAct) (m : Member) : Option (Nat × Nat) :=
  match a.bad with
  | none => none
  | some (k, reason) => if reason = 3 && m.list = [] then none else some (reason, k)

/-- Whether nothing of the act remains: its members have left and its matched entries are performed. -/
def isOver (a : MAct) : Bool := a.members.all (·.left) && a.queue.isEmpty

end MAct

/-! ## Acts of a block -/

namespace Block

/-- The pending MCONV of a troupe. -/
def pending? (b : Block) (t : Nat) : Option PendMember := b.pend.find? (fun p => p.troupe = t)

/-- The number of the act of which a troupe is a member. -/
def actOf (b : Block) (t : Nat) : Option Nat :=
  (List.range b.acts.length).find? (fun k => ((b.acts[k]?).bind (fun a => a.member? t)).isSome)

/-- Whether a troupe is a member of an act that no report has dissolved, or a pending member (R269, R272, R276). -/
def isMember (b : Block) (t : Nat) : Bool :=
  (b.pending? t).isSome || ((b.actOf t).bind (fun k => b.acts[k]?)).any (fun a => !a.dissolved)

/-- The counts of writes to `n` registers of a troupe from `a` on. -/
def groupCounts (t : Troupe) (a n : Nat) : List Nat := (List.range n).map (fun i => sget 0 t.wrote (a + i))

/-- Whether a register of an A group has been written since the step that reads it was issued (R101). -/
def broken (b : Block) (g : GroupRead) : Bool :=
  match b.troupes[g.troupe]? with
  | some t => groupCounts t g.reg g.counts.length ≠ g.counts
  | none => false

/-- The tiles that R101 leaves undefined, each of them whole (log entry 86): a register of a batch's A group was written before
an MWAIT showed it complete. -/
def brokenTiles (b : Block) : BitVec 16 :=
  b.acts.foldl (fun m a => a.batches.foldl (fun m x => x.reads.foldl (fun m g =>
    if b.broken g then m ||| BitVec.ofNat 16 (2 ^ g.tile) else m) m) m) 0

/-- The elements of some tiles hold undefined values from now on. -/
def spoil (b : Block) (m : BitVec 16) : Block :=
  if m = 0 then b
  else { b with undef := b.undef ||| m, fixed := sdrop (fun k => m.getLsbD (k / 32768)) b.fixed }

/-- The tiles that R101 leaves undefined stay so. -/
def noteBroken (b : Block) : Block := b.spoil b.brokenTiles

/-- Acts that are over leave the record (R274, R30). -/
def prune (b : Block) : Block :=
  let b1 := b.noteBroken
  { b1 with acts := b1.acts.filter (fun a => !a.isOver) }

/-- Changes an act. -/
def modAct (b : Block) (k : Nat) (f : MAct → MAct) : Block :=
  match b.acts[k]? with
  | some a => { b with acts := b.acts.set k (f a) }
  | none => b

/-- A troupe leaves its act. -/
def leaveAct (b : Block) (t : Nat) : Block :=
  match b.actOf t with
  | some k => (b.modAct k (fun a => a.leave t)).prune
  | none => b

/-- Pending MCONVs fail: their troupes are no longer pending and receive ACT_MISMATCH with reason 2 (R272, R275, R276). -/
def failConv (b : Block) (ts : List Nat) : Block :=
  { b with
    pend := b.pend.filter (fun p => !ts.contains p.troupe)
    actErr := b.actErr.filter (fun e => !ts.contains e.1) ++ ts.map (fun t => (t, 2, 0xFFFFFFFF)) }

/-- The tiles that the acts of a block name. -/
def actTiles (b : Block) : BitVec 16 := (b.acts.filter MAct.exists_).foldl (fun m a => m ||| a.tiles) 0

/-- The report of ACT_MISMATCH to a member dissolves its act (R276). The other members stay with what is left of it until they
receive their own report (19 R416, R418; log entry 87); nothing that they issue is performed (R273). -/
def dissolveAct (b : Block) (k t : Nat) : Block := (b.modAct k (fun a => { a.leave t with dissolved := true })).prune

/-- A troupe that stayed with an act which a report has dissolved leaves it, its own report to be received later
(log entry 87). -/
def quitOver (b : Block) (t : Nat) : Block :=
  match (b.actOf t).bind (fun k => b.acts[k]?) with
  | none => b
  | some a =>
    if a.dissolved then
      let due := ((a.member? t).bind a.mismatch).map (fun e => (t, e.1, e.2))
      let b1 := b.leaveAct t
      match due with
      | some e => { b1 with actErr := b1.actErr.filter (fun e => e.1 ≠ t) ++ [e] }
      | none => b1
    else b

/-- An act forms of pending members in ascending index (R272). -/
def formAct (b : Block) (ps : List PendMember) : Block :=
  match ps with
  | [] => b
  | p :: _ =>
    let ts := ps.map (·.troupe)
    let a : MAct :=
      { members := ps.map (fun q => ⟨q.troupe, false, q.list, decide (q.list ≠ [])⟩), rm := if p.rows32 then 32 else 16
        tiles := p.tiles, matched := 0, queue := [], batches := [Batch.fresh], bad := none, dissolved := false }
    { b.spoil (b.actTiles &&& p.tiles) with
      pend := b.pend.filter (fun q => !ts.contains q.troupe)
      acts := b.acts ++ [a.settled] }

/-- The pending MCONV of lowest troupe index whose troupes are all pending (R272). -/
def readyConv (b : Block) : Option (List PendMember) :=
  ((List.range 64).findSome? (fun t =>
    match b.pending? t with
    | some p =>
      let qs := (troupesOf p.gmask).filterMap b.pending?
      if qs.length = (troupesOf p.gmask).length then some qs else none
    | none => none))

/-- Compares pending MCONVs until none is left to compare (R272). -/
def formActs : Nat → Block → Block
  | 0, b => b
  | n + 1, b =>
    match b.readyConv with
    | none => b
    | some ps =>
      let same (p q : PendMember) : Bool := p.gmask = q.gmask && p.tiles = q.tiles && p.rows32 = q.rows32
      if ps.all (fun p => (ps.head?.map (same p)).getD true) then formActs n (b.formAct ps)
      else formActs n (b.failConv (ps.map (·.troupe)))

/-- A troupe's last launched lane has exited (R274, R275): it leaves its act, and the pending MCONVs that name it fail, though
it be a member of another act. -/
def troupeExits (b : Block) (t : Nat) : Block :=
  let fails := ((b.pend.filter (fun p => p.gmask.getLsbD t)).map (·.troupe)).filter (fun u => u ≠ t)
  let b1 := b.failConv fails
  let b2 := { b1 with
    pend := b1.pend.filter (fun p => p.troupe ≠ t)
    actErr := b1.actErr.filter (fun e => e.1 ≠ t) }
  b2.leaveAct t

/-! ## Entering act-stream instructions (R271, R276) -/

/-- An instruction enters a member's list. -/
def enterInsn (b : Block) (t : Nat) (x : MInsn) : Block :=
  let b1 := { b with since := sset 0 b.since t (sget 0 b.since t + 1) }
  match b.actOf t with
  | some k => b1.modAct k (fun a => (a.modMember t (fun m => { m with list := m.list ++ [x], dirty := true })).settled)
  | none => { b1 with pend := b1.pend.map (fun p => if p.troupe = t then { p with list := p.list ++ [x] } else p) }

/-- A member's committed batches that are not complete (R325, R326). -/
def committedOf (b : Block) (t : Nat) : Nat :=
  match (b.actOf t).bind (fun k => b.acts[k]?) with
  | some a =>
    match a.member? t with
    | some m => a.committed m
    | none => 0
  | none =>
    match b.pending? t with
    | some p => MAct.commitCount p.list
    | none => 0

/-! ## MWAIT (R276, R299, R328) -/

/-- What an MWAIT finds. -/
inductive MwaitOut where
  | done (b : Block)
  | wait
  | err (b : Block) (cause : Nat) (tval : DWord)

/-- TVAL of a batch's error (R299). -/
def errTrap (e : BatchErr) : Nat × DWord :=
  match e with
  | .pattern off step reason => (causeMatrixPattern, BitVec.ofNat 64 (off % 2 ^ 32 + step % 256 * 2 ^ 32 + reason % 128 * 2 ^ 57))
  | .poison off region step => (causePoison, BitVec.ofNat 64 (off % 2 ^ 32 + region % 16 * 2 ^ 32 + step % 256 * 2 ^ 40))

/-- TVAL of ACT_MISMATCH (R276). -/
def mismatchTval (reason entry : Nat) : DWord := BitVec.ofNat 64 (reason % 128 * 2 ^ 57 + entry % 2 ^ 32)

/-- The complete batches not yet reported to a troupe are marked reported, up to and with the first that holds an
error; the error. -/
def reportBatches (t : Nat) : List Batch → List Batch × Option BatchErr
  | [] => ([], none)
  | x :: xs =>
    if x.complete && !x.reported.contains t then
      match x.err with
      | some e => ({ x with reported := t :: x.reported } :: xs, some e)
      | none =>
        let r := reportBatches t xs
        ({ x with reported := t :: x.reported } :: r.1, r.2)
    else
      let r := reportBatches t xs
      (x :: r.1, r.2)

/-- MWAIT `n` of a troupe (R328). -/
def mwait (b : Block) (t n : Nat) : MwaitOut :=
  match b.actErr.find? (fun e => e.1 = t) with
  | some (_, reason, entry) =>
    .err { b with actErr := b.actErr.filter (fun e => e.1 ≠ t) } causeActMismatch (mismatchTval reason entry)
  | none =>
    if (b.pending? t).isSome then .wait
    else match b.actOf t with
      | none => .done { b with since := sset 0 b.since t 0 }
      | some k =>
        match (b.acts[k]?).bind (fun a => (a.member? t).map (fun m => (a, m))) with
        | none => .done b
        | some (a, m) =>
          match a.mismatch m with
          | some (reason, entry) => .err (b.dissolveAct k t) causeActMismatch (mismatchTval reason entry)
          | none =>
            if m.list ≠ [] then .wait
            else if n < a.pendingCount m then .wait
            else
              let (bs, e) := reportBatches t a.batches
              let b1 := b.noteBroken.modAct k (fun a => { a with batches := bs.map (Batch.release t) })
              match e with
              | some e => .err b1 (errTrap e).1 (errTrap e).2
              | none =>
                .done { b1.modAct k (fun a => a.modMember t (fun m => { m with dirty := m.dirty && n ≠ 0 })) with
                  since := sset 0 b.since t 0 }

/-! ## Tiles of pending batches (R282) -/

/-- Whether a matched entry names a tile in a batch that no MWAIT has shown complete, or an instruction that a troupe of `sel`
has issued and that is not matched. -/
def tileBusy (b : Block) (sel : Nat → Bool) (tile : Nat) : Bool :=
  let m : BitVec 16 := BitVec.ofNat 16 (2 ^ tile)
  let hit (t : Nat) (is : List MInsn) : Bool := sel t && is.any (fun i => i.tile &&& m ≠ 0)
  b.pend.any (fun p => hit p.troupe p.list)
    || b.acts.any (fun a => (!a.dissolved && a.members.any (fun x => hit x.troupe x.list))
      || a.batches.any (fun x => x.tiles &&& m ≠ 0 && (x.unfinished || x.reported.isEmpty)))

/-- Whether an act may still write a tile, or has written it in a batch that no MWAIT has shown complete. -/
def tilePending (b : Block) (tile : Nat) : Bool := b.tileBusy (fun _ => true) tile

end Block

/-! ## The order of arena writes and operand reads (R267, R282, R322) -/

/-- The largest of some numbers, and the least. -/
def maxOf (ns : List Nat) : Nat := ns.foldl max 0
def minOf (ns : List Nat) : Nat :=
  match ns with
  | [] => 0
  | n :: ns => ns.foldl min n

/-- Whether the completion of a copy has been observed before the MFENCE of a member of those that issued an entry: by that
member (R322), or by another troupe before the latest MFENCE, as a store of another troupe is ordered (R267; log entry 89). -/
def Block.observed (b : Block) (id : Nat) (is : List (Nat × Nat × Nat)) : Bool :=
  let last := maxOf (is.map (·.2.2))
  b.landed.any (fun c => c.id = id && c.seen.any (fun o => o.2 ≤ ((is.find? (fun i => i.1 = o.1)).map (·.2.2)).getD last))

/-- Whether a write to an operand word comes before the operand reads of the entry that `is` issued, and whether it was issued
after that entry, so that it touches a pending batch. A store, or a COPY, of a member stands against that member's own
instruction, any other against the first one; a store comes before the reads by the member's own MFENCE, or by the latest one
for another troupe's (R267), a copy when a member has observed its completion before its MFENCE (R322). A turn is ordered as
an engine's write is (R241; log entry 89). -/
def stampOrder (b : Block) (is : List (Nat × Nat × Nat)) (e : Stamp) : Bool × Bool :=
  let own (t : Nat) : Option (Nat × Nat) := (is.find? (fun i => i.1 = t)).map (fun i => i.2)
  let last := maxOf (is.map (·.2.2))
  let first := minOf (is.map (·.2.1))
  match e.who with
  | .store t =>
    match own t with
    | some (seq, fence) => (e.seq ≤ fence, seq < e.seq)
    | none => (e.seq ≤ last, first < e.seq)
  | .copy id t issue => (b.observed id is, ((own t).map (·.1)).getD first < issue)
  | .engine | .turn => (e.seq ≤ last, false)

/-- The tiles that a write leaves undefined (R282, R267): a step of a batch that no MWAIT has shown complete has read bytes that
it `meets`, given by the first and their number, and it is not ordered before the step. -/
def Block.touched (b : Block) (e : Stamp) (meets : Nat → Nat → Bool) : BitVec 16 :=
  b.acts.foldl (fun m a => a.batches.foldl (fun m x =>
    if x.reported.isEmpty then x.words.foldl (fun m w =>
      let r := stampOrder b w.issuers e
      if !r.1 && r.2 && meets w.first w.len then m ||| BitVec.ofNat 16 (2 ^ w.tile) else m) m
    else m) m) 0

end Sys2Proof.Machine
end

