-- ==== Sys2Proof/Machine/Issue.lean ====
section
/-! DEFINITION. The issue of a word (03 R71, R77, R80, R85 to R90, R112; 18 R397, R400): what every single op and pair
word goes through before its own effect, and what an issue slot finds at its troupe's next word. -/

namespace Sys2Proof.Machine

/-! ## The checks before an op's own effect -/

/-- How an op meets an empty resume mask (18 R400). -/
inductive Level where
  /-- It acts per lane: no lane is selected. -/
  | lanes
  /-- It acts once for the troupe and is skipped; it has no result. -/
  | once
  /-- It acts once for the troupe and is skipped; the latch of its s destination keeps the prior value (R86). -/
  | onceS (uniform : Bool)
  deriving DecidableEq, Repr

/-- How an op of an opcode meets an empty resume mask. -/
def opLevel (code : Nat) (t : Troupe) (o : Op) : Level :=
  if 0x020 ≤ code && code < 0x100 then
    if code = 0x0A9 then .once else if uniformOp code t o then .onceS true else .lanes
  else match code with
    | 0x100 | 0x101 | 0x102 | 0x104 | 0x106 | 0x107 | 0x108 | 0x109 => .once
    | 0x105 => .onceS false
    | 0x129 | 0x145 => .once
    | 0x12B => if cctlAddr (o.c.extractLsb' 10 3).toNat then .lanes else .once
    | 0x146 => .onceS false
    | 0x160 | 0x161 | 0x162 | 0x163 | 0x164 | 0x165 | 0x166 | 0x167 | 0x169 | 0x16A => .once
    | 0x180 | 0x181 | 0x182 | 0x183 | 0x184 | 0x187 => .once
    | 0x185 | 0x186 => .onceS false
    | 0x1A0 | 0x1A1 | 0x1A3 | 0x1A4 | 0x1A5 | 0x1A6 => .once
    | 0x1A2 | 0x1A7 => .onceS false
    | 0x1C1 => .once
    | 0x1C3 => if o.a.cls = .s then .onceS true else .lanes
    | 0x1C4 => .once
    | _ => .lanes

/-- The opcodes that must end their block: BRA, BRC, BRX, CALL and RET (05 R112). -/
def mustEnd (code : Nat) : Bool := code < 5

/-- Whether the run ends after an op, its own E bits and the end of the block apart (R85). -/
def endsOwn (code : Nat) (det : Bool) : Bool :=
  code < 0x020 || code = 0x145 || code = 0x1A6 || code = 0x1A3 || code = 0x184 || code = 0x187 || code = 0x1C0
    || code = 0x1C2 || code = 0x1C1 || (code = 0x1A4 && det)

/-- The trap of a word that exceeds the run limit (R88): every active lane, TVAL 25. -/
def overlong (x : Env) : TrapX := trapAt causeRunOverlong 25 x.t.active

/-- The words that a run holds at most (R88). -/
def runLimit : Nat := 24

/-- The checks of R88 and R89 that come before an op's own traps. -/
def opTrap (code : Nat) (o : Op) (x : Env) : Option TrapX :=
  if runLimit < x.t.run.words + x.c.len then some (overlong x)
  else match opCheck code x.t o with
    | .illegal => some (trapAt causeIllegalOp (x.c.hi.setWidth 64) x.t.active)
    | .latchUnset n =>
      if mustEnd code && !x.c.last then some (trapAt causeIllegalOp (x.c.hi.setWidth 64) x.t.active)
      else some (trapAt causeLatchUnset (BitVec.ofNat 64 n) x.t.active)
    | .ok =>
      if mustEnd code && !x.c.last then some (trapAt causeIllegalOp (x.c.hi.setWidth 64) x.t.active) else none

/-- The lanes that fall through after an op on the last word of its block: none for the ops that send every lane
themselves. -/
def fallLanes (code : Nat) (o : Op) (x : Env) : Lanes :=
  if code < 5 || code = 0x1C1 then 0
  else if code = 0x005 then x.t.active &&& ~~~x.t.selected o.guard
  else x.t.active

/-- An op that R400 skips; PROG is 0 after it (04 R105). -/
def skipState (level : Level) (o : Op) (x : Env) (s : State) : State :=
  match level with
  | .onceS u => s.setTroupe x.r (x.t.produceS u true false o.dst.toNat [])
  | _ => s.setTroupe x.r { x.t with prog := 0 }

def skipped (level : Level) (o : Op) (x : Env) (s : State) : Res := .done (skipState level o x s)

/-- A single op in its environment: R400, the checks of R88 and R89, its own effect, and what follows (R85). Under an empty resume
mask no check is made: an op that acts once for the troupe, and a control op that does not end its block, are skipped, and
every active lane goes on at the next word; any other op acts for no lane (log entry 70). -/
def runOp (code : Nat) (i : Instr) (o : Op) (body : Env → State → Res) (x : Env) (s : State) : State :=
  let level := opLevel code x.t o
  let ends := o.endsRun || endsOwn code x.det
  let bare := decide (x.t.rm = some 0)
  if bare && (level ≠ .lanes || (mustEnd code && !x.c.last)) then
    settle ends 1 i x s (s.fallCheck x x.t.active) (skipped level o x s)
  else match (if bare then none else opTrap code o x) with
    | some tr => s.takeTrap x.r x.cl.launch x.c.pc tr
    | none => settle ends 1 i x s (s.fallCheck x (fallLanes code o x)) (body x s)

/-- The meaning of a single op: it needs an issuing troupe. -/
def issueOp (code : Nat) (i : Instr) (o : Op) (body : Env → State → Res) (s : State) : Host.Outcome State Fault Refusal :=
  match s.env? with
  | none => .fault .noIssuer
  | some x => .next (runOp code i o body x s)

/-! ## The end of a wait or a stall (03 R85; 14 R343, R344) -/

namespace State

/-- A troupe that may issue (R344; 18 R406). -/
def issuer? (s : State) (r : TRef) : Option Troupe := if s.mayIssue r.cluster then s.troupe? r else none

/-- A waiting troupe as the word it waits at finds it, with that word. -/
def waitingAt (s : State) (r : TRef) : Option (WaitKind × Instr × Env × State) :=
  match s.issuer? r with
  | none => none
  | some t =>
    match t.status with
    | .waiting k i c =>
      let s1 := { s.setTroupe r { t with status := .ready, waitw := 0 } with cur := some c }
      s1.env?.map (fun x => (k, i, x, s1))
    | _ => none

/-- A wait is over: the word takes effect with `f` and its run ends. -/
def endWait (s : State) (r : TRef) (f : Env → State → State) : State :=
  match s.waitingAt r with
  | none => s
  | some (_, i, x, s1) =>
    match i.op? with
    | some (code, o) => settle true 1 i x s1 (s1.fallCheck x (fallLanes code o x)) (.done (f x s1))
    | none => s

/-- The word at which a troupe waits looks again. -/
def lookAgain (s : State) (r : TRef) (body : Op → Env → State → Res) : State :=
  match s.waitingAt r with
  | none => s
  | some (_, i, x, s1) =>
    match i.op? with
    | some (code, o) => runOp code i o (body o) x s1
    | none => s

/-- The instruction at which a troupe is stalled. -/
def stalledAt (s : State) (r : TRef) : Option Instr :=
  match s.issuer? r with
  | none => none
  | some t =>
    match t.status with
    | .stalled i _ => some i
    | _ => none

/-- A stall is over: the troupe still holds its slot and issues the word again. -/
def endStall (s : State) (r : TRef) : State :=
  s.modTroupe r (fun t => match t.status with
    | .stalled _ _ => { t with status := .ready }
    | _ => t)

end State

/-! ## The next word of a troupe -/

/-- What an issue slot finds. -/
inductive Issued where
  /-- Nothing to issue. -/
  | idle
  /-- The front end has moved, or the word trapped before it was an instruction. -/
  | state (s : State)
  /-- An instruction, with its issue context in place. -/
  | run (i : Instr) (s : State)

/-- The entry at the head of a troupe's frontier is replaced. -/
def Troupe.setHead (t : Troupe) (e : FEntry) : Troupe := { t with frontier := e :: t.frontier.tail }

/-- ILLEGAL_OP or ILLEGAL_PAIR of a word that is no instruction. -/
def illegalTrap (x : Illegal) (t : Troupe) (hi : Word) : TrapX :=
  let cause := if x.err = .pairField then causeIllegalPair else causeIllegalOp
  match x.first with
  | some i =>
    match i.op? with
    | some (code, o) =>
      let tval := if opCheck code t o = .illegal then hi else x.tval
      trapAt cause (tval.setWidth 64) t.active
    | none => trapAt cause (x.tval.setWidth 64) t.active
  | none => trapAt cause (x.tval.setWidth 64) t.active

/-- The lowest float SUM planar region of a region table: REGION_NONDET in a deterministic launch (10 R227). -/
def nondetRegion (rgn : List DWord) : Option Nat :=
  (List.range rgn.length).find? (fun i =>
    let d := (rgn[i]?).getD 0
    d.getLsbD 0 && d.getLsbD 1 && d.extractLsb' 5 2 = 1 && (d.extractLsb' 2 3 = 3 || d.extractLsb' 2 3 = 4))

namespace State

/-- REGION_NONDET of the block of a troupe that is about to start (10 R227). -/
def nondetTrap (s : State) (r : TRef) (t : Troupe) : Option TrapX :=
  if !t.det then none
  else match s.block? r.cluster r.block with
    | none => none
    | some b => (nondetRegion b.rgn).map (fun i => trapAt causeRegionNondet (BitVec.ofNat 64 i) t.launched)

/-- Lanes enter the block whose header lies at `e.pc` (R20, R68, R69, R71; R397 for a handler, whose header needs flag C); the
fetch uses its translation. REGION_NONDET comes before the checks of the entry's fetch and header (log entry 88). -/
def enterBlock (s0 : State) (r : TRef) (core : Nat) (launch : Nat) (ctx : Nat) (t : Troupe) (e : FEntry) : State :=
  let badTarget := trapAt causeBadTarget (BitVec.ofNat 64 (e.pc.toNat % 2 ^ 32)) e.mask
  match (if e.place = .entry then s0.nondetTrap r t else none) with
  | some x => s0.takeTrap r launch e.pc x
  | none =>
    if e.pc.toNat % 8 ≠ 0 then s0.takeTrap r launch e.pc badTarget
    else
      let s := s0.useFetch core ctx e.pc
      match s0.fetch core ctx e.pc with
      | .fault f => s.takeTrap r launch e.pc (trapMem f .fetch e.mask)
      | .pending va => s.later r va
      | .word w =>
        if kindOf w ≠ 3 || (e.place = .handler && !hdrC w) then s.takeTrap r launch e.pc badTarget
        else if !hdrOk t.nregs w then s.takeTrap r launch e.pc (trapAt causeIllegalOp ((hiOf w).setWidth 64) e.mask)
        else
          let fin := e.pc + BitVec.ofNat 64 (8 * (hdrLength w + 1))
          s.setTroupe r
            { t.setHead { e with pc := e.pc + 8, prio := hdrPrio w, place := .body fin, live := hdrLive w } with
              rm := none, redo := false }

/-- Whether the word after an op lies in the op's block and may belong to it (R77, R78). -/
def wantsNext (w : DWord) (pc fin : DWord) : Bool :=
  kindOf w = 0 && (pc + 8).toNat < fin.toNat && takesExt (opcodeOf w).toNat (opOf w none)

/-- The words of the instruction at `pc` of a block that ends at `fin`: the word, and the word after it where the block
has one and the first can take it as an operand (R77, R78). A next word that cannot be fetched faults at the op, whether
or not it would have been an extension word (log entry 71). -/
def fetchInstr (s : State) (core ctx : Nat) (pc fin : DWord) : Except Fetched (DWord × Option DWord) :=
  match s.fetch core ctx pc with
  | .word w =>
    if wantsNext w pc fin then
      match s.fetch core ctx (pc + 8) with
      | .word n => .ok (w, some n)
      | bad => .error bad
    else .ok (w, none)
  | bad => .error bad

/-- The state after the fetches of an instruction have used their translations (09 R216). -/
def useInstr (s : State) (core ctx : Nat) (pc fin : DWord) : State :=
  let s1 := s.useFetch core ctx pc
  match s.fetch core ctx pc with
  | .word w => if wantsNext w pc fin then s1.useFetch core ctx (pc + 8) else s1
  | _ => s1

end State

/-- Whether an op of an opcode that acts per lane names a v destination (R86). -/
def namesV (code : Nat) (o : Op) : Bool :=
  if 0x020 ≤ code && code < 0x100 then
    (match (opForm code (tyOf code o) o).dst with
      | .reg _ | .group _ => true
      | _ => false)
  else [0x103, 0x120, 0x122, 0x124, 0x125, 0x127, 0x140, 0x142, 0x144, 0x168, 0x1C3].contains code

/-- The latches that a word writes which selects no lane: the prior values of the v registers `ds` that it names, in order (R86). -/
def priorLatches (ds : List Nat) (x : Env) (s : State) : State :=
  s.setTroupe x.r { ds.foldl (fun t d => t.produceV true d 0 [] []) x.t with prog := 0 }

/-- What a word does that is no instruction and that R400 passes over, since RM is empty (18 R401; log entry 70): a stray extension
word, a word of a reserved slot or of kind 0b11, the words of an instruction with a field that breaks its rule, or a malformed
pair word. What it does, whether it ends the run, the instructions it counts for, and its words. -/
def passedOver (x : Illegal) (w : DWord) (next : Option DWord) (det : Bool) (t : Troupe) :
    Option ((Env → State → State) × Bool × Nat × Nat) :=
  let code := (opcodeOf w).toNat
  let o := opOf w none
  let ext := next.filter (fun n => kindOf n = 2)
  let level := opLevel code t o
  if t.rm ≠ some 0 then none
  else match x.err with
    | .strayExtension => some (fun _ s => s, w.getLsbD 61, 0, 1)
    | .headerInBody => some (fun _ s => s, false, 0, 1)
    | .reservedOpcode => some (priorLatches [], w.getLsbD 61, 1, 1)
    | .pairField => some (priorLatches [(w.extractLsb' 46 8).toNat, (w.extractLsb' 16 8).toNat], w.getLsbD 61, 2, 1)
    | .opField | .extField =>
      some (if level ≠ .lanes then skipState level o else priorLatches (if namesV code o then [o.dst.toNat] else []),
        w.getLsbD 61 || (ext.map (·.getLsbD 61)).getD false || endsOwn code det, 1, 1 + bit ext.isSome)

namespace State

/-- The word at the head of a troupe's frontier, inside a block that ends at `fin`. -/
def issueBody (s0 : State) (r : TRef) (core : Nat) (launch : Nat) (ctx : Nat) (t : Troupe) (e : FEntry) (fin : DWord) :
    Issued :=
  if runLimit ≤ t.run.words && t.rm ≠ some 0 then .state (s0.takeTrap r launch e.pc (trapAt causeRunOverlong 25 e.mask))
  else
    let s := s0.useInstr core ctx e.pc fin
    match s0.fetchInstr core ctx e.pc fin with
    | .error (.pending va) => .state (s.later r va)
    | .error (.fault f) => .state (s.takeTrap r launch e.pc (trapMem f .fetch e.mask))
    | .error (.word _) => .idle
    | .ok (w, next) =>
      match decode w next with
      | .instr i len =>
        let last := e.pc + BitVec.ofNat 64 (8 * len) = fin
        .run i { s with cur := some ⟨r, e.pc, hiOf w, (next.map hiOf).getD 0, len, last⟩ }
      | .illegal x =>
        let len := if (next.map kindOf) = some 2 then 2 else 1
        if runLimit < t.run.words + len && t.rm ≠ some 0 then .state (s.takeTrap r launch e.pc (trapAt causeRunOverlong 25 e.mask))
        else match passedOver x w next t.det t with
          | none => .state (s.takeTrap r launch e.pc (illegalTrap x t (hiOf w)))
          | some (f, ends, n, words) =>
            let c : Cur := ⟨r, e.pc, hiOf w, 0, words, e.pc + BitVec.ofNat 64 (8 * words) = fin⟩
            match { s with cur := some c }.env? with
            | some y => .state (complete ends n y s (s.fallCheck y e.mask) (f y s))
            | none => .idle

/-- The troupe that holds the issue slot of a quadrant. -/
def slotOf (s : State) (core quadrant : Nat) : Option TRef := aget s.slots (core * 4 + quadrant)

end State

end Sys2Proof.Machine
end

