-- ==== Sys2Proof/Machine/Integer.lean ====
section
/-! DEFINITION. The integer and address class 0x1 (05 R120 to R129). -/

namespace Sys2Proof.Machine

/-! ## Writing a result -/

/-- The register values of a result: one register, or a pair, even register first (R110). -/
def resultRegs (wide : Bool) (f : Nat → Nat) : List (Nat → Word) :=
  if wide then [fun l => BitVec.ofNat 32 (f l), fun l => BitVec.ofNat 32 (f l / 2 ^ 32)] else [fun l => BitVec.ofNat 32 (f l)]

/-- A function of the lane, computed once for each of `w` lanes. -/
def tabulate (w : Nat) (f : Nat → Nat) : Nat → Nat :=
  let tab := (List.range w).map f
  fun l => (tab[l]?).getD 0

/-- Writes the result of an op of classes 0x1 to 0x6: once to an s register when it is uniform, otherwise to the v
register in each selected lane (R80, R81). -/
def Troupe.result (t : Troupe) (u wide : Bool) (o : Op) (f : Nat → Nat) : Troupe :=
  if u then
    let x := f 0
    t.produceS true o.w true o.dst.toNat ((resultRegs wide (fun _ => x)).map (fun g => g 0))
  else t.produceV o.w o.dst.toNat (t.selected o.guard) (resultRegs wide (tabulate t.width f)) []

/-- An op of classes 0x1 and 0x2 with the result `f` of a lane. -/
def laneOp (code : Nat) (o : Op) (f : Troupe → Nat → Nat → Nat) (x : Env) (s : State) : Res :=
  let ty := tyOf code o
  .done (s.setTroupe x.r (x.t.result (uniformOp code x.t o) (type64 ty) o (f x.t ty)))

/-- Applies `f` to each element of up to three operands of a type (R124): `f` takes the element width and the elements. -/
def elementwise (ty : Nat) (f : Nat → Nat → Nat → Nat → Nat) (a b c : Nat) : Nat :=
  let w := slotBits ty
  joinElems w ((List.range (eplOf ty)).map (fun j => f w (elemOf w a j) (elemOf w b j) (elemOf w c j) % 2 ^ w))

/-- An op that acts on each element of A and B (R124); C is read by the three-source forms only. -/
def elemOp (code : Nat) (o : Op) (f : Nat → Nat → Nat → Nat → Nat → Nat) : Env → State → Res :=
  laneOp code o (fun t ty l =>
    elementwise ty (f ty) (t.operand ty o o.a l) (t.operand ty o o.b l)
      (if threeSource code then t.operand ty o o.srcC l else 0))

/-! ## Element results (R123, R125) -/

/-- The value of an element read in its type. -/
def ev (ty x : Nat) : Int := intVal ty x

/-- IDIV (R125): rounds toward zero. -/
def divElem (ty w a b : Nat) : Nat :=
  if b = 0 then 2 ^ w - 1
  else if typeSigned ty then wrap w (Int.tdiv (ev ty a) (ev ty b)) else a / b

/-- IREM (R125): the sign of the dividend. -/
def remElem (ty w a b : Nat) : Nat :=
  if b = 0 then a
  else if typeSigned ty then wrap w (Int.tmod (ev ty a) (ev ty b)) else a % b

/-- MIN and MAX. -/
def minElem (ty a b : Nat) : Nat := if ev ty b < ev ty a then b else a
def maxElem (ty a b : Nat) : Nat := if ev ty a < ev ty b then b else a

/-- MULH: the high half of the exact product. -/
def mulhElem (ty w a b : Nat) : Nat := wrap w (Int.fdiv (ev ty a * ev ty b) (2 ^ w))

/-- ABS of a signed element. -/
def absElem (ty w a : Nat) : Nat := wrap w (Int.natAbs (ev ty a))

/-! ## LEA, MOV, MOVI, I2I -/

/-- LEA (R127). -/
def leaValue (o : Op) (t : Troupe) (ty l : Nat) : Nat :=
  let b := t.operand ty o o.b l
  let idx : Int := if ty = 5 then toSigned 32 b else b
  wrap 64 ((t.rawPair o.a l).toNat + idx * 2 ^ (t.operand ty o o.srcC l % 64))

def leaBody (o : Op) (x : Env) (s : State) : Res :=
  let ty := tyOf 0x02C o
  .done (s.setTroupe x.r (x.t.result (uniformOp 0x02C x.t o) true o (leaValue o x.t ty)))

/-- The tag bytes that MOV copies with a register (R99, R128): all of them when a lane is selected and A carries a tag. -/
def movTag (t : Troupe) (a : Src) (sel : Lanes) : List (Nat × Byte) :=
  if sel = 0 then []
  else match a.cls with
    | .v => (List.range Troupe.tagBytes).map (fun b => (b, t.readTag a.num.toNat b))
    | .latch => (List.range Troupe.tagBytes).map (fun b => (b, BitVec.ofNat 8 (t.srcTag a b)))
    | _ => []

/-- MOV of a v register or latch, or of an s register under a per-lane op (R128). -/
def movBody (o : Op) (x : Env) (s : State) : Res :=
  let ty := tyOf 0x02D o
  let wide := type64 ty
  let u := uniformOp 0x02D x.t o
  let t := x.t
  let sel := t.selected o.guard
  if u then .done (s.setTroupe x.r (t.result true wide o (fun l => t.operand ty o o.a l)))
  else
    let value := tabulate t.width (fun l => t.operand ty o o.a l)
    let t1 := t.produceV o.w o.dst.toNat sel (resultRegs wide value) (movTag t o.a sel)
    let second : List (Nat × Byte) :=
      if wide && !o.w && sel ≠ 0 && o.a.cls = .v then
        (List.range Troupe.tagBytes).map (fun b => ((o.dst.toNat + 1) * 32 + b, t.readTag (o.a.num.toNat + 1) b))
      else []
    .done (s.setTroupe x.r (t1.writeTags second))

/-- MOVI (R128): src A chooses the destination kind. -/
def moviBody (o : Op) (x : Env) (s : State) : Res :=
  let ty := tyOf 0x02E o
  let v := immValue ty o o.b
  .done (s.setTroupe x.r (x.t.result (o.a.cls = .s) (type64 ty) o (fun _ => v)))

/-- The range of an integer type. -/
def clampInt (ty : Nat) (v : Int) : Int :=
  let w := typeBits ty
  let lo : Int := if typeSigned ty then -(2 ^ (w - 1)) else 0
  let hi : Int := if typeSigned ty then 2 ^ (w - 1) - 1 else 2 ^ w - 1
  max lo (min hi v)

/-- I2I (R129) of a source value `a` from type `ts` to type `td`. -/
def i2iValue (ts td : Nat) (sat : Bool) (a : Nat) : Nat :=
  let v := ev ts (a % 2 ^ typeBits ts)
  let r := wrap (typeBits td) (if sat then clampInt td v else v)
  if typeSigned td && typeBits td < 32 then wrap 32 (toSigned (typeBits td) r) else r

def i2iBody (o : Op) (x : Env) (s : State) : Res :=
  let td := tyOf 0x02F o
  let ts := formSrcType o % 16
  let sat := o.b.imm11.getLsbD 4
  .done (s.setTroupe x.r (x.t.result (uniformOp 0x02F x.t o) (type64 td) o
    (fun l => i2iValue ts td sat (x.t.operand ts o o.a l))))

/-! ## Meanings -/

def execAdd (o : Op) (s : State) : Host.Outcome State Fault Refusal :=
  issueOp 0x020 (.add o) o (elemOp 0x020 o (fun _ _ a b _ => a + b)) s
def execSub (o : Op) (s : State) : Host.Outcome State Fault Refusal :=
  issueOp 0x021 (.sub o) o (elemOp 0x021 o (fun _ w a b _ => a + 2 ^ w - b)) s
def execAddc (o : Op) (s : State) : Host.Outcome State Fault Refusal :=
  issueOp 0x022 (.addc o) o (elemOp 0x022 o (fun _ w a b _ => if 2 ^ w ≤ a + b then 1 else 0)) s
def execMul (o : Op) (s : State) : Host.Outcome State Fault Refusal :=
  issueOp 0x023 (.mul o) o (elemOp 0x023 o (fun _ _ a b _ => a * b)) s
def execMulh (o : Op) (s : State) : Host.Outcome State Fault Refusal :=
  issueOp 0x024 (.mulh o) o (elemOp 0x024 o (fun ty w a b _ => mulhElem ty w a b)) s
def execMad (o : Op) (s : State) : Host.Outcome State Fault Refusal :=
  issueOp 0x025 (.mad o) o (elemOp 0x025 o (fun _ _ a b c => a * b + c)) s
def execIdiv (o : Op) (s : State) : Host.Outcome State Fault Refusal :=
  issueOp 0x026 (.idiv o) o (elemOp 0x026 o (fun ty w a b _ => divElem ty w a b)) s
def execIrem (o : Op) (s : State) : Host.Outcome State Fault Refusal :=
  issueOp 0x027 (.irem o) o (elemOp 0x027 o (fun ty w a b _ => remElem ty w a b)) s
def execMin (o : Op) (s : State) : Host.Outcome State Fault Refusal :=
  issueOp 0x028 (.min o) o (elemOp 0x028 o (fun ty _ a b _ => minElem ty a b)) s
def execMax (o : Op) (s : State) : Host.Outcome State Fault Refusal :=
  issueOp 0x029 (.max o) o (elemOp 0x029 o (fun ty _ a b _ => maxElem ty a b)) s
def execAbs (o : Op) (s : State) : Host.Outcome State Fault Refusal :=
  issueOp 0x02A (.abs o) o (elemOp 0x02A o (fun ty w a _ _ => absElem ty w a)) s
def execNeg (o : Op) (s : State) : Host.Outcome State Fault Refusal :=
  issueOp 0x02B (.neg o) o (elemOp 0x02B o (fun _ w a _ _ => 2 ^ w - a)) s
def execLea (o : Op) (s : State) : Host.Outcome State Fault Refusal := issueOp 0x02C (.lea o) o (leaBody o) s
def execMov (o : Op) (s : State) : Host.Outcome State Fault Refusal := issueOp 0x02D (.mov o) o (movBody o) s
def execMovi (o : Op) (s : State) : Host.Outcome State Fault Refusal := issueOp 0x02E (.movi o) o (moviBody o) s
def execI2i (o : Op) (s : State) : Host.Outcome State Fault Refusal := issueOp 0x02F (.i2i o) o (i2iBody o) s

end Sys2Proof.Machine
end

