-- ==== Sys2Proof/Machine/Sfu.lean ====
section
/-! DEFINITION. The special functions (06_float_and_block.md R160 to R162): each result is the exact value of the
function, rounded once to FP32 with RNE. RCP, RSQ and SQT are computed exactly with a sticky bit. The
transcendental functions are enclosed between two dyadic numbers at rising precision until both round alike
(log entry 7); the enclosing error is 2^40 units in the last fixed-point place. -/

namespace Sys2Proof.Machine

/-- floor(√n), one bit at a time from bit `i` down. -/
def isqrtFrom : Nat → Nat → Nat → Nat
  | 0, n, r => if (r + 1) * (r + 1) ≤ n then r + 1 else r
  | i + 1, n, r => isqrtFrom i n (if (r + 2 ^ (i + 1)) * (r + 2 ^ (i + 1)) ≤ n then r + 2 ^ (i + 1) else r)

/-- floor(√n). -/
def isqrt (n : Nat) : Nat := isqrtFrom (Nat.log2 n / 2 + 1) n 0

/-- n · 2^e with a sticky bit below it, so that rounding it once rounds the exact value once. -/
def sticky (n : Nat) (inexact : Bool) (e : Int) : Nat × Int := (2 * n + bit inexact, e - 1)

/-- Rounds a positive enclosed value with a sign. -/
def rneMag (neg : Bool) (x : Nat × Int) : Nat := (rndF .fp32 Rnd.rne neg x.1 x.2).1

/-- 1 / (m · 2^e) with a sticky bit. -/
def rcpMag (m : Nat) (e : Int) : Nat × Int :=
  let k := Nat.log2 m + 64
  sticky (2 ^ k / m) (decide (2 ^ k % m ≠ 0)) (-e - k)

/-- √(m · 2^e) with a sticky bit. -/
def sqtMag (m : Nat) (e : Int) : Nat × Int :=
  let m' := if e % 2 = 0 then m else 2 * m
  let e' := if e % 2 = 0 then e else e - 1
  let n := m' * 2 ^ 128
  let r := isqrt n
  sticky r (decide (r * r ≠ n)) (e' / 2 - 64)

/-- 1 / √(m · 2^e) with a sticky bit. -/
def rsqMag (m : Nat) (e : Int) : Nat × Int :=
  let m' := if e % 2 = 0 then m else 2 * m
  let e' := if e % 2 = 0 then e else e - 1
  let k := Nat.log2 m' / 2 + 64
  let n := 2 ^ (2 * k)
  let r := isqrt (n / m')
  sticky r (decide (r * r * m' ≠ n)) (-(e' / 2) - k)

/-- The sum over i of ±p / (z^i (2 i + 1)), the series of arctan (alternating) or artanh, from term `i`;
`p` is the running power and `k2` the square of the reciprocal argument. -/
def atanSum (alternating : Bool) (k2 : Nat) : Nat → Nat → Nat → Int → Int
  | 0, _, _, acc => acc
  | fuel + 1, p, i, acc =>
    if p = 0 then acc else
    let t : Int := (p / (2 * i + 1) : Nat)
    atanSum alternating k2 fuel (p / k2) (i + 1) (if alternating && decide (i % 2 = 1) then acc - t else acc + t)

/-- arctan(1/k) scaled by 2^w. -/
def atanInv (k w : Nat) : Int := atanSum true (k * k) (w + 1) (2 ^ w / k) 0 0

/-- π scaled by 2^w, by Machin's formula. -/
def piFix (w : Nat) : Nat := (16 * atanInv 5 w - 4 * atanInv 239 w).toNat

/-- ln 2 = 2 artanh(1/3) scaled by 2^w. -/
def ln2Fix (w : Nat) : Nat := (2 * atanSum false 9 (w + 1) (2 ^ w / 3) 0 0).toNat

/-- The series of artanh(z), for z scaled by 2^w. -/
def atanhSum (w z2 : Nat) : Nat → Nat → Nat → Nat → Nat
  | 0, _, _, acc => acc
  | fuel + 1, p, i, acc =>
    if p = 0 then acc else atanhSum w z2 fuel (p * z2 / 2 ^ w) (i + 1) (acc + p / (2 * i + 1))

/-- log2(m · 2^e), scaled by 2^w. -/
def log2Fix (w m : Nat) (e : Int) : Int :=
  let l := Nat.log2 m
  let z := (m - 2 ^ l) * 2 ^ w / (m + 2 ^ l)
  let lnx := 2 * atanhSum w (z * z / 2 ^ w) (w + 1) z 0 0
  (e + l) * 2 ^ w + ((lnx * 2 ^ w / ln2Fix w : Nat) : Int)

/-- The series of exp(y), for y < 1 scaled by 2^w. -/
def expSum (w y : Nat) : Nat → Nat → Nat → Nat → Nat
  | 0, _, _, acc => acc
  | fuel + 1, t, i, acc => if t = 0 then acc else expSum w y fuel (t * y / 2 ^ w / (i + 1)) (i + 1) (acc + t)

/-- exp(y), for y < 1 scaled by 2^w. -/
def expFix (w y : Nat) : Nat := expSum w y (w + 1) (2 ^ w) 0 0

/-- Squares a value scaled by 2^w, n times. -/
def squares (w : Nat) : Nat → Nat → Nat
  | 0, x => x
  | n + 1, x => squares w n (x * x / 2 ^ w)

/-- tanh(y) for 0 < y < 16, scaled by 2^w. -/
def tanhFix (w y : Nat) : Nat :=
  let ex := squares w 6 (expFix w (2 * y / 64))
  (ex - 2 ^ w) * 2 ^ w / (ex + 2 ^ w)

/-- The alternating series of sine (from term y) or cosine (from term 1), for y scaled by 2^w. -/
def sinSum (w : Nat) (y2 : Nat) : Nat → Nat → Nat → Bool → Int → Int
  | 0, _, _, _, acc => acc
  | fuel + 1, t, i, neg, acc =>
    if t = 0 then acc else
    sinSum w y2 fuel (t * y2 / 2 ^ w / ((i + 1) * (i + 2))) (i + 2) (!neg) (if neg then acc - (t : Int) else acc + t)

/-- sin or cos of m · 2^e (positive), scaled by 2^w, with exact argument reduction modulo π/2 (R160). -/
def sinFix (cosine : Bool) (w m : Nat) (e : Int) : Int :=
  let g := w + 160
  let x := if 0 ≤ e then m * 2 ^ (g + e.toNat) else m * 2 ^ g / 2 ^ (-e).toNat
  let half := piFix (g + 160)
  let n := x * 2 ^ 161 / half
  let r := (x * 2 ^ 161 - n * half) / 2 ^ 161
  let y := r / 2 ^ 160
  let quadrant := (n + bit cosine) % 4
  let s := if quadrant % 2 = 0 then sinSum w (y * y / 2 ^ w) (w + 1) y 1 false 0
    else sinSum w (y * y / 2 ^ w) (w + 1) (2 ^ w) 0 false 0
  if quadrant < 2 then s else -s

/-- Rounds a value known within 2^40 units of the place 2^-w, when both ends of the enclosure round alike. -/
def roundEnclosed (w : Nat) (shift v : Int) : Option Nat :=
  let lo := v - 2 ^ 40
  let hi := v + 2 ^ 40
  if lo < 0 && 0 < hi then none else
  let a := (rndF .fp32 Rnd.rne (decide (lo < 0)) lo.natAbs (shift - w)).1
  let b := (rndF .fp32 Rnd.rne (decide (hi < 0 || (hi = 0 && lo < 0))) hi.natAbs (shift - w)).1
  if a = b then some a else none

/-- Raises the precision until the enclosure rounds, at most `fuel` times; then rounds the middle (log entry 7). -/
def roundAdaptive (f : Nat → Int) (shift : Int) : Nat → Nat → Nat
  | 0, w => let v := f w; (rndF .fp32 Rnd.rne (decide (v < 0)) v.natAbs (shift - w)).1
  | fuel + 1, w =>
    match roundEnclosed w shift (f w) with
    | some c => c
    | none => roundAdaptive f shift fuel (2 * w)

/-- LG2 (R160, R161). -/
def lg2F (c : Nat) : Nat :=
  match decodeF .fp32 c with
  | .nan => quiet .fp32 c
  | .inf s => if s then nanc 5 .fp32 else c
  | .fin s m e =>
    if m = 0 then signed .fp32 true Fmt.fp32.infMag
    else if s then nanc 5 .fp32
    else if m = 2 ^ Nat.log2 m then ofIntF Rnd.rne (e + Nat.log2 m)
    else roundAdaptive (fun w => log2Fix w m e) 0 4 256

/-- RCP (R160, R161). -/
def rcpF (c : Nat) : Nat :=
  match decodeF .fp32 c with
  | .nan => quiet .fp32 c
  | .inf s => signed .fp32 s 0
  | .fin s m e => if m = 0 then signed .fp32 s Fmt.fp32.infMag else rneMag s (rcpMag m e)

/-- RSQ (R160, R161). -/
def rsqF (c : Nat) : Nat :=
  match decodeF .fp32 c with
  | .nan => quiet .fp32 c
  | .inf s => if s then nanc 5 .fp32 else 0
  | .fin s m e =>
    if m = 0 then signed .fp32 s Fmt.fp32.infMag else if s then nanc 5 .fp32 else rneMag false (rsqMag m e)

/-- SQT (R160, R161). -/
def sqtF (c : Nat) : Nat :=
  match decodeF .fp32 c with
  | .nan => quiet .fp32 c
  | .inf s => if s then nanc 5 .fp32 else c
  | .fin s m e => if m = 0 then c else if s then nanc 5 .fp32 else rneMag false (sqtMag m e)

/-- SIN (R160, R161). -/
def sinF (c : Nat) : Nat :=
  match decodeF .fp32 c with
  | .nan => quiet .fp32 c
  | .inf _ => nanc 5 .fp32
  | .fin s m e =>
    if m = 0 then c else
    roundAdaptive (fun w => if s then -(sinFix false w m e) else sinFix false w m e) 0 4 256

/-- COS (R160, R161). -/
def cosF (c : Nat) : Nat :=
  match decodeF .fp32 c with
  | .nan => quiet .fp32 c
  | .inf _ => nanc 5 .fp32
  | .fin _ m e => if m = 0 then 0x3F800000 else roundAdaptive (fun w => sinFix true w m e) 0 4 256

/-- TANH (R160, R161). At a magnitude of 16 or more the exact value rounds to ±1. -/
def tanhF (c : Nat) : Nat :=
  match decodeF .fp32 c with
  | .nan => quiet .fp32 c
  | .inf s => signed .fp32 s 0x3F800000
  | .fin s m e =>
    if m = 0 then c
    else if 4 ≤ floorLog2 m e then signed .fp32 s 0x3F800000
    else
      let f := fun (w : Nat) =>
        let y := if 0 ≤ e then m * 2 ^ (w + e.toNat) else m * 2 ^ w / 2 ^ (-e).toNat
        ((tanhFix w y : Nat) : Int)
      signed .fp32 s (roundAdaptive f 0 4 256)

/-- 2^t for an exact t (R160, R162). -/
def exp2F (t : Dy) : Nat :=
  if t.n = 0 then 0x3F800000
  else if 8 ≤ floorLog2 t.n.natAbs t.e then (if t.n < 0 then 0 else Fmt.fp32.infMag)
  else if 0 ≤ t.e || decide (t.n % 2 ^ (-t.e).toNat = 0) then
    let k := if 0 ≤ t.e then t.n * 2 ^ t.e.toNat else t.n / 2 ^ (-t.e).toNat
    (rndF .fp32 Rnd.rne false 1 k).1
  else
    let d := (-t.e).toNat
    let k := t.n / 2 ^ d
    let f := (t.n - k * 2 ^ d).toNat
    roundAdaptive (fun w => ((expFix w (f * ln2Fix w / 2 ^ d) : Nat) : Int)) k 4 256

/-- EXB: 2^((a − b) · c) (R162). -/
def exbF (a b c : Nat) : Nat :=
  match firstNan .fp32 [a, b, c] with
  | some n => n
  | none =>
    let x := decodeF .fp32 a
    let y := decodeF .fp32 b
    let z := decodeF .fp32 c
    if x.isInf && y.isInf && x.isNeg == y.isNeg then nanc 3 .fp32 else
    let dInf := x.isInf || y.isInf
    let d := x.dy.add y.dy.neg
    let dNeg := if x.isInf then x.isNeg else if y.isInf then !y.isNeg else decide (d.n < 0)
    if (dInf && z.isZero) || (!dInf && decide (d.n = 0) && z.isInf) then nanc 4 .fp32
    else if dInf || z.isInf then (if Bool.xor dNeg z.isNeg then 0 else Fmt.fp32.infMag)
    else exp2F (d.mul z.dy)

end Sys2Proof.Machine
end

