-- ==== Sys2Proof/Machine/Float.lean ====
section
/-! DEFINITION. The floating-point class 0x4 (06 R138 to R149) and the special-function class 0x6 (R160 to R164). -/

namespace Sys2Proof.Machine

/-- The element format of a float or MX type code. -/
def fmtOf (ty : Nat) : Fmt := (Fmt.ofType ty).getD .fp32

/-- The lane whose WID an op's rounding index uses: its own, or for a uniform op that of the lowest active lane (R139). -/
def Troupe.roundLane (t : Troupe) (u : Bool) (l : Nat) : Nat := if u then lowestLane t.active else l

/-- Applies `f` to each element of up to three operands (R138, R139): `f` takes the rounding and the elements. -/
def floatLane (code : Nat) (o : Op) (f : Fmt → Rnd → Nat → Nat → Nat → Nat) (t : Troupe) (u : Bool) (ty l : Nat) : Nat :=
  let w := slotBits ty
  let a := t.operand ty o o.a l
  let b := t.operand ty o o.b l
  let c := if threeSource code then t.operand ty o o.srcC l else 0
  joinElems w ((List.range (eplOf ty)).map (fun j =>
    f (fmtOf ty) (t.rounding (fnRnd (fnField code o)) (t.elemIndex (t.roundLane u l) (eplOf ty) j))
      (elemOf w a j) (elemOf w b j) (elemOf w c j)))

/-- A float op on the elements of its sources. -/
def floatOp (code : Nat) (o : Op) (f : Fmt → Rnd → Nat → Nat → Nat → Nat) (x : Env) (s : State) : Res :=
  let ty := tyOf code o
  let u := uniformOp code x.t o
  .done (s.setTroupe x.r (x.t.result u false o (floatLane code o f x.t u ty)))

/-- FCMP (R145). -/
def fcmpBody (o : Op) (x : Env) (s : State) : Res :=
  let t := x.t
  let a (l : Nat) : Nat := t.operand 11 o o.a l
  let b (l : Nat) : Nat := t.operand 11 o o.b l
  let lt := maskWhere t.width (fun l => ltF .fp32 (a l) (b l))
  let eq := maskWhere t.width (fun l => eqF .fp32 (a l) (b l))
  let sel := t.selected o.guard
  .done (s.setTroupe x.r ((t.writeP o.dst.toNat sel lt).writeP (o.dst.toNat + 1) sel eq))

/-! ## Conversions -/

/-- The lanes whose values an op uses: the selected ones, or one lane for a uniform op. -/
def Troupe.usedLanes (t : Troupe) (u : Bool) (o : Op) : List Nat := if u then [0] else lanesOf t.width (t.selected o.guard)

/-- The source elements of a float-to-float FCVT in a lane (R148). -/
def fcvtSource (o : Op) (ts td : Nat) (t : Troupe) (l : Nat) : List Nat :=
  if ts = 11 && td ≠ 11 then
    let second : Src := { o.a with num := o.a.num + 1 }
    [t.operand 11 o o.a l, t.operand 11 o second l]
  else elemsOf (slotBits ts) (eplOf ts) (t.operand ts o o.a l)

/-- One converted element (R58, R59, R148). -/
def fcvtElem (ts td : Nat) (r : Rnd) (c : Nat) : Nat :=
  if ts = 11 && td = 11 then (if isNanF .fp32 c then quiet .fp32 c else c) else (convF (fmtOf ts) (fmtOf td) r c).1

/-- FCVT between float formats (R148). -/
def fcvtFloat (o : Op) (ts td : Nat) (x : Env) (s : State) : Res :=
  let t := x.t
  let u := uniformOp 0x08B t o
  let wide := ts ≠ 11 && td = 11
  let f (l : Nat) : Nat :=
    let xs := fcvtSource o ts td t l
    let n := xs.length
    let ys := (List.range n).map (fun j =>
      fcvtElem ts td (t.rounding (fnRnd o.c) (t.elemIndex (t.roundLane u l) n j)) (xs.getD j 0))
    joinElems (if wide then 32 else slotBits td) ys
  let inputs := (t.usedLanes u o).flatMap (fun l => (fcvtSource o ts td t l).map (decodeF (fmtOf ts)))
  .done (s.setTroupe x.r ((t.amaxIn inputs).result u wide o f))

/-! ## Blocks across lanes (02 R46) -/

/-- Lanes per block for `epl` elements a lane. -/
def blockLanes (epl : Nat) : Nat := 32 / epl

/-- The lanes of block `b` in a troupe. -/
def lanesInBlock (w epl b : Nat) : List Nat :=
  (List.range (blockLanes epl)).filterMap (fun i => let l := b * blockLanes epl + i; if l < w then some l else none)

/-- The blocks of a troupe that have a selected lane. -/
def blocksWith (t : Troupe) (epl : Nat) (sel : Lanes) : List Nat :=
  (List.range ((t.width + blockLanes epl - 1) / blockLanes epl)).filter
    (fun b => (lanesInBlock t.width epl b).any (hasLane sel))

/-- A block as an op reads it: each element of a selected lane with its lane and place; unselected lanes are absent. -/
def blockElems (t : Troupe) (epl b : Nat) (sel : Lanes) : List (Nat × Nat) :=
  ((lanesInBlock t.width epl b).filter (hasLane sel)).flatMap (fun l => (List.range epl).map (fun j => (l, j)))

/-- The result of a block op: the codes of the selected lanes, the tag bytes, and STICKY.OVF. -/
structure BlockOut where
  codes : List ((Nat × Nat) × Nat)
  tags  : List (Nat × Byte)
  ovf   : Bool

/-- Runs `f` on each block with a selected lane: it takes the block and its selected elements. -/
def overBlocks (t : Troupe) (epl : Nat) (sel : Lanes) (f : Nat → List (Nat × Nat) → QBlock) : BlockOut :=
  (blocksWith t epl sel).foldl (fun acc b =>
    let es := blockElems t epl b sel
    let q := f b es
    ⟨acc.codes ++ es.zip q.codes, acc.tags ++ [(b, BitVec.ofNat 8 q.scale)], acc.ovf || q.ovf⟩) ⟨[], [], false⟩

/-- The register value of a lane that holds the codes of a block op. -/
def BlockOut.lane (out : BlockOut) (ty epl l : Nat) : Nat :=
  joinElems (slotBits ty) ((List.range epl).map (fun j => (out.codes.lookup (l, j)).getD 0))

/-- Writes the codes and tags of a block op (R99, R150). -/
def Troupe.blockResult (t : Troupe) (o : Op) (ty epl : Nat) (out : BlockOut) : Troupe :=
  (t.stickyOvf out.ovf).produceV o.w o.dst.toNat (t.selected o.guard)
    (resultRegs false (tabulate t.width (out.lane ty epl))) out.tags

/-- The exact values of the MX elements of a source in a lane (R65, R148). -/
def mxValues (t : Troupe) (o : Op) (x : Src) (ty l : Nat) : List FVal :=
  let epl := eplOf ty
  let s := t.srcTag x (l / blockLanes epl)
  (elemsOf (slotBits ty) epl (t.operand ty o x l)).map (fun c => dq (fmtOf ty) c s)

/-- FCVT between MX formats (R148). -/
def fcvtMx (o : Op) (ts td : Nat) (x : Env) (s : State) : Res :=
  let t := x.t
  let sel := t.selected o.guard
  let fit := o.b.imm11.getLsbD 5
  let val (e : Nat × Nat) : FVal := (mxValues t o o.a ts e.1).getD e.2 (.fin false 0 0)
  let out := overBlocks t 4 sel (fun _ es =>
    quantBlock (fmtOf td) fit (es.map (fun e => (val e, t.rounding (fnRnd o.c) (t.elemIndex e.1 4 e.2)))))
  let inputs := (lanesOf t.width sel).flatMap (fun l => mxValues t o o.a ts l)
  .done (s.setTroupe x.r ((t.amaxIn inputs).blockResult o td 4 out))

/-- FCVT (R148). -/
def fcvtBody (o : Op) (x : Env) (s : State) : Res :=
  let td := tyOf 0x08B o
  let ts := formSrcType o
  if typeMx ts then fcvtMx o ts td x s else fcvtFloat o ts td x s

/-- The range of F2I's integer type. -/
def intLo (ty : Nat) : Int := if typeSigned ty then -(2 ^ (typeBits ty - 1)) else 0
def intHi (ty : Nat) : Int := if typeSigned ty then 2 ^ (typeBits ty - 1) - 1 else 2 ^ typeBits ty - 1

/-- F2I (R149). -/
def f2iBody (o : Op) (x : Env) (s : State) : Res :=
  let ty := tyOf 0x08C o
  let t := x.t
  let u := uniformOp 0x08C t o
  let f (l : Nat) : Int × Bool :=
    toIntF (t.rounding (fnRnd o.c) (t.elemIndex (t.roundLane u l) 1 0)) (intLo ty) (intHi ty) (t.operand 11 o o.a l)
  let ovf := (t.usedLanes u o).any (fun l => (f l).2)
  .done (s.setTroupe x.r ((t.stickyOvf ovf).result u (type64 ty) o (fun l => wrap (typeBits ty) (f l).1)))

/-- I2F (R149). -/
def i2fBody (o : Op) (x : Env) (s : State) : Res :=
  let ty := tyOf 0x08D o
  let t := x.t
  let u := uniformOp 0x08D t o
  let f (l : Nat) : Nat :=
    ofIntF (t.rounding (fnRnd o.c) (t.elemIndex (t.roundLane u l) 1 0)) (ev ty (t.operand ty o o.a l))
  .done (s.setTroupe x.r (t.result u false o f))

/-! ## Special functions (R160 to R164) -/

/-- SFU entries of a troupe (R163). -/
def sfuLimit : Nat := 8

/-- A special-function op whose exact, rounded result is `f` of its operands: it stalls while every entry is taken, and
its result is a late result (R163). -/
def sfuOp (code : Nat) (o : Op) (f : Nat → Nat → Nat → Nat) (x : Env) (s : State) : Res :=
  let t := x.t
  if sfuLimit ≤ t.sfuEntries then .stall s
  else
    let u := uniformOp code t o
    let g (l : Nat) : Nat :=
      f (t.operand 11 o o.a l) (if threeSource code then t.operand 11 o o.b l else 0)
        (if threeSource code then t.operand 11 o o.srcC l else 0)
    .done (s.setTroupe x.r
      (if u then t.produceLateS true true o.w true o.dst.toNat [BitVec.ofNat 32 (g 0)]
       else t.produceLateV true o.w o.dst.toNat (t.selected o.guard)
        (resultRegs false (tabulate t.width (fun l => if hasLane (t.selected o.guard) l then g l else 0))) []))

/-! ## Meanings -/

def execFadd (o : Op) (s : State) : Host.Outcome State Fault Refusal :=
  issueOp 0x080 (.fadd o) o (floatOp 0x080 o (fun T r a b _ => addF T r a b)) s
def execFsub (o : Op) (s : State) : Host.Outcome State Fault Refusal :=
  issueOp 0x081 (.fsub o) o (floatOp 0x081 o (fun T r a b _ => subF T r a b)) s
def execFmul (o : Op) (s : State) : Host.Outcome State Fault Refusal :=
  issueOp 0x082 (.fmul o) o (floatOp 0x082 o (fun T r a b _ => mulF T r a b)) s
def execFma (o : Op) (s : State) : Host.Outcome State Fault Refusal :=
  issueOp 0x083 (.fma o) o (floatOp 0x083 o (fun T r a b c => fmaF T r a b c)) s
def execFmin (o : Op) (s : State) : Host.Outcome State Fault Refusal :=
  issueOp 0x084 (.fmin o) o (floatOp 0x084 o (fun T _ a b _ => minF T a b)) s
def execFmax (o : Op) (s : State) : Host.Outcome State Fault Refusal :=
  issueOp 0x085 (.fmax o) o (floatOp 0x085 o (fun T _ a b _ => maxF T a b)) s
def execFabs (o : Op) (s : State) : Host.Outcome State Fault Refusal :=
  issueOp 0x086 (.fabs o) o (floatOp 0x086 o (fun T _ a _ _ => if T.signBit ≤ a then a - T.signBit else a)) s
def execFneg (o : Op) (s : State) : Host.Outcome State Fault Refusal :=
  issueOp 0x087 (.fneg o) o (floatOp 0x087 o (fun T _ a _ _ => negF T a)) s
def execFcmp (o : Op) (s : State) : Host.Outcome State Fault Refusal := issueOp 0x088 (.fcmp o) o (fcmpBody o) s
def execFclass (o : Op) (s : State) : Host.Outcome State Fault Refusal :=
  issueOp 0x089 (.fclass o) o (floatOp 0x089 o (fun T _ a _ _ => classF T a)) s
def execFrnd (o : Op) (s : State) : Host.Outcome State Fault Refusal :=
  issueOp 0x08A (.frnd o) o (floatOp 0x08A o (fun T r a _ _ => roundIntegralF T r a)) s
def execFcvt (o : Op) (s : State) : Host.Outcome State Fault Refusal := issueOp 0x08B (.fcvt o) o (fcvtBody o) s
def execF2i (o : Op) (s : State) : Host.Outcome State Fault Refusal := issueOp 0x08C (.f2i o) o (f2iBody o) s
def execI2f (o : Op) (s : State) : Host.Outcome State Fault Refusal := issueOp 0x08D (.i2f o) o (i2fBody o) s
def execHfma2 (o : Op) (s : State) : Host.Outcome State Fault Refusal :=
  issueOp 0x08E (.hfma2 o) o (floatOp 0x08E o (fun T r a b c => fmaF T r a b c)) s
def execHadd2 (o : Op) (s : State) : Host.Outcome State Fault Refusal :=
  issueOp 0x08F (.hadd2 o) o (floatOp 0x08F o (fun T r a b _ => addF T r a b)) s
def execBfma2 (o : Op) (s : State) : Host.Outcome State Fault Refusal :=
  issueOp 0x090 (.bfma2 o) o (floatOp 0x090 o (fun T r a b c => fmaF T r a b c)) s

def execExb (o : Op) (s : State) : Host.Outcome State Fault Refusal :=
  issueOp 0x0C0 (.exb o) o (sfuOp 0x0C0 o (fun a b c => exbF a b c)) s
def execLg2 (o : Op) (s : State) : Host.Outcome State Fault Refusal :=
  issueOp 0x0C1 (.lg2 o) o (sfuOp 0x0C1 o (fun a _ _ => lg2F a)) s
def execRcp (o : Op) (s : State) : Host.Outcome State Fault Refusal :=
  issueOp 0x0C2 (.rcp o) o (sfuOp 0x0C2 o (fun a _ _ => rcpF a)) s
def execRsq (o : Op) (s : State) : Host.Outcome State Fault Refusal :=
  issueOp 0x0C3 (.rsq o) o (sfuOp 0x0C3 o (fun a _ _ => rsqF a)) s
def execSqt (o : Op) (s : State) : Host.Outcome State Fault Refusal :=
  issueOp 0x0C4 (.sqt o) o (sfuOp 0x0C4 o (fun a _ _ => sqtF a)) s
def execSin (o : Op) (s : State) : Host.Outcome State Fault Refusal :=
  issueOp 0x0C5 (.sin o) o (sfuOp 0x0C5 o (fun a _ _ => sinF a)) s
def execCos (o : Op) (s : State) : Host.Outcome State Fault Refusal :=
  issueOp 0x0C6 (.cos o) o (sfuOp 0x0C6 o (fun a _ _ => cosF a)) s
def execTanh (o : Op) (s : State) : Host.Outcome State Fault Refusal :=
  issueOp 0x0C7 (.tanh o) o (sfuOp 0x0C7 o (fun a _ _ => tanhF a)) s

end Sys2Proof.Machine
end

