-- ==== Sys2Proof/Machine/Access.lean ====
section
/-! DEFINITION. What the accesses of lanes share (09 R203 to R218; 11 R244 to R246): addresses, the checks of each lane,
the points where accesses are performed, miss-status entries, translation-cache fills, and how an instruction with
failing lanes ends (04 R100). -/

namespace Sys2Proof.Machine

/-! ## Addresses (R246) -/

/-- An offset operand extended from i32 (R244). -/
def offsetVal (o : Op) (t : Troupe) (l : Nat) : Int := toSigned 32 (t.operand 5 o o.b l)

/-- The address of a lane (R246). -/
def laneAddr (o : Op) (t : Troupe) (l : Nat) : Nat := wrap 64 ((t.rawPair o.a l).toNat + offsetVal o t l)

/-! ## The lanes of an access -/

/-- A lane whose address has passed its checks. -/
structure Reach where
  lane : Nat
  va   : Nat
  leaf : Leaf
  key  : Nat
  deriving DecidableEq, Repr

/-- The leaf and the key of a lane that has passed its checks. -/
def Reach.place (r : Reach) : Leaf × Nat := (r.leaf, r.key)

/-- Checks each lane: those that reach memory, and those that fault. -/
def reachLanes (ls : List Nat) (addr : Nat → Nat) (f : Nat → Except MemFault (Leaf × Nat)) :
    List Reach × List (Nat × MemFault) :=
  ls.foldr (fun l acc =>
    match f l with
    | .ok (leaf, k) => (⟨l, addr l, leaf, k⟩ :: acc.1, acc.2)
    | .error e => (acc.1, (l, e) :: acc.2)) ([], [])

/-- The lanes of a list of faults. -/
def faultMask (fs : List (Nat × MemFault)) : Lanes := maskOf (fs.map (·.1))

/-- How an instruction ends whose completed lanes have taken effect in `s` (R218). -/
def endAccess (fs : List (Nat × MemFault)) (acc : Access) (s : State) : Res :=
  match firstFault fs with
  | none => .done s
  | some f => .trap s (trapMem f acc (faultMask fs))

/-! ## Points of performance (R206 to R208, R246) -/

/-- Whether an access of a policy and scope is performed in the core's L1: scopes .t and .b on pages that are not host
memory. -/
def atL1 (policy scope : Nat) (leaf : Leaf) : Bool := policy = 0 && scope < 2 && leaf.home ≠ 2

/-- The point where an access of a policy and scope is performed (R206 to R208): policy .cd and the scopes .u and .y reach the
domain home. -/
def pointOf (policy scope : Nat) (leaf : Leaf) : Point :=
  if atL1 policy scope leaf then .l1 else if leaf.home = 2 || policy = 3 || 4 ≤ scope then .home else .l2

/-- A scope of cluster width or wider. -/
def wideScope (scope : Nat) : Bool := 2 ≤ scope

namespace State

/-- `n` bytes from key `k` as an access of a core performed at `l1` sees them, in single-copy-atomic units of `u` bytes (11
R265). -/
def viewUnits (s : State) (core : Nat) (l1 : Bool) (u k n : Nat) : Nat :=
  if l1 then ofBytes ((List.range (n / u)).flatMap (fun i => s.rdUnit core (k + u * i) u (byteChoice (k + u * i)))) else s.rdNat k n

/-- The same for a plain access: one unit of 8 bytes or less, or 8-byte pieces. -/
def viewNat (s : State) (core : Nat) (l1 : Bool) (k n : Nat) : Nat := s.viewUnits core l1 (min n 8) k n

/-- Writes bytes at their point of performance. -/
def viewWrite (s : State) (core : Nat) (l1 : Bool) (ws : List Host.Cell) : State := if l1 then s.wrL1 core ws else s.wrBytes ws

/-- The bytes of a sector that a core has stored with .ca and not yet written through. -/
def dirtyMask (s : State) (core sector : Nat) : BitVec 64 :=
  (List.range 64).foldl (fun m i => match s.l1Byte core (sector * 64 + i) with
    | .dirty _ => m ||| BitVec.ofNat 64 (2 ^ i)
    | _ => m) 0

/-- Whether a byte reads as poison: its sector is poisoned, and the core's own .ca stores have not rewritten the rest of
it (R212). -/
def poisonSeen (s : State) (core : Nat) (l1 : Bool) (k : Nat) : Bool :=
  match sget none s.poison (k / 64) with
  | none => false
  | some m => !(l1 && m ||| s.dirtyMask core (k / 64) = BitVec.allOnes 64)

/-- Whether any of `n` bytes reads as poison. -/
def poisonAny (s : State) (core : Nat) (l1 : Bool) (k n : Nat) : Bool :=
  (List.range ((n + 63) / 64 + 1)).any (fun i =>
    let q := k / 64 + i
    q ≤ (k + n - 1) / 64 && s.poisonSeen core l1 (q * 64))

/-! ## Translations and miss-status entries (R203, R204, R216) -/

/-- The lookups of the lanes of an access, those that reach memory and those that fault. -/
def usePages (s : State) (core ctx : Nat) (rs : List Reach) (fs : List (Nat × MemFault)) : State :=
  (rs.foldl (fun s r => s.lookPage core ctx r.va) s).lookFaults core ctx (fs.map (·.2))

/-- The sectors that `n` bytes from key `k` touch. -/
def spanSectors (k n : Nat) : List Nat := (List.range ((k + n - 1) / 64 + 1 - k / 64)).map (fun i => k / 64 + i)

/-- Whether what a request for `n` bytes from key `k` needs of a sector is present where the request is performed: in the
core's L1, in L2, or at the domain home; host memory holds nothing for the device (R204, R208). -/
def sectorThere (s : State) (core : Nat) (p : Point) (k n q : Nat) : Bool :=
  match p with
  | .l1 => (List.range n).all (fun i => (k + i) / 64 ≠ q || s.l1Byte core (k + i) ≠ .absent)
  | .l2 => s.inL2 (q * 64)
  | .home => if isLocalKey (q * 64) then s.inL2 (q * 64) else sget false s.far q

/-- The sectors that requests miss, each by its first key and with the point that it comes to (R204; log entry 25). -/
def missKeys (s : State) (core : Nat) (reqs : List (Point × Nat × Nat)) : List (Point × Nat) :=
  reqs.flatMap (fun r => ((spanSectors r.2.1 r.2.2).filter (fun q => !s.sectorThere core r.1 r.2.1 r.2.2 q)).map
    (fun q => (r.1, q * 64)))

/-- The sectors that requests hit in L1 (16 R375). -/
def hitSectors (s : State) (core : Nat) (reqs : List (Point × Nat × Nat)) : List Nat :=
  uniq (reqs.flatMap (fun r => (spanSectors r.2.1 r.2.2).filter (fun q => r.1 = .l1 && s.sectorThere core r.1 r.2.1 r.2.2 q)))

/-- Takes the miss-status entries of an instruction's requests (point, key, bytes); none when they are not free. -/
def takeEntries (s : State) (core : Nat) (reqs : List (Point × Nat × Nat)) : Option State :=
  let miss := s.missKeys core reqs
  if !s.mshrRoom core (miss.map (·.2)) then none
  else
    let hits := (s.hitSectors core reqs).length
    let s1 := if hits = 0 then s else s.bumpCore core 0x10 hits
    let at_ (p : Point) : List Nat := (miss.filter (fun m => m.1 = p)).map (·.2)
    some (((s1.takeMshr core .l1 (at_ .l1)).takeMshr core .l2 (at_ .l2)).takeMshr core .home (at_ .home))

end State

/-! ## The read of a load -/

/-- The faults of two checks, in lane order. -/
def mergeFaults (w : Nat) (a b : List (Nat × MemFault)) : List (Nat × MemFault) :=
  (List.range w).filterMap (fun l => ((a ++ b).lookup l).map (fun f => (l, f)))

namespace State

/-- The lanes whose `n` bytes read as poison: POISON at the lane's own address (R212). -/
def poisonFaults (s : State) (core : Nat) (l1 : Leaf → Bool) (n : Nat) (rs : List Reach) : List (Nat × MemFault) :=
  rs.filterMap (fun r =>
    if s.poisonAny core (l1 r.leaf) r.key n then some (r.lane, ⟨causePoison, 0, r.va, false⟩) else none)

/-- Before accesses performed at L2 or beyond, the core's L1 lines that they touch are written through; those of stores and
atomics (`drop`) also leave L1 (R206). -/
def yieldFor (s : State) (core : Nat) (l1 : Leaf → Bool) (drop : Bool) (n : Nat) (rs : List Reach) : State :=
  let ks := (rs.filter (fun r => !l1 r.leaf)).flatMap (fun r => [r.key, r.key + n - 1])
  if ks.isEmpty then s else if drop then s.yieldLines core ks else s.sendLines core ks

/-- The requests of some lanes for `n` bytes each. -/
def laneReqs (pt : Leaf → Point) (n : Nat) (rs : List Reach) : List (Point × Nat × Nat) :=
  rs.map (fun r => (pt r.leaf, r.key, n))

/-- The sectors of `n` bytes at each key of an access at the domain home. -/
def homeSectors (pt : Leaf → Point) (n : Nat) (rs : List (Leaf × Nat)) : List Nat :=
  (rs.filter (fun r => pt r.1 = .home)).flatMap (fun r => spanSectors r.2 n)

/-- After stores or atomics of `n` bytes: L2 keeps no copy of what has been performed at the domain home (R206). -/
def leaveHome (s : State) (pt : Leaf → Point) (n : Nat) (rs : List (Leaf × Nat)) : State :=
  let qs := homeSectors pt n rs
  if qs.isEmpty then s else s.settleHome qs

/-- The lines of accesses with policy .cs that are performed at L2 are evicted first there (R206). -/
def streamLines (s : State) (policy : Nat) (pt : Leaf → Point) (rs : List (Leaf × Nat)) : State :=
  if policy = 2 then s.markFirst ((rs.filter (fun r => pt r.1 = .l2)).map (fun r => r.2 / 256)) else s

end State

/-! ## Results of loads -/

/-- The result of a load of the lanes `ok` among the selected lanes: when none failed, the op's whole result with its
latch; otherwise the registers of the completed lanes only, which with W are kept for the latch (R86, R100). -/
def Troupe.loaded (t : Troupe) (o : Op) (sel ok : Lanes) (regs : List (Nat → Word)) (tags : List (Nat × Byte)) : Troupe :=
  let d := o.dst.toNat
  if sel = ok then t.issueLateV false true o.w d sel regs tags
  else if o.w then t.keep ((lanesOf t.width ok).map (fun l => (l, regs.headD (fun _ => 0) l))) tags
  else
    let cells := (List.range regs.length).flatMap (fun i => t.cellsV (d + i) ok (regs.getD i (fun _ => 0)))
    t.addLate ⟨false, true, cells, [], tags.map (fun b => (d * 32 + b.1, b.2))⟩ (Troupe.written d regs.length ok tags)

/-- A lane's value in a table of values. -/
def laneVal (tab : List (Nat × Nat)) (l : Nat) : Nat := (tab.lookup l).getD 0

/-- The width in bytes of a memory type (10 R234). -/
def memWidth (ty : Nat) : Nat := typeBits ty / 8

/-- A loaded element extended to its registers (R234). -/
def extendElem (ty x : Nat) : Nat := if typeSigned ty && typeBits ty < 32 then wrap 32 (toSigned (typeBits ty) x) else x

end Sys2Proof.Machine
end

