-- ==== Sys2Proof/Machine/Global.lean ====
section
/-! DEFINITION. The global-memory class 0x9 (11 R244 to R256): loads, stores, block accesses, gathers, atomics, fences,
prefetch and cache control. Every access is performed when its instruction issues (log entry 26). -/

namespace Sys2Proof.Machine

/-! ## Fields -/

/-- The policy, scope and order of an access. -/
def opPolicy (o : Op) : Nat := fnPolicy o.c
def opScope (o : Op) : Nat := fnScope o.c

/-- Bytes that a lane of LD or ST moves (R247). -/
def ldWidth (o : Op) : Nat := if o.c.extractLsb' 12 1 = 1 then 16 else memWidth (memType o.c)

/-- The release side of an order at a scope: the core's .ca stores are written through, for promotion those of every core
(R206, R253, R260). -/
def State.releaseAt (s : State) (core scope : Nat) : State := if wideScope scope then s.flushCore core else s

/-- The acquire side of an order at a scope: the core's L1 lines are written through and invalidated (R206). -/
def State.acquireAt (s : State) (core scope : Nat) : State := if wideScope scope then s.flushInvalCore core else s

/-! ## LD and ST (R247) -/

/-- The registers that `n` loaded bytes fill, register `j` of the group. -/
def loadRegs (ty : Nat) (x4 : Bool) (tab : List (Nat × Nat)) : List (Nat → Word) :=
  if x4 then (List.range 4).map (fun j l => BitVec.ofNat 32 (laneVal tab l / 2 ^ (32 * j)))
  else if type64 ty then [fun l => BitVec.ofNat 32 (laneVal tab l), fun l => BitVec.ofNat 32 (laneVal tab l / 2 ^ 32)]
  else [fun l => BitVec.ofNat 32 (extendElem ty (laneVal tab l))]

/-- LD. Order 3 writes through every core's .ca stores first; an acquire invalidates L1 afterwards. -/
def ldBody (o : Op) (x : Env) (s0 : State) : Res :=
  let ty := memType o.c
  let n := ldWidth o
  let order := (o.c.extractLsb' 10 2).toNat
  let t := x.t
  let sel := t.selected o.guard
  let s := if order = 3 then s0.flushAll else s0
  let pt := pointOf (opPolicy o) (opScope o)
  let l1 (leaf : Leaf) : Bool := atL1 (opPolicy o) (opScope o) leaf
  let addr := laneAddr o t
  let (rs, f1) := reachLanes (lanesOf t.width sel) addr
    (fun l => s.checkAccess x.core x.ctx .load .plain n (addr l) (pageChoice (addr l)))
  match s.takeEntries x.core (State.laneReqs pt n rs) with
  | none => .stall s0
  | some s1 =>
    let s2 := ((s1.usePages x.core x.ctx rs f1).yieldFor x.core l1 false n rs).streamLines (opPolicy o) pt (rs.map Reach.place)
    let f2 := s2.poisonFaults x.core l1 n rs
    let faults := mergeFaults t.width f1 f2
    let good := rs.filter (fun r => (f2.lookup r.lane).isNone)
    let tab := good.map (fun r => (r.lane, s2.viewNat x.core (l1 r.leaf) r.key n))
    let s3 := if order = 0 then s2 else s2.acquireAt x.core (opScope o)
    endAccess faults .load (s3.setTroupe x.r
      (t.loaded o sel (maskOf (good.map (·.lane))) (loadRegs ty (o.c.extractLsb' 12 1 = 1) tab) []))

/-- The bytes that ST and STA write in a lane: the low bytes of the data register, its pair or its group. -/
def storeBytes (o : Op) (t : Troupe) (n l : Nat) : List Byte :=
  bytesOf n (joinElems 32 ((List.range ((n + 3) / 4)).map (fun j => (t.readV (o.dst.toNat + j) l).toNat)))

/-- Performs the stores of some lanes, in lane order. -/
def storeLanes (core : Nat) (l1 : Leaf → Bool) (bytes : Nat → List Byte) (s : State) (rs : List Reach) : State :=
  rs.foldl (fun s r => s.viewWrite core (l1 r.leaf) (keyed r.key (bytes r.lane))) s

/-- ST. A release at cluster scope or wider writes the core's earlier .ca stores through first. -/
def stBody (o : Op) (x : Env) (s : State) : Res :=
  let n := ldWidth o
  let t := x.t
  let pt := pointOf (opPolicy o) (opScope o)
  let l1 (leaf : Leaf) : Bool := atL1 (opPolicy o) (opScope o) leaf
  let addr := laneAddr o t
  let (rs, faults) := reachLanes (lanesOf t.width (t.selected o.guard)) addr
    (fun l => s.checkAccess x.core x.ctx .store .plain n (addr l) (pageChoice (addr l)))
  match s.takeEntries x.core (State.laneReqs pt n rs) with
  | none => .stall s
  | some s1 =>
    let s2 := if o.c.extractLsb' 10 2 = 2 then s1.releaseAt x.core (opScope o) else s1
    let s3 := ((s2.usePages x.core x.ctx rs faults).yieldFor x.core l1 true n rs).streamLines (opPolicy o) pt (rs.map Reach.place)
    endAccess faults .store ((storeLanes x.core l1 (storeBytes o t n) s3 rs).leaveHome pt n (rs.map Reach.place))

/-! ## Gathers and scatters (R249, R250) -/

/-- The index of a lane, and the no-entry index. -/
def gatherIndex (o : Op) (t : Troupe) (l : Nat) : Nat := t.operand 6 o o.b l
def noEntry : Nat := 0xFFFFFFFF

/-- The elements of a row of LDG and STG. -/
def rowCount (o : Op) : Nat := 2 ^ (o.c.extractLsb' 10 3).toNat

/-- The address of a lane's row. -/
def rowAddr (o : Op) (t : Troupe) (l : Nat) : Nat :=
  wrap 64 ((t.rawPair o.a 0).toNat + gatherIndex o t l * rowCount o * memWidth (memType o.c))

/-- PROG of LDG and STG (R250): elements of the selected lanes below the lowest lane of TMASK, those that were served before a
stop included; 0 on completion. -/
def rowProg (g : Nat) (t : Troupe) (sel : Lanes) (faults : List (Nat × MemFault)) : Word :=
  if faults.isEmpty then 0
  else BitVec.ofNat 32 (g * ((lanesOf t.width (sel ||| t.served)).filter (fun l => l < lowestLane (faultMask faults))).length)

/-- The troupe after LDG or STG of the lanes `sel`: PROG, and the lanes that are complete where some fault (R105, R250). -/
def Troupe.rowStop (g : Nat) (t : Troupe) (sel : Lanes) (faults : List (Nat × MemFault)) : Troupe :=
  { t with prog := rowProg g t sel faults, served := t.served ||| (sel &&& ~~~faultMask faults) }

/-- The registers of an LDG group: element `j` of a lane's row, extended. -/
def rowRegs (ty g : Nat) (tab : List (Nat × Nat)) : List (Nat → Word) :=
  let w := typeBits ty
  (List.range g).flatMap (fun j =>
    if type64 ty then
      [fun l => BitVec.ofNat 32 (elemOf 64 (laneVal tab l) j), fun l => BitVec.ofNat 32 (elemOf 64 (laneVal tab l) j / 2 ^ 32)]
    else [fun l => BitVec.ofNat 32 (extendElem ty (elemOf w (laneVal tab l) j))])

def ldgBody (o : Op) (x : Env) (s : State) : Res :=
  let ty := memType o.c
  let g := rowCount o
  let n := g * memWidth ty
  let t := x.t
  let sel := t.selected o.guard
  let pt := pointOf (opPolicy o) (opScope o)
  let l1 (leaf : Leaf) : Bool := atL1 (opPolicy o) (opScope o) leaf
  let addr := rowAddr o t
  let lanes := lanesOf t.width sel
  let (rs, f1) := reachLanes (lanes.filter (fun l => gatherIndex o t l ≠ noEntry)) addr
    (fun l => s.checkAccess x.core x.ctx .load .plain n (addr l) (pageChoice (addr l)))
  match s.takeEntries x.core (State.laneReqs pt n rs) with
  | none => .stall s
  | some s1 =>
    let s2 := ((s1.usePages x.core x.ctx rs f1).yieldFor x.core l1 false n rs).streamLines (opPolicy o) pt (rs.map Reach.place)
    let f2 := s2.poisonFaults x.core l1 n rs
    let faults := mergeFaults t.width f1 f2
    let good := rs.filter (fun r => (f2.lookup r.lane).isNone)
    let tab := good.map (fun r => (r.lane, s2.viewUnits x.core (l1 r.leaf) (memWidth ty) r.key n))
    let t1 := t.loaded o sel (sel &&& ~~~faultMask faults) (rowRegs ty g tab) []
    endAccess faults .load (s2.setTroupe x.r (t1.rowStop g sel faults))

/-- The bytes of a row that STG writes. -/
def rowBytes (o : Op) (t : Troupe) (l : Nat) : List Byte :=
  let ty := memType o.c
  let regs := if type64 ty then 2 else 1
  (List.range (rowCount o)).flatMap (fun j =>
    bytesOf (memWidth ty) (joinElems 32 ((List.range regs).map (fun i => (t.readV (o.dst.toNat + j * regs + i) l).toNat))))

def stgBody (o : Op) (x : Env) (s : State) : Res :=
  let g := rowCount o
  let n := g * memWidth (memType o.c)
  let t := x.t
  let sel := t.selected o.guard
  let pt := pointOf (opPolicy o) (opScope o)
  let l1 (leaf : Leaf) : Bool := atL1 (opPolicy o) (opScope o) leaf
  let addr := rowAddr o t
  let (rs, faults) := reachLanes ((lanesOf t.width sel).filter (fun l => gatherIndex o t l ≠ noEntry)) addr
    (fun l => s.checkAccess x.core x.ctx .store .plain n (addr l) (pageChoice (addr l)))
  match s.takeEntries x.core (State.laneReqs pt n rs) with
  | none => .stall s
  | some s1 =>
    let s2 := ((s1.usePages x.core x.ctx rs faults).yieldFor x.core l1 true n rs).streamLines (opPolicy o) pt (rs.map Reach.place)
    let s3 := (storeLanes x.core l1 (rowBytes o t) s2 rs).leaveHome pt n (rs.map Reach.place)
    endAccess faults .store (s3.setTroupe x.r (t.rowStop g sel faults))

/-! ## Block accesses (R248) -/

/-- The element format of a block access. -/
def blockType (o : Op) : Nat := if fnType o.c = 0 then 12 else fnType o.c

/-- Bytes per lane of a block of a format (R248). -/
def laneBytes (ty : Nat) : Nat := if ty = 14 || ty = 15 then 3 else 4

/-- Codes unpacked from memory bytes into a register: FP6 codes take a byte each (02 R45). -/
def unpackCodes (ty x : Nat) : Nat := if ty = 14 || ty = 15 then joinElems 8 (elemsOf 6 4 x) else x

/-- A register's codes as they are packed in memory (02 R44). -/
def packCodes (ty x : Nat) : Nat := if ty = 14 || ty = 15 then joinElems 6 (elemsOf 8 4 x) else x

/-- A block with a selected lane, as a block access finds it: its number, its selected lanes, and the lead's address. -/
structure BlockReq where
  block : Nat
  lanes : List Nat
  va    : Nat
  deriving DecidableEq, Repr

/-- The blocks of a block access (R248). -/
def blockReqs (o : Op) (t : Troupe) (sel : Lanes) : List BlockReq :=
  let epl := eplOf (blockType o)
  (blocksWith t epl sel).map (fun b =>
    let ls := (lanesInBlock t.width epl b).filter (hasLane sel)
    ⟨b, ls, laneAddr o t (ls.headD 0)⟩)

/-- A block that has reached memory: its slot in the line and its keys. -/
structure BlockAt where
  req  : BlockReq
  slot : Nat
  leaf : Leaf
  key  : Nat
  deriving DecidableEq, Repr

/-- The checks of a block access: the lead's block boundary, translation and format (R205, R209, R248). -/
def reachBlock (o : Op) (acc : Access) (x : Env) (s : State) (q : BlockReq) : Except MemFault BlockAt :=
  let T := fmtOf (blockType o)
  let off := q.va % 256
  if off % T.blockBytes ≠ 0 || lineBlocks T ≤ off / T.blockBytes then .error ⟨causeMisaligned, 0, q.va, false⟩
  else match s.checkAccess x.core x.ctx acc (.typed T.pageFmt) 1 q.va (pageChoice q.va) with
    | .error f => .error f
    | .ok (leaf, k) => .ok ⟨q, off / T.blockBytes, leaf, k⟩

/-- The blocks that reach memory, and the faults of the lanes of the others. -/
def reachBlocks (o : Op) (acc : Access) (x : Env) (s : State) (qs : List BlockReq) :
    List BlockAt × List (Nat × MemFault) :=
  qs.foldr (fun q r =>
    match reachBlock o acc x s q with
    | .ok b => (b :: r.1, r.2)
    | .error f => (r.1, q.lanes.map (fun l => (l, f)) ++ r.2)) ([], [])

/-- The key of a lane's codes within its block. -/
def BlockAt.laneKey (b : BlockAt) (ty l : Nat) : Nat := b.key + (l - b.req.block * blockLanes (eplOf ty)) * laneBytes ty

/-- Whether a block access is performed in the core's L1 (R206, R207, R246). -/
def blockL1 (o : Op) (b : BlockAt) : Bool := atL1 (opPolicy o) (opScope o) b.leaf

/-- The requests of block accesses. -/
def blockKeys (o : Op) (bs : List BlockAt) : List (Point × Nat × Nat) :=
  bs.map (fun b => (pointOf (opPolicy o) (opScope o) b.leaf, b.key, (fmtOf (blockType o)).blockBytes))

/-- The leaf and the key of a block that has reached memory. -/
def BlockAt.place (b : BlockAt) : Leaf × Nat := (b.leaf, b.key)

/-- Before block accesses performed at L2 or beyond, the lines that they touch are written through, and leave the core's L1
before a store (R206). -/
def yieldBlocks (o : Op) (drop : Bool) (core : Nat) (bs : List BlockAt) (s : State) : State :=
  let ks := (bs.filter (fun b => !blockL1 o b)).map (·.key)
  let s1 := if ks.isEmpty then s else if drop then s.yieldLines core ks else s.sendLines core ks
  s1.streamLines (opPolicy o) (pointOf (opPolicy o) (opScope o)) (bs.map (·.place))

/-- The poison that a lane of a block meets: its own codes, or the sideband (R212, R248). The address is the lead's, the only one
that is used, for each of its lanes (log entry 88). -/
def blockPoison (o : Op) (codes : Bool) (core : Nat) (s : State) (b : BlockAt) : List (Nat × MemFault) :=
  let ty := blockType o
  let l1 := blockL1 o b
  b.req.lanes.filterMap (fun l =>
    let off := b.laneKey ty l - b.key
    if (codes && s.poisonAny core l1 (b.key + off) (laneBytes ty)) || (!codes && s.scalePoison b.key (fmtOf ty).blockBytes
        && s.poisonAny core l1 b.key (fmtOf ty).blockBytes) then
      some (l, ⟨causePoison, 0, b.req.va, false⟩)
    else none)

/-- A block as a load of a core sees it, one unit with its sideband byte (R210, R265): its bytes as a number, and the sideband
byte. A block that crosses into a second sector may have come to L1 in two fills, so its copy there does not stand (log entry
12). -/
def State.viewBlock (s : State) (core : Nat) (l1 : Bool) (T : Fmt) (b : BlockAt) : Nat × Byte :=
  if l1 then
    let ks := (List.range T.blockBytes).map (fun i => b.key + i)
    let side := State.l1SideKey b.key b.slot
    let copy := b.key / 64 = (b.key + T.blockBytes - 1) / 64 && s.copyStands core (ks ++ [side]) (byteChoice b.key)
    (ofBytes (ks.map (fun k => State.pickL1 copy (s.l1Byte core k) (s.rdByte k))),
      State.pickL1 copy (s.l1Byte core side) (s.rdSide b.key b.slot))
  else (s.rdNat b.key T.blockBytes, s.rdSide b.key b.slot)

/-- The codes of a lane within the bytes of its block. -/
def blockCode (ty x : Nat) (b : BlockAt) (l : Nat) : Nat :=
  unpackCodes ty (x / 2 ^ (8 * (b.laneKey ty l - b.key)) % 2 ^ (8 * laneBytes ty))

/-- LDB and LDSC: `codes` says that the elements are read too. The tag byte of a block with a faulting lane is not written
(R100). -/
def loadBlocks (o : Op) (codes : Bool) (x : Env) (s : State) : Res :=
  let ty := blockType o
  let T := fmtOf ty
  let t := x.t
  let sel := t.selected o.guard
  let (bs, f1) := reachBlocks o .load x s (blockReqs o t sel)
  match s.takeEntries x.core (blockKeys o bs) with
  | none => .stall s
  | some s1 =>
    let s2 := yieldBlocks o false x.core bs (s1.usePages x.core x.ctx (bs.map (fun b => ⟨0, b.req.va, b.leaf, b.key⟩)) f1)
    let f2 := bs.flatMap (blockPoison o codes x.core s2)
    let faults := mergeFaults t.width f1 f2
    let ok := sel &&& ~~~faultMask faults
    let seen := bs.map (fun b => (b, s2.viewBlock x.core (blockL1 o b) T b))
    let tab := seen.flatMap (fun p => p.1.req.lanes.map (fun l => (l, blockCode ty p.2.1 p.1 l)))
    let reg (l : Nat) : Word := if codes then BitVec.ofNat 32 (laneVal tab l) else t.readV o.dst.toNat l
    let tags := (seen.filter (fun p => p.1.req.lanes.all (hasLane ok))).map (fun p => (p.1.req.block, p.2.2))
    endAccess faults .load (s2.setTroupe x.r (t.loaded o sel ok [reg] tags))

/-- The cells that STB writes for a block. -/
def blockCells (o : Op) (t : Troupe) (b : BlockAt) : List Host.Cell :=
  let ty := blockType o
  b.req.lanes.flatMap (fun l =>
    keyed (b.laneKey ty l) (bytesOf (laneBytes ty) (packCodes ty (t.readV o.dst.toNat l).toNat)))

/-- Performs the store of a block with its sideband byte: in L1 as dirty bytes with the padding and the unused sideband
bytes, or beyond it (R206, R210, R211). -/
def State.putBlock (s : State) (core : Nat) (l1 : Bool) (T : Fmt) (b : BlockAt) (ws : List Host.Cell) (scale : Byte) : State :=
  if l1 then
    let line := b.key / 256 * 256
    let pad := if lineBlocks T = 10 then (List.range 16).map (fun i => (line + 240 + i, (0 : Byte))) else []
    let unused := ((List.range 16).filter (fun i => lineBlocks T ≤ i)).map (fun i => (State.l1SideKey line i, (0 : Byte)))
    s.wrL1 core (ws ++ pad ++ unused ++ [(State.l1SideKey b.key b.slot, scale)])
  else s.wrBlock T b.key b.slot ws scale

/-- STB. -/
def stbBody (o : Op) (x : Env) (s : State) : Res :=
  let T := fmtOf (blockType o)
  let t := x.t
  let (bs, faults) := reachBlocks o .store x s (blockReqs o t (t.selected o.guard))
  match s.takeEntries x.core (blockKeys o bs) with
  | none => .stall s
  | some s1 =>
    let s2 := yieldBlocks o true x.core bs (s1.usePages x.core x.ctx (bs.map (fun b => ⟨0, b.req.va, b.leaf, b.key⟩)) faults)
    endAccess faults .store ((bs.foldl (fun s b =>
      s.putBlock x.core (blockL1 o b) T b (blockCells o t b) (t.readTag o.dst.toNat b.req.block)) s2).leaveHome
        (pointOf (opPolicy o) (opScope o)) T.blockBytes (bs.map (·.place)))

/-! ## Atomics (10 R236; 11 R251, R252) -/

/-- The new value of an atomic operation. -/
def atomNew (op ty old b prior : Nat) : Nat :=
  match op with
  | 0 => if ty = 11 then addF .fp32 Rnd.rne old b else (old + b) % 2 ^ typeBits ty
  | 1 => if ty = 11 then minF .fp32 old b else minElem ty old b
  | 2 => if ty = 11 then maxF .fp32 old b else maxElem ty old b
  | 3 => old &&& b
  | 4 => old ||| b
  | 5 => old ^^^ b
  | 6 => b
  | _ => if old = prior then b else old

/-- The operation of an atomic's function field. -/
def atomOpOf (o : Op) : Nat := (o.c.extractLsb' 10 3).toNat

/-- The operand b of an atomic in a lane. -/
def atomOperand (o : Op) (t : Troupe) (l : Nat) : Nat := t.operand (atomType o.c) o o.b l

/-- The prior value of dst, for .cas. -/
def atomPrior (o : Op) (t : Troupe) (l : Nat) : Nat :=
  if type64 (atomType o.c) then (t.readVPair o.dst.toNat l).toNat else (t.readV o.dst.toNat l).toNat

/-- The output range of a collective binding (15 R353): its base and its bytes. -/
def outBase (entry : List Byte) : Nat := recBits entry 184 128
def outBytes (entry : List Byte) : Nat := 4096 * recBits entry 204 192

/-- Whether `n` bytes at an address lie in an output range of the launch. -/
def inOutputs (la : Launch) (va n : Nat) : Bool :=
  la.bindings.any (fun b => outBase b.entry ≤ va && va + n ≤ outBase b.entry + outBytes b.entry)

/-- Whether DET_ATOMIC stops an ATOM or RED (R252). -/
def detAtomic (o : Op) (x : Env) : Bool :=
  let t := x.t
  let sel := lanesOf t.width (t.selected o.guard)
  x.det && !sel.isEmpty &&
    ((atomOpOf o = 0 && atomType o.c = 11)
      || (wideScope (opScope o)
        && !sel.all (fun l => inOutputs x.la (t.rawPair o.a l).toNat (memWidth (atomType o.c)))))

/-- The checks of an atomic's address; host memory gives ACCESS_FAULT reason 8 (R208). -/
def reachAtomic (n : Nat) (x : Env) (s : State) (va : Nat) : Except MemFault (Leaf × Nat) :=
  match s.checkAccess x.core x.ctx .atomic .any n va (pageChoice va) with
  | .error f => .error f
  | .ok (leaf, k) =>
    if leaf.home = 2 then .error ⟨causeAccessFault, 8, va, false⟩
    else if leaf.fmt ≠ 0 then .error ⟨causeTypeMismatch, 1, va, false⟩
    else .ok (leaf, k)

/-- The read-modify-writes of some lanes in lane order: the state after them and the old values. -/
def atomLanes (o : Op) (core : Nat) (t : Troupe) (l1 : Leaf → Bool) (s : State) (rs : List Reach) :
    State × List (Nat × Nat) :=
  let ty := atomType o.c
  let n := memWidth ty
  rs.foldl (fun acc r =>
    let old := acc.1.viewNat core (l1 r.leaf) r.key n
    let new := atomNew (atomOpOf o) ty old (atomOperand o t r.lane) (atomPrior o t r.lane)
    (acc.1.viewWrite core (l1 r.leaf) (keyed r.key (bytesOf n new)), acc.2 ++ [(r.lane, old)])) (s, [])

/-- ATOM and RED: `order` 1 acquire, 2 release, 3 both (R245); `dst` says that the old value is written. -/
def atomBody (dst : Bool) (o : Op) (x : Env) (s : State) : Res :=
  let ty := atomType o.c
  let n := memWidth ty
  let order := fnPolicy o.c
  let t := x.t
  let sel := t.selected o.guard
  if detAtomic o x then .trap s (trapAt causeDetAtomic 0 sel)
  else
    let pt := pointOf 0 (opScope o)
    let l1 (leaf : Leaf) : Bool := atL1 0 (opScope o) leaf
    let addr (l : Nat) : Nat := (t.rawPair o.a l).toNat
    let (rs, f1) := reachLanes (lanesOf t.width sel) addr (fun l => reachAtomic n x s (addr l))
    match s.takeEntries x.core (State.laneReqs pt n rs) with
    | none => .stall s
    | some s1 =>
      let s2 := if 2 ≤ order then s1.releaseAt x.core (opScope o) else s1
      let s3 := (s2.usePages x.core x.ctx rs f1).yieldFor x.core l1 true n rs
      let f2 := s3.poisonFaults x.core l1 n rs
      let faults := mergeFaults t.width f1 f2
      let good := rs.filter (fun r => (f2.lookup r.lane).isNone)
      let (s4, olds) := atomLanes o x.core t l1 s3 good
      let s4 := s4.leaveHome pt n (good.map Reach.place)
      let s5 := if order % 2 = 1 then s4.acquireAt x.core (opScope o) else s4
      let s6 := if dst then
          s5.setTroupe x.r (t.loaded o sel (maskOf (good.map (·.lane))) (loadRegs ty false olds) [])
        else s5
      endAccess faults .atomic s6

/-! ## Fences, prefetch and cache control (R253 to R255) -/

/-- FENCE (R253, R260). -/
def fenceBody (o : Op) (x : Env) (s : State) : Res :=
  let s1 := if o.c.extractLsb' 10 3 = 3 then s.flushAll else s
  .done (s1.acquireAt x.core (opScope o))

/-- The lanes of PREF or CCTL whose addresses translate, and the others, which do nothing. -/
def softReach (o : Op) (x : Env) (s : State) : List Reach × List (Nat × MemFault) :=
  let addr := laneAddr o x.t
  reachLanes (lanesOf x.t.width (x.t.selected o.guard)) addr
    (fun l => s.checkAccess x.core x.ctx .load .any 1 (addr l) (pageChoice (addr l)))

/-- The sectors of the line of a key, as requests. -/
def lineReqs (p : Point) (k : Nat) : List (Point × Nat × Nat) := (List.range 4).map (fun i => (p, k / 256 * 256 + 64 * i, 64))

/-- PREF (R254): each lane's line, dropped where no entry is free; there is no cache to fetch a line of host memory into (R208). -/
def prefBody (o : Op) (x : Env) (s : State) : Res :=
  let (rs, none_) := softReach o x s
  let pt := pointOf (opPolicy o) 0
  .done (((rs.filter (fun r => r.leaf.home ≠ 2)).foldl (fun s r => (s.takeEntries x.core (lineReqs (pt r.leaf) r.key)).getD s)
    (s.usePages x.core x.ctx rs none_)).streamLines (opPolicy o) pt (rs.map Reach.place))

/-! ## Work under old translations (09 R220) -/

/-- Whether translations taken earlier differ from what the table gives now. -/
def State.stale (s : State) (ctx : Nat) (ps : Pages) : Bool := ps.any (fun p => s.walk (s.ctxL1 ctx) p.1 ≠ .leaf p.2)

/-- The act-stream instructions of a block that have not been performed. -/
def engineWork (b : Block) : List MInsn :=
  b.pend.flatMap (·.list) ++ b.acts.flatMap (fun a => a.members.flatMap (·.list) ++ a.queue.flatMap (·.insns))

/-- Whether a copy that `sel` names, or engine work of a block on a core that `on` names, is still to access pages under a
translation that the table no longer gives. -/
def State.staleWork (s : State) (sel : CopyReq → Bool) (ctxs : Nat → Bool) (on : Nat → Bool) : Bool :=
  s.copies.any (fun q => sel q && s.stale q.ctx q.pages)
    || s.clusters.any (fun e => match s.launch? e.2.launch with
      | some la => ctxs la.ctx && e.2.blocks.any (fun b => on b.core && (engineWork b).any (fun i => s.stale la.ctx i.pages))
      | none => false)

/-- CCTL (R255). An invalidation of translations waits for the core's copies and engine work under old ones (R220). -/
def cctlBody (o : Op) (x : Env) (s : State) : Res :=
  let (rs, none_) := softReach o x s
  let keys := rs.map (fun r => r.key / 256)
  let line (c k : Nat) : Bool := c = x.core && keys.contains (k / 256)
  let s1 := s.usePages x.core x.ctx rs none_
  match (o.c.extractLsb' 10 3).toNat with
  | 0 => .done (s.flushCore x.core)
  | 1 => .done (s.flushInvalCore x.core)
  | 2 => .done (s1.writeThrough line)
  | 3 => .done ((s1.writeThrough line).invalidateL1 line)
  | _ =>
    if s.staleWork (fun q => q.core = x.core) (fun _ => true) (fun c => c = x.core) then .retry s
    else .done { s with tlb := s.tlb.filter (fun e => e.core ≠ x.core) }

/-! ## Meanings -/

def execLd (o : Op) (s : State) : Host.Outcome State Fault Refusal := issueOp 0x120 (.ld o) o (ldBody o) s
def execSt (o : Op) (s : State) : Host.Outcome State Fault Refusal := issueOp 0x121 (.st o) o (stBody o) s
def execLdb (o : Op) (s : State) : Host.Outcome State Fault Refusal := issueOp 0x122 (.ldb o) o (loadBlocks o true) s
def execStb (o : Op) (s : State) : Host.Outcome State Fault Refusal := issueOp 0x123 (.stb o) o (stbBody o) s
def execLdsc (o : Op) (s : State) : Host.Outcome State Fault Refusal := issueOp 0x124 (.ldsc o) o (loadBlocks o false) s
def execLdg (o : Op) (s : State) : Host.Outcome State Fault Refusal := issueOp 0x125 (.ldg o) o (ldgBody o) s
def execStg (o : Op) (s : State) : Host.Outcome State Fault Refusal := issueOp 0x126 (.stg o) o (stgBody o) s
def execAtom (o : Op) (s : State) : Host.Outcome State Fault Refusal := issueOp 0x127 (.atom o) o (atomBody true o) s
def execRed (o : Op) (s : State) : Host.Outcome State Fault Refusal := issueOp 0x128 (.red o) o (atomBody false o) s
def execFence (o : Op) (s : State) : Host.Outcome State Fault Refusal := issueOp 0x129 (.fence o) o (fenceBody o) s
def execPref (o : Op) (s : State) : Host.Outcome State Fault Refusal := issueOp 0x12A (.pref o) o (prefBody o) s
def execCctl (o : Op) (s : State) : Host.Outcome State Fault Refusal := issueOp 0x12B (.cctl o) o (cctlBody o) s

end Sys2Proof.Machine
end

