-- ==== Sys2Proof/Machine/Arena.lean ====
section
/-! DEFINITION. The arena class 0xA (10 R221 to R243): regions, planes and their marks, loads, stores, block accesses,
atomics, RGQ and the arrival of TURN. The swap of a turn is an event of its own (Machine/Engine.lean). -/

namespace Sys2Proof.Machine

/-! ## Region descriptors (R224) -/

def rgnV (d : DWord) : Bool := d.getLsbD 0
def rgnPlanar (d : DWord) : Bool := d.getLsbD 1
def rgnType (d : DWord) : Nat := (d.extractLsb' 2 3).toNat
def rgnRule (d : DWord) : Nat := (d.extractLsb' 5 2).toNat
def rgnInit (d : DWord) : Nat := (d.extractLsb' 7 2).toNat
def rgnPs (d : DWord) : Bool := d.getLsbD 9
/-- The start of the region in the allocation, and the size of one plane, in bytes. -/
def rgnBase (d : DWord) : Nat := 8 * (d.extractLsb' 16 20).toNat
def rgnSize (d : DWord) : Nat := 8 * (d.extractLsb' 36 20).toNat
/-- The bytes of a region's word. -/
def rgnWord (d : DWord) : Nat := if rgnType d = 2 then 8 else 4

/-- Where the present plane and the next plane start in the allocation (R229). -/
def presentAt (d : DWord) : Nat := rgnBase d + (if rgnPlanar d && rgnPs d then rgnSize d else 0)
def nextAt (d : DWord) : Nat := rgnBase d + (if rgnPlanar d && !rgnPs d then rgnSize d else 0)

/-- Descriptor `r` of a block. -/
def Block.region (b : Block) (r : Nat) : DWord := (b.rgn[r]?).getD 0

/-! ## Bytes of the allocation -/

namespace Block

def rdArena (b : Block) (a : Nat) : Byte := sget 0 b.arena a
/-- `n` bytes of the allocation as a number. -/
def arenaNat (b : Block) (a n : Nat) : Nat := ofBytes (sgets 0 b.arena a n)

/-- Whether one of `n` bytes lies in a poisoned word (R223). -/
def arenaPoison (b : Block) (a n : Nat) : Bool :=
  (List.range ((n + 7) / 8 + 1)).any (fun i => a / 8 + i ≤ (a + n - 1) / 8 && sget false b.apoison (a / 8 + i))

/-- The stamps of the 4-byte pieces that a write of `n` bytes touches, newest first (R267). -/
def stampWords (b : Block) (a n seq : Nat) (who : ArenaWriter) : List (Nat × List Stamp) :=
  (List.range ((a + n - 1) / 4 + 1 - a / 4)).map (fun i =>
    let w := a / 4 + i
    (w, ⟨seq, who, BitVec.ofNat 32 (b.arenaNat (4 * w) 4)⟩ :: sget [] b.stamps w))

/-- Writes bytes into the allocation: a write of all 8 bytes of a word clears its poison (R223), whoever makes it, and each
lane's write by itself (log entry 88). In a block with tiles it is stamped for the operand reads of steps, and leaves the tile
of a pending step that has read the bytes undefined (12 R282). -/
def wrArena (b : Block) (a : Nat) (bytes : List Byte) (seq : Nat) (who : ArenaWriter) : Block :=
  let n := bytes.length
  if n = 0 then b
  else
    let whole := ((List.range (n / 8 + 1)).map (fun i => a / 8 + i)).filter (fun w => a ≤ 8 * w && 8 * w + 8 ≤ a + n)
    { b.spoil (b.touched ⟨seq, who, 0⟩ (fun p k => a < p + k && p < a + n)) with
      arena := ssets 0 b.arena (keyed a bytes)
      apoison := whole.foldl (fun p w => sset false p w false) b.apoison
      stamps := if b.tileCount = 0 then b.stamps else ssets [] b.stamps (b.stampWords a n seq who) }

/-- Poisons the words of `n` bytes at `a`. -/
def poisonArena (b : Block) (a n : Nat) : Block :=
  { b with apoison := (List.range ((a + n - 1) / 8 + 1 - a / 8)).foldl (fun p i => sset false p (a / 8 + i) true) b.apoison }

end Block

/-! ## Writes to a next plane (R230 to R232) -/

/-- Who writes a word: a lane of a troupe, or an asynchronous writer (R231), which for a copy is one more than its number
with the number of the destination element (13 R318), and 0 for ACCST. -/
inductive Writer where
  | lane (troupe lane : Nat)
  | engine (copy elem : Nat)
  deriving DecidableEq, Repr

/-- The key of a writer (R231): 0 for an asynchronous one. -/
def Writer.key : Writer → Nat
  | .lane t l => 1 + t * 128 + l
  | .engine _ _ => 0

/-- The copy of a writer, and its element. -/
def Writer.copy : Writer → Nat
  | .engine c _ => c
  | .lane _ _ => 0
def Writer.elem : Writer → Nat
  | .engine _ e => e
  | .lane _ _ => 0

/-- The written set after a writer has joined it. -/
def Mark.join (m : Mark) (w : Writer) : Mark :=
  match w with
  | .lane t _ => { m with troupes := m.troupes ||| BitVec.ofNat 64 (2 ^ t) }
  | .engine _ _ => { m with async := true }

/-- The PRIORITY outcome of a later write: whether it replaces the word (R231); of two elements of one copy the
higher-numbered one's value stays (13 R318). -/
def winsOver (m : Mark) (w : Writer) (old new : Nat) : Bool :=
  if w.key ≠ m.key then m.key < w.key
  else if w.key = 0 then (if w.copy ≠ 0 && w.copy = m.copy then m.elem ≤ w.elem else old < new)
  else true

/-- The marks after a write whose value stands. -/
def Mark.stand (m : Mark) (w : Writer) : Mark := { m with key := w.key, copy := w.copy, elem := w.elem }

/-- The SUM of a word and a value (R231). -/
def sumWord (ty old new : Nat) : Nat :=
  match ty with
  | 1 => (old + new) % 2 ^ 32
  | 2 => (old + new) % 2 ^ 64
  | 3 => addF .fp32 Rnd.rne old new
  | 4 => joinElems 16 [addF .bf16 Rnd.rne (elemOf 16 old 0) (elemOf 16 new 0), addF .bf16 Rnd.rne (elemOf 16 old 1) (elemOf 16 new 1)]
  | _ => new

/-- Writes one word of a next plane at allocation offset `a` (R231, R232); none for PLANE_COLLISION reason 1. A value that
loses changes nothing of the word, a sum with a poisoned word stays poisoned (R223), and a value that derives from poison,
`bad`, poisons the word that takes it (13 R323). -/
def planarWrite (b : Block) (d : DWord) (a value seq : Nat) (w : Writer) (who : ArenaWriter) (bad : Bool) : Option Block :=
  let n := rgnWord d
  let old := b.arenaNat a n
  let keep (b : Block) (m : Mark) : Block := { b with marks := sset none b.marks a (some m) }
  let mark (b : Block) (m : Mark) : Block := keep (if bad then b.poisonArena a n else b) m
  let put (b : Block) (v : Nat) : Block := b.wrArena a (bytesOf n v) seq who
  match sget none b.marks a with
  | none => some (mark (put b value) ((Mark.stand ⟨0, 0, 0, 0, false, false⟩ w).join w))
  | some m =>
    let win := winsOver m w old value
    let m1 := if win then m.stand w else m
    if rgnRule d = 1 then
      some (mark { put b (sumWord (rgnType d) old value) with apoison := b.apoison } (m1.join w))
    else
      let inSet := match w with
        | .lane t _ => m.troupes.getLsbD t
        | .engine _ _ => false
      if rgnRule d = 2 && inSet then none
      else
        let m2 := { m1 with collided := m.collided || rgnRule d = 2 }.join w
        some (if win then mark (put b value) m2 else keep b m2)

/-! ## Arena faults (R228) -/

/-- A fault of a lane: its place in the order of R228, the cause, the reason and the offset. -/
structure ArenaFault where
  rank   : Nat
  cause  : Nat
  reason : Nat
  off    : Nat
  deriving DecidableEq, Repr

/-- Checks 1 to 3 of R228 for `n` bytes at offset `o`; `al` is the alignment. -/
def arenaBounds (d : DWord) (al n o : Nat) : Option ArenaFault :=
  if !rgnV d then some ⟨1, causeArenaBound, 1, o⟩
  else if o % al ≠ 0 then some ⟨2, causeMisaligned, 0, o⟩
  else if rgnSize d < o + n then some ⟨3, causeArenaBound, 2, o⟩
  else none

/-- The fault that an instruction reports (R228): the first in order, at its lowest lane. -/
def firstArena : List (Nat × ArenaFault) → Option ArenaFault
  | [] => none
  | (_, f) :: rest =>
    match firstArena rest with
    | none => some f
    | some g => if g.rank < f.rank then some g else some f

/-- The trap of an arena fault in region `r`. -/
def arenaTrap (f : ArenaFault) (r : Nat) (mask : Lanes) : TrapX :=
  trapReason f.cause f.reason (f.off % 2 ^ 32 + r * 2 ^ 32) mask

/-- How an arena instruction ends whose completed lanes have taken effect. -/
def endArena (fs : List (Nat × ArenaFault)) (r : Nat) (s : State) : Res :=
  match firstArena fs with
  | none => .done s
  | some f => .trap s (arenaTrap f r (maskOf (fs.map (·.1))))

/-- The first check that fails. -/
def orFault (a : Option ArenaFault) (b : Unit → Option ArenaFault) : Option ArenaFault :=
  match a with
  | some f => some f
  | none => b ()

/-- Sorts the lanes of an arena instruction: those without a fault, and the faults. -/
def arenaLanes (ls : List Nat) (f : Nat → Option ArenaFault) : List Nat × List (Nat × ArenaFault) :=
  (ls.filter (fun l => (f l).isNone), ls.filterMap (fun l => (f l).map (fun e => (l, e))))

/-- The extra clocks of bank conflicts (R222; 16 R375): over the words of accesses of `n` bytes at the allocation offsets
`as`, and of the scale bytes at `scales`. -/
def bankExtra (n : Nat) (as : List Nat) (scales : List Nat) : Nat :=
  let words := uniq (as.flatMap (fun a => [a / 8, (a + n - 1) / 8]) ++ scales.map (fun a => a / 8))
  ((List.range 64).foldl (fun m k => max m (words.filter (fun w => w % 64 = k)).length) 0) - 1

/-- The region that a class 0xA op names. -/
def opRegion (o : Op) : Nat := (o.c.extractLsb' 0 4).toNat

/-- An immediate in src B of LDA and STA is sign-extended (R233). -/
def ldaAddr (o : Op) (t : Troupe) (l : Nat) : Nat :=
  (t.operand 6 o o.a l + (if o.b.isImm then t.operand 5 o o.b l else t.operand 6 o o.b l)) % 2 ^ 32

namespace State

/-- The place of the next store or matrix instruction in the order of issue. -/
def nextSeq (s : State) : Nat := s.seq + 1

/-- Counts a store in the order of issue. -/
def bumpSeq (s : State) : State := { s with seq := s.seq + 1 }

/-- A troupe has issued an arena store, which its next MFENCE waits for (12 R296). -/
def owesFence (s : State) (r : TRef) : State := s.modTroupe r (fun t => { t with arenaBusy := true })

end State

/-! ## LDA and STA (R234) -/

def ldaBody (o : Op) (x : Env) (s : State) : Res :=
  let ty := memType o.c
  let n := memWidth ty
  let t := x.t
  let sel := t.selected o.guard
  let r := opRegion o
  let d := x.b.region r
  let off := ldaAddr o t
  let (good, faults) := arenaLanes (lanesOf t.width sel) (fun l =>
    orFault (arenaBounds d n n (off l)) (fun _ =>
      if x.b.arenaPoison (presentAt d + off l) n then some ⟨5, causePoison, 0, off l⟩ else none))
  let tab := good.map (fun l => (l, x.b.arenaNat (presentAt d + off l) n))
  let s1 := s.bumpCore x.core 0x16 (bankExtra n (good.map (fun l => presentAt d + off l)) [])
  endArena faults r (s1.setTroupe x.r (t.loaded o sel (maskOf good) (loadRegs ty false tab) []))

/-- The checks of a store of `n` bytes before the word is written (R228, R230). -/
def staCheck (d : DWord) (n o : Nat) : Option ArenaFault :=
  orFault (arenaBounds d n n o) (fun _ =>
    if rgnPlanar d && n ≠ rgnWord d then some ⟨4, causeTypeMismatch, 4, o⟩ else none)

/-- Stores the lanes of STA in lane order; collisions join the faults (R232). -/
def staLanes (d : DWord) (seq troupe : Nat) (off : Nat → Nat) (bytes : Nat → List Byte) :
    List Nat → Block → Block × List (Nat × ArenaFault)
  | [], b => (b, [])
  | l :: ls, b =>
    if rgnPlanar d then
      match planarWrite b d (nextAt d + off l) (ofBytes (bytes l)) seq (.lane troupe l) (.store troupe) false with
      | some b1 => staLanes d seq troupe off bytes ls b1
      | none =>
        let r := staLanes d seq troupe off bytes ls b
        (r.1, (l, ⟨6, causePlaneCollision, 1, off l⟩) :: r.2)
    else staLanes d seq troupe off bytes ls (b.wrArena (nextAt d + off l) (bytes l) seq (.store troupe))

/-- Arena faults of two checks, in lane order. -/
def mergeArena (w : Nat) (a b : List (Nat × ArenaFault)) : List (Nat × ArenaFault) :=
  (List.range w).filterMap (fun l => ((a ++ b).lookup l).map (fun f => (l, f)))

def staBody (o : Op) (x : Env) (s : State) : Res :=
  let n := memWidth (memType o.c)
  let t := x.t
  let r := opRegion o
  let d := x.b.region r
  let off := ldaAddr o t
  let (good, f1) := arenaLanes (lanesOf t.width (t.selected o.guard)) (fun l => staCheck d n (off l))
  let (b1, f2) := staLanes d s.nextSeq x.r.troupe off (storeBytes o t n) good x.b
  let s1 := s.bumpSeq.bumpCore x.core 0x16 (bankExtra n (good.map (fun l => nextAt d + off l)) [])
  endArena (mergeArena t.width f1 f2) r ((s1.setBlock x.r.cluster x.r.block b1).owesFence x.r)

/-! ## LDAB and STAB (R235) -/

/-- The alignment of a block's elements in the arena (R228). -/
def elemAlign (ty : Nat) : Nat := if ty = 14 || ty = 15 then 3 else 4

/-- A block of an arena block access: its number, its selected lanes, its scale offset. -/
structure ArenaBlock where
  block : Nat
  lanes : List Nat
  scale : Nat
  deriving DecidableEq, Repr

/-- The blocks of LDAB or STAB. -/
def arenaBlocks (o : Op) (t : Troupe) (sel : Lanes) : List ArenaBlock :=
  let epl := eplOf (blockType o)
  (blocksWith t epl sel).map (fun b =>
    let ls := (lanesInBlock t.width epl b).filter (hasLane sel)
    ⟨b, ls, t.operand 6 o o.b (ls.headD 0)⟩)

/-- The checks of a block access in a lane: its elements, and the scale byte of its block's lead. -/
def arenaBlockCheck (o : Op) (store : Bool) (x : Env) (d : DWord) (bs : List ArenaBlock) (l : Nat) : Option ArenaFault :=
  let ty := blockType o
  let n := laneBytes ty
  let a := x.t.operand 6 o o.a l
  let sc := ((bs.find? (fun b => b.lanes.contains l)).map (·.scale)).getD 0
  let elems := arenaBounds d (elemAlign ty) n a
  let scale := arenaBounds d 1 1 sc
  let bounds := match elems, scale with
    | some f, some g => if g.rank < f.rank then some g else some f
    | some f, none => some f
    | none, g => g
  orFault bounds (fun _ =>
    if store then (if rgnPlanar d then some ⟨4, causeTypeMismatch, 6, a⟩ else none)
    else if x.b.arenaPoison (presentAt d + a) n then some ⟨5, causePoison, 0, a⟩
    else if x.b.arenaPoison (presentAt d + sc) 1 then some ⟨5, causePoison, 0, sc⟩ else none)

def ldabBody (o : Op) (x : Env) (s : State) : Res :=
  let ty := blockType o
  let t := x.t
  let sel := t.selected o.guard
  let r := opRegion o
  let d := x.b.region r
  let bs := arenaBlocks o t sel
  let (good, faults) := arenaLanes (lanesOf t.width sel) (arenaBlockCheck o false x d bs)
  let ok := maskOf good
  let tab := good.map (fun l =>
    (l, unpackCodes ty (x.b.arenaNat (presentAt d + t.operand 6 o o.a l) (laneBytes ty))))
  let tags := (bs.filter (fun b => b.lanes.all (hasLane ok))).map (fun b => (b.block, x.b.rdArena (presentAt d + b.scale)))
  let s1 := s.bumpCore x.core 0x16
    (bankExtra (laneBytes ty) (good.map (fun l => presentAt d + t.operand 6 o o.a l))
      ((bs.filter (fun b => b.lanes.any (hasLane ok))).map (fun b => presentAt d + b.scale)))
  endArena faults r (s1.setTroupe x.r (t.loaded o sel ok [fun l => BitVec.ofNat 32 (laneVal tab l)] tags))

/-- What STAB writes of a block, in the order of R235: the codes of its lanes of `ok` in lane order, then its
scale byte, which is written where any lane of the block passes its checks (log entry 88). -/
def stabBlock (o : Op) (t : Troupe) (d : DWord) (seq troupe : Nat) (ok : Lanes) (b : Block) (q : ArenaBlock) : Block :=
  let ty := blockType o
  let b1 := (q.lanes.filter (hasLane ok)).foldl (fun b l => b.wrArena (nextAt d + t.operand 6 o o.a l)
    (bytesOf (laneBytes ty) (packCodes ty (t.readV o.dst.toNat l).toNat)) seq (.store troupe)) b
  b1.wrArena (nextAt d + q.scale) [t.readTag o.dst.toNat q.block] seq (.store troupe)

/-- STAB, block by block. -/
def stabBody (o : Op) (x : Env) (s : State) : Res :=
  let ty := blockType o
  let t := x.t
  let sel := t.selected o.guard
  let r := opRegion o
  let d := x.b.region r
  let bs := arenaBlocks o t sel
  let (good, faults) := arenaLanes (lanesOf t.width sel) (arenaBlockCheck o true x d bs)
  let ok := maskOf good
  let on := bs.filter (fun q => q.lanes.any (hasLane ok))
  let b1 := on.foldl (stabBlock o t d s.nextSeq x.r.troupe ok) x.b
  let s1 := s.bumpSeq.bumpCore x.core 0x16
    (bankExtra (laneBytes ty) (good.map (fun l => nextAt d + t.operand 6 o o.a l)) (on.map (fun q => nextAt d + q.scale)))
  endArena faults r ((s1.setBlock x.r.cluster x.r.block b1).owesFence x.r)

/-! ## ATOMA (R236) -/

/-- The checks of ATOMA in a lane. -/
def atomaCheck (x : Env) (d : DWord) (n a : Nat) : Option ArenaFault :=
  orFault (arenaBounds d n n a) (fun _ =>
    if rgnPlanar d then some ⟨4, causeTypeMismatch, 5, a⟩
    else if x.b.arenaPoison (presentAt d + a) n then some ⟨5, causePoison, 0, a⟩ else none)

/-- The read-modify-writes of ATOMA in lane order: the block after them and the old values. -/
def atomaLanes (o : Op) (t : Troupe) (d : DWord) (seq troupe : Nat) (off : Nat → Nat) (b : Block) (ls : List Nat) :
    Block × List (Nat × Nat) :=
  let ty := atomType o.c
  let n := memWidth ty
  ls.foldl (fun acc l =>
    let a := presentAt d + off l
    let old := acc.1.arenaNat a n
    let new := atomNew (atomOpOf o) ty old (atomOperand o t l) (atomPrior o t l)
    (acc.1.wrArena a (bytesOf n new) seq (.store troupe), acc.2 ++ [(l, old)])) (b, [])

def atomaBody (o : Op) (x : Env) (s : State) : Res :=
  let ty := atomType o.c
  let n := memWidth ty
  let t := x.t
  let sel := t.selected o.guard
  let r := opRegion o
  let d := x.b.region r
  let off (l : Nat) : Nat := t.operand 6 o o.a l
  if x.det && sel ≠ 0 && atomOpOf o = 0 && ty = 11 then .trap s (trapAt causeDetAtomic 0 sel)
  else
    let (good, faults) := arenaLanes (lanesOf t.width sel) (fun l => atomaCheck x d n (off l))
    let (b1, olds) := atomaLanes o t d s.nextSeq x.r.troupe off x.b good
    let s1 := s.bumpSeq.bumpCore x.core 0x16 (bankExtra n (good.map (fun l => presentAt d + off l)) [])
    let s2 := s1.setBlock x.r.cluster x.r.block b1
    endArena faults r ((s2.setTroupe x.r (t.loaded o sel (maskOf good) (loadRegs ty false olds) [])).owesFence x.r)

/-! ## TURN (R238, R239) and RGQ (R237) -/

/-- Bit `t` of a troupe mask. -/
def troupeBit (t : Nat) : BitVec 64 := BitVec.ofNat 64 (2 ^ t)

/-- The regions of a mask. -/
def regionsOf (m : BitVec 16) : List Nat := (List.range 16).filter (fun r => m.getLsbD r)

/-- The pending turns that conflict with (g, m), and the reason (R238 orders 5 and 6). -/
def turnConflict (b : Block) (g : BitVec 64) (m : BitVec 16) : Option (Nat × List Turn) :=
  match b.turns.find? (fun u => u.g = g && u.m ≠ m) with
  | some u => some (20, [u])
  | none =>
    match b.turns.filter (fun u => !(u.g = g && u.m = m) && (u.g &&& g ≠ 0 || u.m &&& m ≠ 0)) with
    | [] => none
    | us => some (21, us)

/-- The reason of R238's first four orders, with the region of reason 18. -/
def turnCheck (x : Env) (g : BitVec 64) (m : Word) : Option (Nat × Nat) :=
  let b := x.b
  let m16 : BitVec 16 := m.setWidth 16
  if !g.getLsbD x.r.troupe then some (16, 0)
  else if g.toNat / 2 ^ b.troupes.length ≠ 0 || m.toNat / 2 ^ 16 ≠ 0 then some (17, 0)
  else match (regionsOf m16).find? (fun r => !(rgnV (b.region r) && rgnPlanar (b.region r))) with
    | some r => some (18, r)
    | none => if x.t.active ≠ x.t.live then some (19, 0) else none

/-- BARRIER_PHASE at TURN. -/
def turnTrap (reason region : Nat) (mask : Lanes) : TrapX :=
  trapReason causeBarrierPhase reason (region * 2 ^ 32) mask

/-- The word that a waiting troupe waits at. -/
def waitCur (t : Troupe) : Option Cur :=
  match t.status with
  | .waiting _ _ c => some c
  | _ => none

/-- Traps every troupe that waits in a turn that is cancelled. -/
def trapTurn (reason : Nat) (x : Env) (s : State) (arrived : BitVec 64) : State :=
  ((List.range x.b.troupes.length).filter (fun i => arrived.getLsbD i)).foldl (fun s i =>
    let r : TRef := { x.r with troupe := i }
    match s.troupe? r with
    | none => s
    | some t =>
      match waitCur t with
      | none => s
      | some c => (s.setTroupe r { t with waitw := 0 }).takeTrap r x.cl.launch c.pc (turnTrap reason 0 t.active)) s

def turnBody (o : Op) (x : Env) (s : State) : Res :=
  let t := x.t
  let g : BitVec 64 := t.rawPair o.a 0
  let m : Word := BitVec.ofNat 32 (t.operand 6 o o.b 0)
  let m16 : BitVec 16 := m.setWidth 16
  match turnCheck x g m with
  | some (reason, region) => .trap s (turnTrap reason region t.active)
  | none =>
    match turnConflict x.b g m16 with
    | some (reason, us) =>
      let s1 := us.foldl (fun s u => trapTurn reason x s u.arrived) s
      .trap (s1.modBlock x.r.cluster x.r.block (fun b => { b with turns := b.turns.filter (fun v => !us.contains v) }))
        (turnTrap reason 0 t.active)
    | none =>
      let bit := troupeBit x.r.troupe
      .wait (s.modBlock x.r.cluster x.r.block (fun b =>
        if b.turns.any (fun u => u.g = g) then
          { b with turns := b.turns.map (fun u => if u.g = g then { u with arrived := u.arrived ||| bit } else u) }
        else { b with turns := b.turns ++ [⟨g, m16, bit⟩] })) .turn

/-- RGQ. -/
def rgqBody (o : Op) (x : Env) (s : State) : Res :=
  let d := x.b.region (opRegion o)
  let v : DWord := if rgnV d then d else 0
  .done (s.setTroupe x.r (x.t.produceS false o.w true o.dst.toNat [v.extractLsb' 0 32, v.extractLsb' 32 32]))

/-! ## Meanings -/

def execLda (o : Op) (s : State) : Host.Outcome State Fault Refusal := issueOp 0x140 (.lda o) o (ldaBody o) s
def execSta (o : Op) (s : State) : Host.Outcome State Fault Refusal := issueOp 0x141 (.sta o) o (staBody o) s
def execLdab (o : Op) (s : State) : Host.Outcome State Fault Refusal := issueOp 0x142 (.ldab o) o (ldabBody o) s
def execStab (o : Op) (s : State) : Host.Outcome State Fault Refusal := issueOp 0x143 (.stab o) o (stabBody o) s
def execAtoma (o : Op) (s : State) : Host.Outcome State Fault Refusal := issueOp 0x144 (.atoma o) o (atomaBody o) s
def execTurn (o : Op) (s : State) : Host.Outcome State Fault Refusal := issueOp 0x145 (.turn o) o (turnBody o) s
def execRgq (o : Op) (s : State) : Host.Outcome State Fault Refusal := issueOp 0x146 (.rgq o) o (rgqBody o) s

end Sys2Proof.Machine
end

