-- ==== Sys2Proof/Machine/BlockOps.lean ====
section
/-! DEFINITION. The block-aware class 0x5 (06 R150 to R159). -/

namespace Sys2Proof.Machine

/-- Register `i` of the group at A in a lane (R150). -/
def groupReg (t : Troupe) (a : Src) (i l : Nat) : Nat := t.rawSrc { a with num := a.num + BitVec.ofNat 8 i } l

/-- The element codes of a lane of a group of `g` registers, by register first (R152). -/
def groupElems (t : Troupe) (a : Src) (ty g l : Nat) : List Nat :=
  (List.range g).flatMap (fun i => elemsOf (slotBits ty) (eplOf ty) (groupReg t a i l))

/-- BMAX of the codes of a block: the largest magnitude as FP32, or the first NaN, quieted and widened (R152). -/
def bmaxOf (T : Fmt) (cs : List Nat) : Nat :=
  match cs.find? (fun c => isNanF T c) with
  | some c => (convF T .fp32 Rnd.rne (quiet T c)).1
  | none => cs.foldl (fun m c => max m ((convF T .fp32 Rnd.rne (c % T.signBit)).1)) 0

def bmaxBody (o : Op) (x : Env) (s : State) : Res :=
  let ty := tyOf 0x0A0 o
  let t := x.t
  let g := 2 ^ ((bValue o).toNat % 4)
  let epl := eplOf ty * g
  let sel := t.selected o.guard
  let tab := (blocksWith t epl sel).map (fun b =>
    (b, bmaxOf (fmtOf ty) (((lanesInBlock t.width epl b).filter (hasLane sel)).flatMap (groupElems t o.a ty g))))
  .done (s.setTroupe x.r (t.produceV o.w o.dst.toNat sel
    (resultRegs false (fun l => (tab.lookup (l / blockLanes epl)).getD 0)) []))

/-- The scale code that BSCALE gives a block of FP32 values (R153). -/
def bscaleCode (T : Fmt) (fit : Bool) (vs : List FVal) : Nat :=
  if vs.any (·.isNan) then 0xFF else (bscale T fit (vs.foldl maxAbs (.fin false 0 0)) + 127).toNat

def bscaleBody (o : Op) (x : Env) (s : State) : Res :=
  let ty := tyOf 0x0A1 o
  let t := x.t
  let epl := eplOf ty
  let sel := t.selected o.guard
  let fit := (bValue o).getLsbD 1
  let tags := (blocksWith t epl sel).map (fun b => (b, BitVec.ofNat 8 (bscaleCode (fmtOf ty) fit
    (((lanesInBlock t.width epl b).filter (hasLane sel)).map (fun l => decodeF .fp32 (t.rawSrc o.a l))))))
  .done (s.setTroupe x.r (t.produceV o.w o.dst.toNat sel [fun l => t.readV o.dst.toNat l] tags))

/-- BQUANT of one block (R154): `old` is the tag byte of d. -/
def bquantBlock (T : Fmt) (auto fit : Bool) (old : Nat) (vs : List (FVal × Rnd)) : QBlock :=
  if auto then quantBlock T fit vs
  else if old = 0xFF || vs.any (fun v => v.1.isNan) then ⟨vs.map (fun _ => 0), 0xFF, false⟩
  else quantWith T ((old : Int) - 127) vs

def bquantBody (o : Op) (x : Env) (s : State) : Res :=
  let ty := tyOf 0x0A2 o
  let t := x.t
  let epl := eplOf ty
  let sel := t.selected o.guard
  let opt := bValue o
  let val (e : Nat × Nat) : FVal := decodeF .fp32 (groupReg t o.a e.2 e.1)
  let out := overBlocks t epl sel (fun b es =>
    bquantBlock (fmtOf ty) (opt.getLsbD 0) (opt.getLsbD 1) (t.readTag o.dst.toNat b).toNat
      (es.map (fun e => (val e, t.rounding (fnRnd o.c) (t.elemIndex e.1 epl e.2)))))
  let inputs := (blocksWith t epl sel).flatMap (fun b => (blockElems t epl b sel).map val)
  .done (s.setTroupe x.r ((t.amaxIn inputs).blockResult o ty epl out))

/-- One dequantised element (R155). -/
def bdeqElem (T : Fmt) (r : Rnd) (c sc : Nat) : Nat :=
  match dq T c sc with
  | .nan => nanc (dqCause sc) .fp32
  | .inf n => signed .fp32 n Fmt.fp32.infMag
  | .fin n m e => (rndF .fp32 r n m e).1

def bdeqBody (o : Op) (x : Env) (s : State) : Res :=
  let ty := tyOf 0x0A3 o
  let t := x.t
  let epl := eplOf ty
  let sel := t.selected o.guard
  let reg (j l : Nat) : Word :=
    if hasLane sel l then
      BitVec.ofNat 32 (bdeqElem (fmtOf ty) (t.rounding (fnRnd o.c) (t.elemIndex l epl j))
        (elemOf (slotBits ty) (t.rawSrc o.a l) j) (t.srcTag o.a (l / blockLanes epl)))
    else 0
  .done (s.setTroupe x.r (t.produceV o.w o.dst.toNat sel ((List.range epl).map reg) []))

/-- BRESCALE of one block of codes under scale `sc` by δ (R156). -/
def brescaleBlock (T : Fmt) (sc : Nat) (delta : Int) (cs : List (Nat × Rnd)) : QBlock :=
  if sc = 0xFF || cs.any (fun c => isNanF T c.1) then ⟨cs.map (fun _ => 0), 0xFF, false⟩
  else
    let s2 : Int := max 0 (min 254 ((sc : Int) + delta))
    let rs := cs.map (fun c =>
      match decodeF T c.1 with
      | .inf _ => (c.1, false)
      | .fin n m e => rndSat T c.2 n m (e + (sc : Int) - s2)
      | .nan => (0, false))
    ⟨rs.map (·.1), s2.toNat, rs.any (·.2)⟩

/-- The AMAX inputs of BRESCALE in a block (R156): NAN alone for a block with a NaN. -/
def brescaleInputs (T : Fmt) (sc : Nat) (cs : List Nat) : List FVal :=
  if sc = 0xFF || cs.any (fun c => isNanF T c) then [.nan] else cs.map (fun c => dq T c sc)

def brescaleBody (o : Op) (x : Env) (s : State) : Res :=
  let ty := tyOf 0x0A4 o
  let t := x.t
  let T := fmtOf ty
  let epl := eplOf ty
  let sel := t.selected o.guard
  let delta := toSigned 32 (t.operand 5 o o.b 0)
  let code (e : Nat × Nat) : Nat := elemOf (slotBits ty) (t.rawSrc o.a e.1) e.2 % 2 ^ T.bits
  let out := overBlocks t epl sel (fun b es =>
    brescaleBlock T (t.srcTag o.a b) delta
      (es.map (fun e => (code e, t.rounding (fnRnd o.c) (t.elemIndex e.1 epl e.2)))))
  let inputs := (blocksWith t epl sel).flatMap (fun b =>
    brescaleInputs T (t.srcTag o.a b) ((blockElems t epl b sel).map code))
  .done (s.setTroupe x.r ((t.amaxIn inputs).blockResult o ty epl out))

/-- The K-block of one lane for DOT4 and DOT8 (R157). -/
def dotMxLane (o : Op) (ty : Nat) (t : Troupe) (l : Nat) : Nat :=
  let epl := eplOf ty
  let T := fmtOf ty
  let b := l / blockLanes epl
  let as := elemsOf (slotBits ty) epl (t.rawSrc o.a l)
  let bs := elemsOf (slotBits ty) epl (t.rawSrc o.b l)
  let sb := t.srcTag o.b b
  dotBlock T T (t.srcTag o.a b) [sb] ((List.range epl).map (fun j => ⟨as.getD j 0, bs.getD j 0, sb⟩))
    (t.operand 11 o o.srcC l)

/-- DOT4 and DOT8. -/
def dotMxBody (code : Nat) (o : Op) (x : Env) (s : State) : Res :=
  let f := dotMxLane o (tyOf code o) x.t
  let sel := x.t.selected o.guard
  .done (s.setTroupe x.r (x.t.produceV o.w o.dst.toNat sel (resultRegs false (tabulate x.t.width f)) []))

/-- DOT2H (R157): scales of 127. -/
def dot2hBody (o : Op) (x : Env) (s : State) : Res :=
  let ty := tyOf 0x0A7 o
  let t := x.t
  let T := fmtOf ty
  let f (l : Nat) : Nat :=
    let as := elemsOf 16 2 (t.operand ty o o.a l)
    let bs := elemsOf 16 2 (t.operand ty o o.b l)
    dotBlock T T 127 [127] ((List.range 2).map (fun j => ⟨as.getD j 0, bs.getD j 0, 127⟩)) (t.operand 11 o o.srcC l)
  .done (s.setTroupe x.r (t.produceV o.w o.dst.toNat (t.selected o.guard) (resultRegs false (tabulate t.width f)) []))

/-- AMAXRD (R158). -/
def amaxrdBody (o : Op) (x : Env) (s : State) : Res :=
  let t := x.t.produceS true o.w true o.dst.toNat [x.t.amax]
  .done (s.setTroupe x.r (if (bValue o).getLsbD 0 then { t with amax := 0 } else t))

/-- AMAXCLR (R158). -/
def amaxclrBody (x : Env) (s : State) : Res := .done (s.setTroupe x.r { x.t with amax := 0 })

/-! ## Meanings -/

def execBmax (o : Op) (s : State) : Host.Outcome State Fault Refusal := issueOp 0x0A0 (.bmax o) o (bmaxBody o) s
def execBscale (o : Op) (s : State) : Host.Outcome State Fault Refusal := issueOp 0x0A1 (.bscale o) o (bscaleBody o) s
def execBquant (o : Op) (s : State) : Host.Outcome State Fault Refusal := issueOp 0x0A2 (.bquant o) o (bquantBody o) s
def execBdeq (o : Op) (s : State) : Host.Outcome State Fault Refusal := issueOp 0x0A3 (.bdeq o) o (bdeqBody o) s
def execBrescale (o : Op) (s : State) : Host.Outcome State Fault Refusal :=
  issueOp 0x0A4 (.brescale o) o (brescaleBody o) s
def execDot4 (o : Op) (s : State) : Host.Outcome State Fault Refusal :=
  issueOp 0x0A5 (.dot4 o) o (dotMxBody 0x0A5 o) s
def execDot8 (o : Op) (s : State) : Host.Outcome State Fault Refusal :=
  issueOp 0x0A6 (.dot8 o) o (dotMxBody 0x0A6 o) s
def execDot2h (o : Op) (s : State) : Host.Outcome State Fault Refusal := issueOp 0x0A7 (.dot2h o) o (dot2hBody o) s
def execAmaxrd (o : Op) (s : State) : Host.Outcome State Fault Refusal := issueOp 0x0A8 (.amaxrd o) o (amaxrdBody o) s
def execAmaxclr (o : Op) (s : State) : Host.Outcome State Fault Refusal :=
  issueOp 0x0A9 (.amaxclr o) o (fun x s => amaxclrBody x s) s

end Sys2Proof.Machine
end

