-- ==== Sys2Proof/Machine/Fibre.lean ====
section
/-! DEFINITION. The fibre class 0x8 and the carousel (08 R178 to R200). -/

namespace Sys2Proof.Machine

/-! ## Reads of the carousel (R180, R196) -/

/-- The entries and fills of a carousel read, which the carousel waits for (09 R204, R206; 16 R375; log entry 73): hits in L1
are counted; a sector that is missing takes an entry until it has been filled, unless one already waits for it. -/
def State.carFill (s : State) (core : Nat) (p : Point) (k n : Nat) : State :=
  let hits := (s.hitSectors core [(p, k, n)]).length
  let miss := (s.missKeys core [(p, k, n)]).map (·.2)
  let s1 := if hits = 0 then s else s.bumpCore core 0x10 hits
  let s2 := if miss.isEmpty then s1 else s1.bumpCore core 0x11 (s.missSectors core miss).length
  miss.foldl (fun s m => s.fillAt core (m / 64) p.code) s2

/-- `n` naturally aligned bytes at an exact address, as a load with policy .ca (R196): their value, and the state after the
read. -/
def carRead (x : Env) (s : State) (va n : Nat) : Except MemFault Nat × State :=
  match s.checkAccess x.core x.ctx .load .plain 1 va (pageChoice va) with
  | .error f => (.error f, s.lookFaults x.core x.ctx [f])
  | .ok (leaf, k) =>
    let l1 := atL1 0 0 leaf
    let s1 := (s.lookPage x.core x.ctx va).carFill x.core (pointOf 0 0 leaf) k n
    if s.poisonAny x.core l1 k n then (.error ⟨causePoison, 0, va, false⟩, s1)
    else (.ok (s.viewNat x.core l1 k n), s1)

/-- Whether a fibre op whose reads lead from `s` to `s1` must stall: one of them missed, and no entry is free (R204). -/
def carStalls (x : Env) (s s1 : State) : Bool :=
  State.mshrLimit ≤ (s.mshrOf x.core).length && sget 0 s.coreCount (x.core * 32 + 0x11) ≠ sget 0 s1.coreCount (x.core * 32 + 0x11)

/-- How a fibre op ends whose reads lead from `s` to `s1`. -/
def carEnds (x : Env) (s s1 : State) (r : Res) : Res := if carStalls x s s1 then .stall s else r

/-- Whether a bit field of a number is zero. -/
def zeroBits (d hi lo : Nat) : Bool := bitsOf d hi lo = 0

/-- A level entry of a descriptor (R178, R179). -/
structure LevelEntry where
  spec : Nat
  iw   : Bool
  rsv  : Bool
  size : Nat
  pos  : Nat
  crd  : Nat
  posoff : Nat
  crdoff : Nat
  deriving DecidableEq, Repr

/-- Level entry `lvl` of a descriptor, with the addresses of its arrays (R180). -/
def levelOf (d lvl : Nat) : LevelEntry :=
  let e := d / 2 ^ (128 + 96 * lvl) % 2 ^ 96
  let base := bitsOf d 56 0
  { spec := bitsOf e 1 0, iw := bitsOf e 2 2 = 1, rsv := bitsOf e 3 3 = 1, size := bitsOf e 31 4
    posoff := bitsOf e 63 32, crdoff := bitsOf e 95 64
    pos := base + 8 * bitsOf e 63 32, crd := base + 8 * bitsOf e 95 64 }

/-- The level entry of a side, read afresh (R194). -/
def sideLevel (x : Env) (s : State) (sd : Side) : Except MemFault LevelEntry × State :=
  match carRead x s sd.desc 64 with
  | (.error f, s1) => (.error f, s1)
  | (.ok d, s1) => (.ok (levelOf d sd.level), s1)

/-! ## Steps (R188, R190) -/

/-- What a step of a side finds. -/
inductive StepRes where
  | ok (sd : Side)
  /-- A memory fault: the step has not taken place. -/
  | fault (f : MemFault)
  /-- FIBRE_MALFORMED: the reason, and the side positioned at the offending entry. -/
  | bad (reason : Nat) (sd : Side)
  deriving DecidableEq, Repr

/-- What the search of bitmap words finds. -/
inductive BitRes where
  | found (c : Nat)
  | none
  | fault (f : MemFault)
  deriving DecidableEq, Repr

/-- The lowest set bit of a word at or above bit `i`, within `fuel` bits. -/
def lowBit (wd : Nat) : Nat → Nat → Option Nat
  | 0, _ => none
  | fuel + 1, i => if wd / 2 ^ i % 2 = 1 then some i else lowBit wd fuel (i + 1)

/-- The least coordinate from `c` up, below SIZE, whose bit is set, reading `fuel` words of the parent's bitmap in ascending
order from word `i`. -/
def findBit (x : Env) (base size : Nat) : Nat → Nat → Nat → State → BitRes × State
  | 0, _, _, s => (.none, s)
  | fuel + 1, i, c, s =>
    match carRead x s (base + 8 * i) 8 with
    | (.error f, s1) => (.fault f, s1)
    | (.ok wd, s1) =>
      match lowBit wd (64 - c % 64) (c % 64) with
      | some b => (if i * 64 + b < size then .found (i * 64 + b) else .none, s1)
      | none => findBit x base size fuel (i + 1) 0 s1

/-- Words of bitmap per parent. -/
def bitmapWords (size : Nat) : Nat := (size + 63) / 64

/-- The side positioned on an entry. -/
def Side.at (sd : Side) (n c : Nat) : Side := { sd with cur := BitVec.ofNat 32 n, coord := BitVec.ofNat 32 c, adv := false }

/-- Loads the entry at position `n` of a side; `prev` is the coordinate it follows, none at FBOPEN. The descriptor is read before
each entry that lies in memory, and a coordinate that breaks two rules reports reason 1 (log entry 88). -/
def loadEntry (x : Env) (s : State) (sd : Side) (n : Nat) (prev : Option Nat) : StepRes × State :=
  if sd.fin.toNat ≤ n then (.ok { sd with cur := sd.fin, coord := 0, adv := false }, s)
  else if sd.spec = 0 then (.ok (sd.at n (match prev with
    | some c => c + 1
    | none => 0)), s)
  else match sideLevel x s sd with
    | (.error f, s1) => (.fault f, s1)
    | (.ok lv, s1) =>
      if sd.spec = 2 then
        let c0 := match prev with
          | some c => c + 1
          | none => 0
        let nw := bitmapWords lv.size
        match findBit x (lv.crd + 8 * (sd.parent.toNat * nw)) lv.size (nw - c0 / 64) (c0 / 64) (c0 % 64) s1 with
        | (.fault f, s2) => (.fault f, s2)
        | (.found c, s2) => (.ok (sd.at n c), s2)
        | (.none, s2) => (.bad 4 (sd.at n lv.size), s2)
      else
        let w := if sd.iw then 4 else 2
        match carRead x s1 (lv.crd + w * n) w with
        | (.error f, s2) => (.fault f, s2)
        | (.ok c, s2) =>
          let before := match prev with
            | some p => sd.spec = 1 && c ≤ p
            | none => false
          (if before then .bad 1 (sd.at n c) else if lv.size ≤ c then .bad 2 (sd.at n c) else .ok (sd.at n c), s2)

/-- step(i) (R188). -/
def stepSide (x : Env) (s : State) (sd : Side) : StepRes × State := loadEntry x s sd (sd.cur.toNat + 1) (some sd.coord.toNat)

/-- A side at its end (R182). -/
def Side.atEnd (sd : Side) : Bool := sd.fin.toNat ≤ sd.cur.toNat + bit sd.adv

/-- A side with no current entry. -/
def Side.out (sd : Side) : Bool := sd.fin.toNat ≤ sd.cur.toNat

/-! ## A fibre in motion -/

/-- Where a walk stands: going on, or stopped by a fault or a malformed entry of a side. -/
inductive Walk where
  | go (fb : Fibre)
  | fault (fb : Fibre) (f : MemFault)
  | bad (fb : Fibre) (reason side : Nat)
  deriving DecidableEq, Repr

/-- Side `i` of a fibre, and its replacement. -/
def Fibre.side (fb : Fibre) (i : Nat) : Side := if i = 0 then fb.a else fb.b
def Fibre.setSide (fb : Fibre) (i : Nat) (sd : Side) : Fibre := if i = 0 then { fb with a := sd } else { fb with b := sd }

/-- The sides that a fibre's mode uses. -/
def Fibre.sides (fb : Fibre) : List Nat := if fb.mode = 1 then [0] else [0, 1]

/-- One step of a side. -/
def Fibre.step (x : Env) (s : State) (i : Nat) (fb : Fibre) : Walk × State :=
  match stepSide x s (fb.side i) with
  | (.ok sd, s1) => (.go (fb.setSide i sd), s1)
  | (.fault f, s1) => (.fault fb f, s1)
  | (.bad r sd, s1) => (.bad (fb.setSide i sd) r i, s1)

/-- The pending advances, in side order. -/
def pending (x : Env) : List Nat → Fibre → State → Walk × State
  | [], fb, s => (.go fb, s)
  | i :: is, fb, s =>
    if (fb.side i).adv then
      match fb.step x s i with
      | (.go fb1, s1) => pending x is fb1 s1
      | stop => stop
    else pending x is fb s

/-- The search for a common coordinate (R187), in at most `fuel` steps. -/
def intersect (x : Env) : Nat → Fibre → State → Walk × State
  | 0, fb, s => (.go fb, s)
  | fuel + 1, fb, s =>
    if fb.a.out || fb.b.out || fb.a.coord = fb.b.coord then (.go fb, s)
    else match fb.step x s (if fb.a.coord.toNat < fb.b.coord.toNat then 0 else 1) with
      | (.go fb1, s1) => intersect x fuel fb1 s1
      | stop => stop

/-- Steps a side until its coordinate reaches `key` or its end (R189), in at most `fuel` steps. -/
def skipSide (x : Env) (i key : Nat) : Nat → Fibre → State → Walk × State
  | 0, fb, s => (.go fb, s)
  | fuel + 1, fb, s =>
    let sd := fb.side i
    if sd.out || key ≤ sd.coord.toNat then (.go fb, s)
    else match fb.step x s i with
      | (.go fb1, s1) => skipSide x i key fuel fb1 s1
      | stop => stop

/-- Steps that remain on a side. -/
def Side.left (sd : Side) : Nat := sd.fin.toNat - sd.cur.toNat

/-- An entry that FBNEXT delivers: coordinate and positions; none when the fibre has run out. -/
structure Entry where
  coord : Word
  p0    : Word
  p1    : Word
  deriving DecidableEq, Repr

/-- Marks a side's entry as delivered. -/
def Side.mark (sd : Side) (b : Bool) : Side := if b then { sd with adv := true } else sd

/-- One lane's delivery from a fibre whose pending advances are done, and whose sides an intersection has matched. -/
def deliver (fb : Fibre) : Fibre × Option Entry :=
  let take (fb : Fibre) (m0 m1 : Bool) (e : Entry) : Fibre × Option Entry :=
    ({ fb with a := fb.a.mark m0, b := fb.b.mark m1, count := fb.count + 1 }, some e)
  if fb.mode = 1 then
    if fb.a.out then (fb, none) else take fb true false ⟨fb.a.coord, fb.a.cur, 0⟩
  else if fb.mode = 2 then
    if fb.a.out || fb.b.out then (fb, none) else take fb true true ⟨fb.a.coord, fb.a.cur, fb.b.cur⟩
  else if fb.a.out && fb.b.out then (fb, none)
  else
    let c := if fb.a.out then fb.b.coord else if fb.b.out then fb.a.coord
      else if fb.b.coord.toNat < fb.a.coord.toNat then fb.b.coord else fb.a.coord
    let none32 : Word := 0xFFFFFFFF
    let p0 := if !fb.a.out && fb.a.coord = c then fb.a.cur else none32
    let p1 := if !fb.b.out && fb.b.coord = c then fb.b.cur else none32
    take fb (p0 ≠ none32) (p1 ≠ none32) ⟨c, p0, p1⟩

/-- How FBNEXT ends: the lanes served with what they received, the fibre, the stop, and the state after its reads. -/
structure Served where
  fb    : Fibre
  lanes : List (Nat × Option Entry)
  stop  : Option Walk
  s     : State

/-- FBNEXT over lanes in lane order (R187). -/
def serve (x : Env) : List Nat → Fibre → List (Nat × Option Entry) → State → Served
  | [], fb, acc, s => ⟨fb, acc, none, s⟩
  | l :: ls, fb, acc, s =>
    match pending x fb.sides fb s with
    | (.go fb1, s1) =>
      match (if fb1.mode = 2 then intersect x (fb1.a.left + fb1.b.left + 1) fb1 s1 else (.go fb1, s1)) with
      | (.go fb2, s2) =>
        let r := deliver fb2
        serve x ls r.1 (acc ++ [(l, r.2)]) s2
      | (.fault fb2 f, s2) => ⟨fb2, acc, some (.fault fb2 f), s2⟩
      | (.bad fb2 r i, s2) => ⟨fb2, acc, some (.bad fb2 r i), s2⟩
    | (.fault fb1 f, s1) => ⟨fb1, acc, some (.fault fb1 f), s1⟩
    | (.bad fb1 r i, s1) => ⟨fb1, acc, some (.bad fb1 r i), s1⟩

/-! ## Traps of fibre ops -/

/-- TVAL of FIBRE_STATE (R195). -/
def fibreState (reason n : Nat) (mask : Lanes) : TrapX := trapAt causeFibreState (BitVec.ofNat 64 (reason + n * 2 ^ 9)) mask

/-- TVAL of FIBRE_MALFORMED (R190). -/
def fibreBad (reason side n pos : Nat) (mask : Lanes) : TrapX :=
  trapAt causeFibreMalformed (BitVec.ofNat 64 (reason + side * 2 ^ 8 + n * 2 ^ 9 + pos % 2 ^ 32 * 2 ^ 32)) mask

/-- The trap of a stopped walk. -/
def walkTrap (w : Walk) (n : Nat) (mask : Lanes) : TrapX :=
  match w with
  | .fault _ f => trapMem f .load mask
  | .bad fb r i => fibreBad r i n (fb.side i).cur.toNat mask
  | .go _ => fibreState 0 n mask

/-- Fibre register `n`. -/
def Troupe.fibre (t : Troupe) (n : Nat) : Fibre := (t.fb[n]?).getD ⟨⟨0, 0, 0, false, false, 0, 0, 0, 0⟩, ⟨0, 0, 0, false, false, 0, 0, 0, 0⟩, 0, 0⟩
def Troupe.setFibre (t : Troupe) (n : Nat) (fb : Fibre) : Troupe := { t with fb := t.fb.set n fb }

/-- A side with every field zero. -/
def emptySide : Side := ⟨0, 0, 0, false, false, 0, 0, 0, 0⟩

/-! ## Fibres whose arrays a program has changed (R196; log entry 3) -/

/-- The bytes, not 0, of `n` bytes of memory from key `k`, as a core's own loads could find them. -/
def State.heldCells (s : State) (core k n : Nat) : List Host.Cell :=
  let inside (q : Nat) : Bool := k ≤ q && q < k + n
  ssets emptyByte (s.mem.filter (fun c => inside c.1)) (s.l1Dirty (fun c q => c = core && inside q))

/-- The same of the `n` bytes at an address that lie in one page, by address; none where the page cannot be read. -/
def peek (x : Env) (s : State) (va n : Nat) : Option (List Host.Cell) :=
  match s.checkAccess x.core x.ctx .load .plain 1 va (pageChoice va) with
  | .error _ => none
  | .ok (_, k) => some ((s.heldCells x.core k n).map (fun c => (va + (c.1 - k), c.2)))

/-- `n` bytes at an address as pieces that lie in one page of 256 KiB each, with what they hold now. -/
def piecesOf (x : Env) (s : State) (va n : Nat) : List Piece :=
  let first := va / 2 ^ 18
  (List.range (if n = 0 then 0 else (va + n - 1) / 2 ^ 18 + 1 - first)).map (fun i =>
    let lo := max va ((first + i) * 2 ^ 18)
    let len := min (va + n) ((first + i + 1) * 2 ^ 18) - lo
    ⟨lo, len, peek x s lo len⟩)

/-- The pieces of memory that a side walks from where it stands: its descriptor and what it reads of the level's arrays. -/
def sideSpans (x : Env) (s : State) (sd : Side) : List (Nat × Nat) :=
  match s.checkAccess x.core x.ctx .load .plain 1 sd.desc (pageChoice sd.desc) with
  | .error _ => []
  | .ok (leaf, k) =>
    let lv := levelOf (s.viewNat x.core (atL1 0 0 leaf) k 64) sd.level
    let w := if sd.iw then 4 else 2
    let crd := (lv.crd + w * sd.cur.toNat, w * (sd.fin.toNat - sd.cur.toNat))
    (sd.desc, 64) :: match sd.spec with
      | 0 => []
      | 1 => [(lv.pos + 4 * sd.parent.toNat, 8), crd]
      | 2 => [(lv.pos + 4 * sd.parent.toNat, 8),
          (lv.crd + 8 * (sd.parent.toNat * bitmapWords lv.size), 8 * bitmapWords lv.size)]
      | _ => [crd]

/-- The watch of a fibre that is open from now on. -/
def watchOf (x : Env) (s : State) (fb : Fibre) : Watch :=
  let spans := if fb.mode = 0 then [] else fb.sides.flatMap (fun i => sideSpans x s (fb.side i))
  ⟨spans.flatMap (fun p => piecesOf x s p.1 p.2), false⟩

/-- A piece that could not be read before is seen as it is now. -/
def Piece.look (x : Env) (s : State) (p : Piece) : Piece := { p with seen := p.seen.orElse (fun _ => peek x s p.va p.len) }

/-- Whether a piece holds other bytes than it did. -/
def Piece.differs (x : Env) (s : State) (p : Piece) : Bool :=
  match p.seen, peek x s p.va p.len with
  | some a, some b => a ≠ b
  | _, _ => false

/-- A watch as a fibre op finds it. -/
def Watch.look (x : Env) (s : State) (w : Watch) : Watch :=
  ⟨w.pieces.map (·.look x s), w.changed || w.pieces.any (·.differs x s)⟩

/-- The watch of fibre register `n`, and its replacement. -/
def Troupe.watchAt (t : Troupe) (n : Nat) : Watch := (t.watch[n]?).getD ⟨[], false⟩
def Troupe.setWatch (t : Troupe) (n : Nat) (w : Watch) : Troupe := { t with watch := t.watch.set n w }

/-- Whether a program has changed the descriptor or the arrays of the open fibre in register `n`: what the register and its
deliveries hold is then undefined. -/
def changedFibre (x : Env) (s : State) (n : Nat) : Bool := ((x.t.watchAt n).look x s).changed

/-- Fibre register `n` after a walk from the state `s`: whether its arrays had been changed stays with it. -/
def Troupe.walked (t : Troupe) (x : Env) (s : State) (n : Nat) (fb : Fibre) : Troupe :=
  (t.setFibre n fb).setWatch n ((t.watchAt n).look x s)

/-- Word `i` of what a fibre op finds undefined. -/
def State.fibreWord (s : State) (i : Nat) : Word := s.freeWord (2 ^ 36 + i)

/-- The deliveries of a fibre: undefined ones, the predicate included, where its arrays have been changed. -/
def State.deliveries (s : State) (changed : Bool) (ls : List (Nat × Option Entry)) : List (Nat × Option Entry) :=
  if !changed then ls
  else ls.map (fun e => (e.1, if (s.fibreWord (4 * e.1)).toNat % 2 = 1 then
    some ⟨s.fibreWord (4 * e.1 + 1), s.fibreWord (4 * e.1 + 2), s.fibreWord (4 * e.1 + 3)⟩ else none))

/-! ## FBOPEN, FBISECT, FBUNION (R185, R186) -/

/-- What FBOPEN's checks of the descriptor find: a reason and its TVAL position, or the level entry. -/
def openLevel (d lvl parent : Nat) : Except (Nat × Nat) LevelEntry :=
  let nlev := bitsOf d 66 64
  let lv := levelOf d lvl
  if nlev = 0 || 4 < nlev || nlev ≤ lvl || !zeroBits d 63 57 || !zeroBits d 127 67 || !zeroBits d 2 0 || lv.rsv
      || lv.size = 0 || (lv.spec = 0 && (lv.posoff ≠ 0 || lv.crdoff ≠ 0)) || (lv.spec = 3 && lv.posoff ≠ 0) then .error (5, 0)
  else if lvl = 0 && parent ≠ 0 then .error (6, parent)
  else if lv.spec = 0 && 2 ^ 32 ≤ parent * lv.size + lv.size then .error (7, parent)
  else .ok lv

/-- CUR and END at FBOPEN (R185; log entry 61). -/
def openRange (x : Env) (s : State) (lv : LevelEntry) (p : Nat) : Except MemFault (Nat × Nat) × State :=
  if lv.spec = 0 then (.ok (p * lv.size, p * lv.size + lv.size), s)
  else if lv.spec = 3 then (.ok (p, (p + 1) % 2 ^ 32), s)
  else match carRead x s (lv.pos + 4 * p) 4 with
    | (.error f, s1) => (.error f, s1)
    | (.ok a, s1) => match carRead x s1 (lv.pos + 4 * (p + 1)) 4 with
      | (.error f, s2) => (.error f, s2)
      | (.ok b, s2) => (.ok (a, b), s2)

/-- Fibre register `n` holds a fibre from now on, whose arrays are watched. -/
def Troupe.openAt (t : Troupe) (x : Env) (s : State) (n : Nat) (fb : Fibre) : Troupe :=
  (t.setFibre n fb).setWatch n (watchOf x s fb)

/-- The register that FBOPEN writes. -/
def openFibre (sd : Side) : Fibre := ⟨sd, emptySide, 1, 0⟩

/-- FBOPEN up to its stop or its end: what it finds, and the state after its reads (R185). -/
def fbopenRun (o : Op) (x : Env) (s : State) : Res × State :=
  let t := x.t
  let n := o.dst.toNat
  let all := t.active
  let addr := (t.rawPair o.a 0).toNat
  let p := t.operand 6 o o.b 0
  let lvl := o.c.toNat % 4
  if addr % 64 ≠ 0 then (.trap s (trapMem ⟨causeMisaligned, 0, addr, false⟩ .load all), s)
  else match carRead x s addr 64 with
    | (.error f, s1) => (.trap s1 (trapMem f .load all), s1)
    | (.ok d, s1) =>
      match openLevel d lvl p with
      | .error (r, pos) => (.trap s1 (fibreBad r 0 n pos all), s1)
      | .ok lv =>
        match openRange x s1 lv p with
        | (.error f, s2) => (.trap s2 (trapMem f .load all), s2)
        | (.ok (cur, fin), s2) =>
          let sd : Side := ⟨addr, lvl, lv.spec, lv.iw, false, BitVec.ofNat 32 p, BitVec.ofNat 32 cur, BitVec.ofNat 32 fin, 0⟩
          if lv.spec ≠ 3 && fin < cur then (.trap s2 (fibreBad 3 0 n p all), s2)
          else if fin ≤ cur then (.done (s2.setTroupe x.r (t.openAt x s2 n (openFibre sd))), s2)
          else
            match loadEntry x s2 sd cur none with
            | (.fault f, s3) => (.trap s3 (trapMem f .load all), s3)
            | (.ok sd1, s3) => (.done (s3.setTroupe x.r (t.openAt x s3 n (openFibre sd1))), s3)
            | (.bad r sd1, s3) =>
              (.trap (s3.setTroupe x.r (t.openAt x s3 n (openFibre sd1))) (fibreBad r 0 n sd1.cur.toNat all), s3)

def fbopenBody (o : Op) (x : Env) (s : State) : Res := carEnds x s (fbopenRun o x s).2 (fbopenRun o x s).1

/-- The FIBRE_STATE reason of a source of FBISECT or FBUNION. -/
def sourceState (fb : Fibre) : Option Nat := if fb.mode = 0 then some 1 else if fb.mode = 1 then none else some 2

/-- The watch of a fibre that two others make up. -/
def Watch.join (a b : Watch) : Watch := ⟨a.pieces ++ b.pieces, a.changed || b.changed⟩

/-- FBISECT and FBUNION, to mode `m`. Where both sources are in a wrong state, FIBRE_STATE reports src A (log entry 88). -/
def combineBody (m : Nat) (o : Op) (x : Env) (s : State) : Res :=
  let t := x.t
  let na := o.a.num.toNat
  let nb := o.b.num.toNat
  match sourceState (t.fibre na), sourceState (t.fibre nb) with
  | some r, _ => .trap s (fibreState r na t.active)
  | none, some r => .trap s (fibreState r nb t.active)
  | none, none => 
    .done (s.setTroupe x.r ((t.setFibre o.dst.toNat ⟨(t.fibre na).a, (t.fibre nb).a, m, 0⟩).setWatch o.dst.toNat
      ((t.watchAt na).join (t.watchAt nb))))

/-! ## FBNEXT, FBSKIP (R187, R189, R198) -/

/-- The registers that FBNEXT writes for the served lanes: coordinates with the latch when it completes, positions, and the
predicate. -/
def Troupe.delivered (t : Troupe) (o : Op) (sel : Lanes) (two complete : Bool) (ls : List (Nat × Option Entry)) : Troupe :=
  let got := ls.filterMap (fun e => e.2.map (fun y => (e.1, y)))
  let at_ (f : Entry → Word) (l : Nat) : Word := ((got.lookup l).map f).getD 0
  let on := maskOf (got.map (·.1))
  let vp := o.b.num.toNat
  let cells := t.cellsV vp on (at_ (·.p0)) ++ (if two then t.cellsV (vp + 1) on (at_ (·.p1)) else [])
  let t1 : Troupe := if complete then t.produceLateV false o.w o.dst.toNat on [at_ (·.coord)] []
    else if o.w then t.keep (got.map (fun y => (y.1, y.2.coord))) []
    else t.addLate ⟨false, false, t.cellsV o.dst.toNat on (at_ (·.coord)), [], []⟩ (Troupe.written o.dst.toNat 1 on [])
  let t2 : Troupe := t1.addLate ⟨false, false, cells, [], []⟩ (Troupe.written vp (1 + bit two) on [])
  t2.writeP (o.c.toNat % 8) (maskOf (ls.map (·.1)) &&& sel) on

/-- Lanes that an FBNEXT had served before it was resumed (R105, R198). -/
def Troupe.servedBefore (t : Troupe) : Nat := if t.rm.isSome then t.prog.toNat else 0

def fbnextBody (o : Op) (x : Env) (s : State) : Res :=
  let t := x.t
  let n := o.a.num.toNat
  let fb := t.fibre n
  let sel := t.selected o.guard
  let two : Bool := fb.mode ≠ 1
  let vp := o.b.num.toNat
  if t.rm ≠ some 0 && fb.mode ≠ 0 && two && (vp % 2 ≠ 0 || t.nregs < vp + 2 || o.dst.toNat = vp + 1) then
    .trap s (trapAt causeIllegalOp (x.c.hi.setWidth 64) t.active)
  else if sel = 0 then .done (s.setTroupe x.r { t.delivered o sel two true [] with prog := 0 })
  else if fb.mode = 0 then .trap s (fibreState 1 n sel)
  else
    let r := serve x (lanesOf t.width sel) fb [] s
    let t1 := (t.walked x s n r.fb).delivered o sel two r.stop.isNone (s.deliveries (changedFibre x s n) r.lanes)
    carEnds x s r.s (match r.stop with
      | none => .done (r.s.setTroupe x.r { t1 with prog := 0 })
      | some w =>
        let left := sel &&& ~~~maskOf (r.lanes.map (·.1))
        .trap (r.s.setTroupe x.r { t1 with prog := BitVec.ofNat 32 (t.servedBefore + r.lanes.length) }) (walkTrap w n left))

/-- FBSKIP's steps on each side in order. -/
def skipSides (x : Env) (key : Nat) : List Nat → Fibre → State → Walk × State
  | [], fb, s => (.go fb, s)
  | i :: is, fb, s =>
    match skipSide x i key ((fb.side i).left + 1) fb s with
    | (.go fb1, s1) => skipSides x key is fb1 s1
    | stop => stop

def fbskipBody (o : Op) (x : Env) (s : State) : Res :=
  let t := x.t
  let n := o.dst.toNat
  let fb := t.fibre n
  let key := t.operand 6 o o.b 0
  if fb.mode = 0 then .trap s (fibreState 1 n t.active)
  else
    let w := match pending x fb.sides fb s with
      | (.go fb1, s1) => skipSides x key fb1.sides fb1 s1
      | stop => stop
    carEnds x s w.2 (match w.1 with
      | .go fb1 => .done (w.2.setTroupe x.r (t.walked x s n fb1))
      | .fault fb1 _ => .trap (w.2.setTroupe x.r (t.walked x s n fb1)) (walkTrap w.1 n t.active)
      | .bad fb1 _ _ => .trap (w.2.setTroupe x.r (t.walked x s n fb1)) (walkTrap w.1 n t.active))

/-! ## FBPOS, FBEND, FBCLOSE, FBSAVE, FBRSTR (R191 to R194) -/

/-- The field that FBPOS selects. -/
def fibreField (fb : Fibre) (sel : Nat) : Word :=
  match sel with
  | 0 => fb.a.cur | 1 => fb.b.cur | 2 => fb.a.coord | 3 => fb.b.coord | 4 => fb.a.fin | 5 => fb.b.fin | _ => fb.count

def fbposBody (o : Op) (x : Env) (s : State) : Res :=
  let t := x.t
  let n := o.a.num.toNat
  let fb := t.fibre n
  let sel := o.c.toNat
  if sel = 7 then .trap s (trapAt causeIllegalOp (x.c.hi.setWidth 64) t.active)
  else if fb.mode = 0 then .trap s (fibreState 1 n t.active)
  else if fb.mode = 1 && (sel = 1 || sel = 3 || sel = 5) then .trap s (fibreState 3 n t.active)
  else
    .done (s.setTroupe x.r (t.produceS false o.w true o.dst.toNat
      [if changedFibre x s n then s.fibreWord sel else fibreField fb sel]))

/-- Whether a fibre can deliver nothing more (R192). -/
def Fibre.ended (fb : Fibre) : Bool :=
  if fb.mode = 1 then fb.a.atEnd else if fb.mode = 2 then fb.a.atEnd || fb.b.atEnd else fb.a.atEnd && fb.b.atEnd

/-- The lanes that a troupe-level instruction selects: the resume mask does not narrow them (R400). -/
def Troupe.guarded (t : Troupe) (g : Guard) : Lanes :=
  let p := t.readP g.p.toNat
  t.active &&& (if g.neg then ~~~p else p)

def fbendBody (o : Op) (x : Env) (s : State) : Res :=
  let t := x.t
  let n := o.a.num.toNat
  let fb := t.fibre n
  let sel := t.guarded o.guard
  if sel = 0 then .done s
  else if fb.mode = 0 then .trap s (fibreState 1 n t.active)
  else .done (s.setTroupe x.r (t.writeP o.dst.toNat sel
    (if (if changedFibre x s n then (s.fibreWord 0).toNat % 2 = 1 else fb.ended) then lanesBelow t.width else 0)))

def closedFb : Fibre := ⟨emptySide, emptySide, 0, 0⟩

def fbcloseBody (o : Op) (x : Env) (s : State) : Res := 
  .done (s.setTroupe x.r ((x.t.setFibre o.dst.toNat closedFb).setWatch o.dst.toNat ⟨[], false⟩))

/-- The 192 bits of a side (R182). -/
def sideBits (sd : Side) : Nat :=
  sd.desc % 2 ^ 57 + sd.level % 4 * 2 ^ 57 + sd.spec % 4 * 2 ^ 59 + bit sd.iw * 2 ^ 61 + bit sd.adv * 2 ^ 62
    + sd.parent.toNat * 2 ^ 64 + sd.cur.toNat * 2 ^ 96 + sd.fin.toNat * 2 ^ 128 + sd.coord.toNat * 2 ^ 160

/-- The 512 bits of a fibre register. -/
def fibreBits (fb : Fibre) : Nat :=
  sideBits fb.a + sideBits fb.b * 2 ^ 192 + fb.mode % 4 * 2 ^ 384 + fb.count.toNat * 2 ^ 416

/-- A side from its bits. -/
def sideOf (x : Nat) : Side :=
  { desc := bitsOf x 56 0, level := bitsOf x 58 57, spec := bitsOf x 60 59, iw := bitsOf x 61 61 = 1, adv := bitsOf x 62 62 = 1
    parent := BitVec.ofNat 32 (bitsOf x 95 64), cur := BitVec.ofNat 32 (bitsOf x 127 96)
    fin := BitVec.ofNat 32 (bitsOf x 159 128), coord := BitVec.ofNat 32 (bitsOf x 191 160) }

/-- A fibre register from its bits. -/
def fibreOf (x : Nat) : Fibre :=
  ⟨sideOf (x % 2 ^ 192), sideOf (x / 2 ^ 192 % 2 ^ 192), bitsOf x 385 384, BitVec.ofNat 32 (bitsOf x 447 416)⟩

/-- The checks of FBRSTR (R194). -/
def fibreImageOk (x : Nat) : Bool :=
  let fb := fibreOf x
  let sideOk (sd : Side) : Bool := sd.desc % 64 = 0 && sd.cur.toNat ≤ sd.fin.toNat
  zeroBits x 63 63 && zeroBits x 255 255 && zeroBits x 415 386 && zeroBits x 511 448 &&
    (match fb.mode with
      | 0 => x = 0
      | 1 => bitsOf x 383 192 = 0 && sideOk fb.a
      | _ => sideOk fb.a && sideOk fb.b)

/-- The address of FBSAVE and FBRSTR. -/
def fbAddr (o : Op) (t : Troupe) : Nat := wrap 64 ((t.rawPair o.a 0).toNat + toSigned 32 (t.operand 6 o o.b 0))

/-- The 64 bytes of fibre register `n` as FBSAVE stores them. -/
def fibreImage (x : Env) (s : State) (n : Nat) : List Byte :=
  if changedFibre x s n then (List.range 64).map (fun i => (s.fibreWord i).setWidth 8) else bytesOf 64 (fibreBits (x.t.fibre n))

/-- FBSAVE: a .ca store of 64 bytes. -/
def fbsaveBody (o : Op) (x : Env) (s : State) : Res :=
  let t := x.t
  let va := fbAddr o t
  match s.checkAccess x.core x.ctx .store .plain 64 va (pageChoice va) with
  | .error f => .trap (s.lookFaults x.core x.ctx [f]) (trapMem f .store t.active)
  | .ok (leaf, k) =>
    let l1 := atL1 0 0 leaf
    match s.takeEntries x.core [(pointOf 0 0 leaf, k, 64)] with
    | none => .stall s
    | some s0 =>
      let s1 := s0.lookPage x.core x.ctx va
      let s2 := if l1 then s1 else s1.yieldLines x.core [k]
      .done (s2.viewWrite x.core l1 (keyed k (fibreImage x s o.dst.toNat)))

def fbrstrBody (o : Op) (x : Env) (s : State) : Res :=
  let t := x.t
  let n := o.dst.toNat
  let va := fbAddr o t
  if va % 64 ≠ 0 then .trap s (trapMem ⟨causeMisaligned, 0, va, false⟩ .load t.active)
  else
    let r := carRead x s va 64
    carEnds x s r.2 (match r.1 with
      | .error f => .trap r.2 (trapMem f .load t.active)
      | .ok img =>
        if fibreImageOk img then .done (r.2.setTroupe x.r (t.openAt x r.2 n (fibreOf img)))
        else .trap r.2 (fibreState 4 n t.active))

/-! ## Meanings -/

def execFbopen (o : Op) (s : State) : Host.Outcome State Fault Refusal := issueOp 0x100 (.fbopen o) o (fbopenBody o) s
def execFbisect (o : Op) (s : State) : Host.Outcome State Fault Refusal := issueOp 0x101 (.fbisect o) o (combineBody 2 o) s
def execFbunion (o : Op) (s : State) : Host.Outcome State Fault Refusal := issueOp 0x102 (.fbunion o) o (combineBody 3 o) s
def execFbnext (o : Op) (s : State) : Host.Outcome State Fault Refusal := issueOp 0x103 (.fbnext o) o (fbnextBody o) s
def execFbskip (o : Op) (s : State) : Host.Outcome State Fault Refusal := issueOp 0x104 (.fbskip o) o (fbskipBody o) s
def execFbpos (o : Op) (s : State) : Host.Outcome State Fault Refusal := issueOp 0x105 (.fbpos o) o (fbposBody o) s
def execFbend (o : Op) (s : State) : Host.Outcome State Fault Refusal := issueOp 0x106 (.fbend o) o (fbendBody o) s
def execFbclose (o : Op) (s : State) : Host.Outcome State Fault Refusal := issueOp 0x107 (.fbclose o) o (fbcloseBody o) s
def execFbsave (o : Op) (s : State) : Host.Outcome State Fault Refusal := issueOp 0x108 (.fbsave o) o (fbsaveBody o) s
def execFbrstr (o : Op) (s : State) : Host.Outcome State Fault Refusal := issueOp 0x109 (.fbrstr o) o (fbrstrBody o) s

end Sys2Proof.Machine
end

