-- ==== Sys2Proof/Machine/Matrix.lean ====
section
/-! DEFINITION. The matrix class 0xB as it issues (12 R271 to R298), with MCOMMIT and MWAIT (14 R326, R328): checks, entry
into the act's stream, and ACCLD, which reads a tile at issue. What a matched entry does is the engine's (Machine/Engine.lean). -/

namespace Sys2Proof.Machine

/-! ## Control words (R278, R280, R281, R284) -/

/-- The control word of an op. -/
def ctlWord (o : Op) : Nat := (o.ext.map (fun e => e.value.toNat)).getD 0

/-- The fields of R284. -/
structure StepCtl where
  ta  : Nat
  tb  : Nat
  n   : Nat
  kb  : Nat
  rb  : Nat
  ra  : Nat
  col : Nat
  deriving DecidableEq, Repr

/-- The control word of a step. -/
def stepCtl (o : Op) : StepCtl :=
  let w := ctlWord o
  { ta := bitsOf w 4 0, tb := bitsOf w 9 5, n := 8 * (bitsOf w 14 10 + 1), kb := bitsOf w 17 15 + 1
    rb := bitsOf w 21 18, ra := bitsOf w 25 22, col := 8 * bitsOf w 31 26 }

/-- Elements of a block, and its bytes in the arena (R278). -/
def blockElemsOf (ty : Nat) : Nat := if typeMx ty then 32 else 16
def blockBytesOf (ty : Nat) : Nat := if typeMx ty then (fmtOf ty).blockBytes else 32

/-- A number rounded up to a multiple of `m`. -/
def roundUp (x m : Nat) : Nat := (x + m - 1) / m * m

/-- RS of the row layout (R280). -/
def rowStride (ty kb : Nat) : Nat := roundUp (kb * blockBytesOf ty + (if typeMx ty then kb else 0)) 8

/-- The bytes of a panel before and after rounding (R281). -/
def panelData (ty n kb : Nat) : Nat := n * kb * blockBytesOf ty + (if typeMx ty then n * kb else 0)
def panelBytes (ty n kb : Nat) : Nat := roundUp (panelData ty n kb) 64

/-- Stored and logical elements of a group of a pattern kind, and the bits of an entry (R283, R289). -/
def patN (kind : Nat) : Nat := if kind = 0 then 2 else if kind = 1 then 1 else 4
def patG (kind : Nat) : Nat := if kind = 2 then 8 else 4
def patBits (kind : Nat) : Nat := if kind = 2 then 3 else 2

/-- The pattern kind of MMA.SP. -/
def spKind (o : Op) : Nat := bitsOf o.dst.toNat 5 4

/-- The blocks of a B column that one step of an op covers: KB, or KB · g / n for MMA.SP (R289). -/
def stepKbB (code : Nat) (o : Op) : Nat :=
  let kb := (stepCtl o).kb
  if code = 0x164 then kb * patG (spKind o) / patN (spKind o) else kb

/-- The logical elements of K that a step may cover (R284, R289). -/
def kLimit (code ta tb : Nat) : Nat :=
  (if !typeMx ta then 64 else if ta = 16 && tb = 16 then 256 else 128) * (if code = 0x164 then 2 else 1)

/-! ## The issuing member (R271, R272) -/

/-- What the act gives its member at issue: rows per member, act rows, tiles, and the entry its next instruction would be. -/
structure Seat where
  rm    : Nat
  rows  : Nat
  tiles : BitVec 16
  entry : Nat
  deriving DecidableEq, Repr

/-- The seat of a member or pending member. -/
def Block.seat (b : Block) (t : Nat) : Option Seat :=
  match (b.actOf t).bind (fun k => b.acts[k]?) with
  | some a => some ⟨a.rm, a.rows, a.tiles, a.matched + ((a.member? t).map (fun m => m.list.length)).getD 0⟩
  | none =>
    (b.pending? t).map (fun p =>
      let rm := if p.rows32 then 32 else 16
      ⟨rm, rm * (troupesOf p.gmask).length, p.tiles, p.list.length⟩)

/-- The first of a list of checks that fails. -/
def firstSome {α : Type} : List (Option α) → Option α
  | [] => none
  | some a :: _ => some a
  | none :: xs => firstSome xs

/-- A reason when a condition holds. -/
def reasonIf (c : Bool) (n : Nat) : Option Nat := if c then some n else none

/-- MATRIX_SHAPE (R298). -/
def shapeTrap (x : Env) (reason : Nat) : TrapX := trapReason causeMatrixShape reason 0 x.t.active

/-- Reasons 1 and 4 (R271). -/
def notMember (x : Env) : Option Nat := reasonIf (x.b.seat x.r.troupe).isNone 1
def partialEntry (x : Env) : Option Nat := reasonIf (x.t.active ≠ x.t.live) 4

/-- Reason 2: the tile number (R269, R298). -/
def badTile (x : Env) (tile : Nat) : Option Nat :=
  reasonIf (x.b.tileCount ≤ tile || !(((x.b.seat x.r.troupe).map (fun q => q.tiles.getLsbD tile)).getD false)) 2

/-- ACT_MISMATCH with reason 4 (R276). -/
def aheadTrap (x : Env) : Option TrapX :=
  if 64 ≤ sget 0 x.b.since x.r.troupe then
    some (trapAt causeActMismatch (Block.mismatchTval 4 (((x.b.seat x.r.troupe).map (·.entry)).getD 0)) x.t.active)
  else none

/-- MISALIGNED of an arena operand at offset `off` of region `r`. -/
def alignTrap (x : Env) (m off r : Nat) : Option TrapX :=
  if off % m ≠ 0 then some (arenaTrap ⟨2, causeMisaligned, 0, off⟩ r x.t.active) else none

/-- MISALIGNED of a number that names no arena word: a pattern offset, a byte count or a global address. -/
def alignNum (x : Env) (m v : Nat) : Option TrapX :=
  if v % m ≠ 0 then some (trapReason causeMisaligned 0 v x.t.active) else none

/-- An operand range of the arena: region, offset, bytes. -/
structure ArenaRange where
  region : Nat
  off    : Nat
  len    : Nat
  deriving DecidableEq, Repr

/-- Orders 1 and 3 of R228 over the operand ranges of an instruction (R297). -/
def rangeTrap (x : Env) (rs : List ArenaRange) : Option TrapX :=
  let fs := rs.filterMap (fun q => (arenaBounds (x.b.region q.region) 1 q.len q.off).map (fun f => (q.region, f)))
  (firstArena fs).map (fun f => arenaTrap f (((fs.find? (fun e => e.2 = f)).map (·.1)).getD 0) x.t.active)

/-! ## Operands that an instruction reads at issue -/

/-- Registers of the A group (R279). -/
def groupSize (rm w : Nat) : Nat := rm * 32 / w

/-- The A group as it stands (R279): 32-bit values of type `ta` under the operand's modifier (03 R74), register by register in
lane order, and the tag bytes. -/
def groupWords (ta : Nat) (m : Modifier) (t : Troupe) (a n : Nat) : List Word :=
  (List.range n).flatMap (fun i =>
    (List.range t.width).map (fun l => BitVec.ofNat 32 (applyMod ta m (t.readV (a + i) l).toNat)))
def groupTags (t : Troupe) (a n : Nat) : List Byte := (List.range n).flatMap (fun i => t.readTags (a + i))

/-- The s registers of src A and src B (R273). -/
def srcS (t : Troupe) (pair : Bool) (x : Src) : List Word :=
  if x.cls = .s then (if pair then [t.readS x.num.toNat, t.readS (x.num.toNat + 1)] else [t.readS x.num.toNat]) else []

/-- An act-stream instruction with what every kind keeps. -/
def plainInsn (i : Instr) (x : Env) (s : State) (svals : List Word) : MInsn :=
  { i := i, svals := svals, idx := [], grp := [], tags := [], counts := [], pages := [], step := 0, seq := s.nextSeq
    fence := sget 0 x.b.fences x.r.troupe, seed := x.t.seed, rnd := x.t.rnd }

namespace State

/-- An instruction enters the stream of the issuing member's act (R271). -/
def enterStream (s : State) (x : Env) (q : MInsn) : State :=
  s.bumpSeq.modBlock x.r.cluster x.r.block (fun b => b.enterInsn x.r.troupe q)

/-- The environment with the block as it stands. -/
def blockNow (s : State) (x : Env) : Env := { x with b := (s.block? x.r.cluster x.r.block).getD x.b }

end State

/-! ## Steps: MMA, MMA.SP, MMA.G and MLOOP -/

/-- The low and high s registers of a step's operands. -/
def stepA (t : Troupe) (o : Op) : Nat := (t.readS o.a.num.toNat).toNat
def stepB (t : Troupe) (o : Op) : Nat := (t.readS o.b.num.toNat).toNat
def stepB1 (t : Troupe) (o : Op) : Nat := (t.readS (o.b.num.toNat + 1)).toNat

/-- Whether A lies in a register group. -/
def aInRegs (code : Nat) (o : Op) : Bool := o.a.cls = .v && code ≠ 0x165

/-- MATRIX_SHAPE of a step (R297, R298). -/
def stepShape (code : Nat) (o : Op) (x : Env) : Option Nat :=
  let c := stepCtl o
  let rm := ((x.b.seat x.r.troupe).map (·.rm)).getD 16
  let rows := ((x.b.seat x.r.troupe).map (·.rows)).getD 16
  firstSome [notMember x, badTile x (o.dst.toNat % 16),
    reasonIf (256 < c.col + c.n || kLimit code c.ta c.tb < stepKbB code o * blockElemsOf c.tb) 3,
    partialEntry x,
    reasonIf ((aInRegs code o && x.t.nregs < o.a.num.toNat + groupSize rm x.t.width)
      || (code = 0x165 && x.t.width < rm)) 7,
    reasonIf (code = 0x164 && x.b.patSize < stepB1 x.t o + rows * c.kb * 16) 9]

/-- The A table and the B panel of step `i` of a dense or sparse op: their offsets. -/
def tableAtStep (o : Op) (x : Env) (i : Nat) : Nat :=
  let c := stepCtl o
  stepA x.t o + i * (((x.b.seat x.r.troupe).map (·.rows)).getD 16 * rowStride c.ta c.kb)
def panelAtStep (code : Nat) (o : Op) (x : Env) (i : Nat) : Nat :=
  let c := stepCtl o
  stepB x.t o + i * panelBytes c.tb c.n (stepKbB code o)

/-- MISALIGNED of a step (R281, R289). -/
def stepAlign (code : Nat) (o : Op) (x : Env) (i : Nat) : Option TrapX :=
  let c := stepCtl o
  firstSome [
    (if code = 0x165 then alignTrap x 8 (stepB1 x.t o) c.ra
     else if aInRegs code o then none else alignTrap x 8 (tableAtStep o x i) c.ra),
    alignTrap x 64 (panelAtStep code o x i) c.rb,
    (if code = 0x164 then alignNum x 64 (stepB1 x.t o) else none)]

/-- The operand ranges of a step. -/
def stepRanges (code : Nat) (o : Op) (x : Env) (i : Nat) : List ArenaRange :=
  let c := stepCtl o
  let rows := ((x.b.seat x.r.troupe).map (·.rows)).getD 16
  (if code = 0x165 then [⟨c.ra, 0, 0⟩] else if aInRegs code o then []
    else [⟨c.ra, tableAtStep o x i, rows * rowStride c.ta c.kb⟩])
    ++ [⟨c.rb, panelAtStep code o x i, panelBytes c.tb c.n (stepKbB code o)⟩]

/-- The trap of a step at issue (R297). -/
def stepTrap (code : Nat) (o : Op) (x : Env) (i : Nat) : Option TrapX :=
  firstSome [(stepShape code o x).map (shapeTrap x), aheadTrap x, stepAlign code o x i, rangeTrap x (stepRanges code o x i)]

/-- The instruction that MMA or MMA.SP enters. -/
def stepInsn (code : Nat) (i : Instr) (o : Op) (x : Env) (s : State) : MInsn :=
  let n := groupSize (((x.b.seat x.r.troupe).map (·.rm)).getD 16) x.t.width
  let q := plainInsn i x s (srcS x.t false o.a ++ srcS x.t (code = 0x164) o.b)
  if aInRegs code o then
    { q with
      grp := groupWords (stepCtl o).ta o.a.mod x.t o.a.num.toNat n, tags := groupTags x.t o.a.num.toNat n
      counts := Block.groupCounts x.t o.a.num.toNat n }
  else q

/-- MMA and MMA.SP (R285, R289). -/
def mmaBody (code : Nat) (i : Instr) (o : Op) (x : Env) (s : State) : Res :=
  match stepTrap code o x 0 with
  | some tr => .trap s tr
  | none => .done (s.enterStream x (stepInsn code i o x s))

/-- The index vector of MMA.G (R288), each index under the modifier of its operand (03 R74): a lane that the handler removed
from TMASK uses the no-entry row. -/
def gIndices (o : Op) (x : Env) : List Word :=
  let rm := ((x.b.seat x.r.troupe).map (·.rm)).getD 16
  let removed : Lanes := match x.t.rm with
    | some m => x.t.trapped &&& ~~~m
    | none => 0
  (List.range rm).map (fun l => if hasLane removed l then 0xFFFFFFFF else BitVec.ofNat 32 (applyMod 6 o.a.mod (x.t.readV o.a.num.toNat l).toNat))

/-- The index lanes whose rows lie outside the region, with their offsets (R288). -/
def gOutside (o : Op) (x : Env) : List (Nat × Nat) :=
  let c := stepCtl o
  let rs := rowStride c.ta c.kb
  let size := rgnSize (x.b.region c.ra)
  let idx := gIndices o x
  (List.range idx.length).filterMap (fun l =>
    let k := (idx.getD l 0).toNat
    let off := stepB1 x.t o + k * rs
    if k ≠ noEntry && size < off + rs then some (l, off) else none)

/-- MMA.G. The index lanes are checked after the validity of the regions. -/
def mmaGBody (o : Op) (x : Env) (s : State) : Res :=
  let c := stepCtl o
  let out := gOutside o x
  let lanes : Option TrapX :=
    match out with
    | [] => none
    | (_, off) :: _ => some (arenaTrap ⟨3, causeArenaBound, 2, off⟩ c.ra (maskOf (out.map (·.1))))
  let invalid : Bool := !rgnV (x.b.region c.ra) || !rgnV (x.b.region c.rb)
  match firstSome [(stepShape 0x165 o x).map (shapeTrap x), aheadTrap x, stepAlign 0x165 o x 0,
      (if invalid then rangeTrap x (stepRanges 0x165 o x 0) else none), lanes, rangeTrap x (stepRanges 0x165 o x 0)] with
  | some tr => .trap s tr
  | none => .done (s.enterStream x { plainInsn (.mmaG o) x s (srcS x.t true o.b) with idx := gIndices o x })

/-- The steps of MLOOP from step `i` on (R287), `n` of them. -/
def mloopFrom (o : Op) (x : Env) : Nat → Nat → State → Res
  | 0, _, s => .done (s.modTroupe x.r (fun t => { t with prog := 0 }))
  | n + 1, i, s =>
    let y := s.blockNow x
    match stepTrap 0x166 o y i with
    | some tr => .trap (s.modTroupe x.r (fun t => { t with prog := BitVec.ofNat 32 i })) tr
    | none =>
      mloopFrom o x n (i + 1)
        (s.enterStream y { plainInsn (.mloop o) y s (srcS x.t false o.a ++ srcS x.t false o.b) with step := i })

/-- MLOOP: a resumed one goes on at PROG (R105, R287). -/
def mloopBody (o : Op) (x : Env) (s : State) : Res :=
  let count := o.dst.toNat / 16 + 1
  let start := if x.t.rm.isSome then x.t.prog.toNat else 0
  mloopFrom o x (count - start) start s

/-! ## ACCZ, MCOMMIT, MWAIT, MCONV, MDISB, MFENCE -/

/-- ACCZ (R294). -/
def acczBody (o : Op) (x : Env) (s : State) : Res :=
  match firstSome [(firstSome [notMember x, badTile x (o.dst.toNat % 16), partialEntry x]).map (shapeTrap x), aheadTrap x] with
  | some tr => .trap s tr
  | none => .done (s.enterStream x (plainInsn (.accz o) x s []))

/-- Committed pending batches that a member may have (R325). -/
def batchLimit : Nat := 8

/-- MCOMMIT (14 R326). -/
def mcommitBody (o : Op) (x : Env) (s : State) : Res :=
  match firstSome [(firstSome [notMember x, partialEntry x]).map (shapeTrap x), aheadTrap x] with
  | some tr => .trap s tr
  | none =>
    if batchLimit ≤ x.b.committedOf x.r.troupe then .stall s
    else .done (s.enterStream x (plainInsn (.mcommit o) x s []))

/-- MWAIT n (14 R328). -/
def mwaitBody (o : Op) (x : Env) (s : State) : Res :=
  match x.b.mwait x.r.troupe o.b.imm11.toNat with
  | .done b => .done (s.setBlock x.r.cluster x.r.block b)
  | .wait => .wait s .mwait
  | .err b cause tval => .trap (s.setBlock x.r.cluster x.r.block b) (trapAt cause tval x.t.active)

/-- The tile mask of MCONV. -/
def convTiles (o : Op) (t : Troupe) : Nat := t.operand 6 o o.b 0

/-- MATRIX_SHAPE of MCONV (R271, R272). -/
def convShape (o : Op) (x : Env) : Option Nat :=
  let g : BitVec 64 := x.t.rawPair o.a 0
  let ts := troupesOf g
  let tiles := convTiles o x.t
  firstSome [partialEntry x,
    reasonIf (!g.getLsbD x.r.troupe || ts.length = 0 || 4 < ts.length || ts.any (fun t => x.b.troupes.length ≤ t)
      || (uniq (ts.map (· % 4))).length ≠ ts.length || x.b.isMember x.r.troupe) 5,
    reasonIf (tiles = 0 || 2 ^ x.b.tileCount ≤ tiles || 2 ^ 16 ≤ tiles) 6]

/-- MCONV (R272). A named troupe whose lanes have all exited can issue none (R275). An ACT_MISMATCH that the troupe is still
to receive stays with it (R275, R276). -/
def mconvBody (o : Op) (x : Env) (s : State) : Res :=
  match convShape o x with
  | some r => .trap s (shapeTrap x r)
  | none =>
    let g : BitVec 64 := x.t.rawPair o.a 0
    let t := x.r.troupe
    let p : PendMember := ⟨t, g, BitVec.ofNat 16 (convTiles o x.t), o.c.getLsbD 0, []⟩
    let gone := (troupesOf g).any (fun u => ((x.b.troupes[u]?).map (fun q => decide (q.live = 0))).getD false)
    .done (s.modBlock x.r.cluster x.r.block (fun b0 =>
      let b := b0.quitOver t
      let b1 := { b with
        pend := b.pend ++ [p]
        since := sset 0 b.since t 0 }
      if gone then b1.failConv [t] else b1.formActs (b1.pend.length + 1)))

/-- MDISB (R274). -/
def mdisbBody (_ : Op) (x : Env) (s : State) : Res :=
  let t := x.r.troupe
  let me := (x.b.actOf t).bind (fun k => (x.b.acts[k]?).bind (fun a => if a.dissolved then none else a.member? t))
  match firstSome [reasonIf me.isNone 1, partialEntry x, reasonIf ((me.map (·.dirty)).getD false) 10] with
  | some r => .trap s (shapeTrap x r)
  | none =>
    .done (s.modBlock x.r.cluster x.r.block (fun b => { b.leaveAct t with since := sset 0 b.since t 0 }))

/-- MFENCE (R296): it stalls while an arena store of the troupe is on its way. -/
def mfenceBody (_ : Op) (x : Env) (s : State) : Res :=
  if x.t.arenaBusy then .stall s
  else .done (s.modBlock x.r.cluster x.r.block (fun b => { b with fences := sset 0 b.fences x.r.troupe s.seq }))

/-! ## Global pages of asynchronous work (R217, R220) -/

/-- The 256 KiB pieces of address space that ranges (address, bytes) touch, each with its lowest touched address. -/
def pagePieces (rs : List (Nat × Nat)) : List (Nat × Nat) :=
  let all := rs.flatMap (fun r =>
    if r.2 = 0 then []
    else (List.range ((r.1 + r.2 - 1) / 2 ^ 18 + 1 - r.1 / 2 ^ 18)).map (fun i =>
      let p := r.1 / 2 ^ 18 + i
      (p, max r.1 (p * 2 ^ 18))))
  (uniq (all.map (·.1))).map (fun p =>
    (p, (all.filter (fun q => q.1 = p)).foldl (fun m q => min m q.2) ((p + 1) * 2 ^ 18)))

namespace State

/-- Translates and checks the pages that asynchronous work of a troupe touches: their leaves, or the fault (R218). -/
def pagesFor (s : State) (core ctx : Nat) (acc : Access) (want : Want) (rs : List (Nat × Nat)) : Except MemFault Pages :=
  let ps := pagePieces rs
  let (ok, bad) := reachLanes (List.range ps.length) (fun i => (ps.getD i (0, 0)).2)
    (fun i => s.checkAccess core ctx acc want 1 (ps.getD i (0, 0)).2 (pageChoice (ps.getD i (0, 0)).2))
  match firstFault bad with
  | some f => .error f
  | none => .ok (ok.map (fun r => (r.va / 2 ^ 18 * 2 ^ 18, r.leaf)))

/-- The lookups of asynchronous work for the pages that ranges touch (09 R216). -/
def lookRanges (s : State) (core ctx : Nat) (rs : List (Nat × Nat)) : State :=
  (pagePieces rs).foldl (fun s p => s.lookPage core ctx p.2) s

end State

/-- A leaf that pages hold for an address. -/
def pageLeaf (ps : Pages) (va : Nat) : Option Leaf := (ps.find? (fun p => p.1 = va / 2 ^ 18 * 2 ^ 18)).map (·.2)

/-- The physical key of an address under translations made at issue. -/
def State.pageKey (s : State) (ps : Pages) (va : Nat) : Nat :=
  match pageLeaf ps va with
  | some l => s.leafKey l va
  | none => va

/-! ## ACCST and PATLD -/

/-- The fields of the control word of ACCST (R293). -/
def accstType (o : Op) : Nat := let t := bitsOf (ctlWord o) 4 0; if t = 0 then 11 else t
def accstRnd (o : Op) : BitVec 3 := BitVec.ofNat 3 (bitsOf (ctlWord o) 7 5)
def accstFit (o : Op) : Bool := bitsOf (ctlWord o) 8 8 = 1
def accstGlobal (o : Op) : Bool := bitsOf (ctlWord o) 9 9 = 1
def accstRegion (o : Op) : Nat := bitsOf (ctlWord o) 13 10

/-- A tile window: first row, rows, first column, columns. -/
structure Window where
  row  : Nat
  rows : Nat
  col  : Nat
  cols : Nat
  deriving DecidableEq, Repr

/-- The window register of ACCST (R293). -/
def accstWindow (w : Nat) : Window := ⟨bitsOf w 7 0, bitsOf w 15 8 + 1, bitsOf w 23 16, 8 * (bitsOf w 31 24 + 1)⟩

/-- RS of ACCST (R294). -/
def accstStride (ty cols : Nat) : Nat :=
  if typeMx ty then rowStride ty (cols / 32) else cols * (typeBits ty / 8)

/-- The rows of ACCST in global memory, as ranges. -/
def accstRows (ty base : Nat) (w : Window) : List (Nat × Nat) :=
  let rs := accstStride ty w.cols
  (List.range w.rows).map (fun r => (wrap 64 ((base + r * rs : Nat) : Int), rs))

/-- The checks of ACCST before its global pages (R293, R294, R297). -/
def accstTrap (o : Op) (x : Env) : Option TrapX :=
  let ty := accstType o
  let w := accstWindow (stepB x.t o)
  let base := if accstGlobal o then (x.t.rawPair o.a 0).toNat else stepA x.t o
  firstSome [
    (firstSome [notMember x, badTile x (o.dst.toNat % 16), partialEntry x,
      reasonIf (128 < w.row + w.rows || 256 < w.col + w.cols || (typeMx ty && w.cols % 32 ≠ 0)) 8]).map (shapeTrap x),
    aheadTrap x,
    (if accstGlobal o then alignNum x 8 base else alignTrap x 8 base (accstRegion o)),
    (if accstGlobal o then none else rangeTrap x [⟨accstRegion o, base, w.rows * accstStride ty w.cols⟩])]

/-- ACCST (R294). -/
def accstBody (o : Op) (x : Env) (s : State) : Res :=
  match accstTrap o x with
  | some tr => .trap s tr
  | none =>
    let q := plainInsn (.accst o) x s (srcS x.t (accstGlobal o) o.a ++ srcS x.t false o.b)
    if accstGlobal o then
      let rows := accstRows (accstType o) (x.t.rawPair o.a 0).toNat (accstWindow (stepB x.t o))
      let s1 := s.lookRanges x.core x.ctx rows
      match s.pagesFor x.core x.ctx .store .plain rows with
      | .error f => .trap s1 (trapMem f .engine x.t.active)
      | .ok ps => .done (s1.enterStream x { q with pages := ps })
    else .done (s.enterStream x q)

/-- The operands of PATLD: pattern offset and byte count. -/
def patldCount (o : Op) (t : Troupe) : Nat := (t.readS o.srcC.num.toNat).toNat

/-- The checks of PATLD before its global pages (R291, R297). -/
def patldTrap (o : Op) (x : Env) : Option TrapX :=
  let off := stepB x.t o
  let n := patldCount o x.t
  firstSome [
    (firstSome [notMember x, partialEntry x, reasonIf (n = 0 || x.b.patSize < off + n) 9]).map (shapeTrap x),
    aheadTrap x, alignNum x 64 off, alignNum x 64 n, alignNum x 64 (x.t.rawPair o.a 0).toNat]

/-- PATLD (R291). -/
def patldBody (o : Op) (x : Env) (s : State) : Res :=
  match patldTrap o x with
  | some tr => .trap s tr
  | none =>
    let bytes := [((x.t.rawPair o.a 0).toNat, patldCount o x.t)]
    let s1 := s.lookRanges x.core x.ctx bytes
    match s.pagesFor x.core x.ctx .load .plain bytes with
    | .error f => .trap s1 (trapMem f .engine x.t.active)
    | .ok ps =>
      .done ((s1.flushCore x.core).enterStream x
        { plainInsn (.patld o) x s (srcS x.t true o.a ++ srcS x.t false o.b ++ srcS x.t false o.srcC) with pages := ps })

/-! ## Tiles and ACCLD (R295) -/

/-- The key of a tile element. -/
def tileKey (tile row col : Nat) : Nat := tile * 32768 + row * 256 + col

namespace Block

/-- A tile element: a poisoned one reads as nanc(6) (R270). -/
def elem (b : Block) (tile row col : Nat) : Nat :=
  let k := tileKey tile row col
  if sget false b.tilePoison k then nanc 6 .fp32 else (sget 0 b.tiles k).toNat

/-- Writes tile elements, given by key. -/
def writeTile (b : Block) (ws : List (Nat × Word)) : Block :=
  { b with
    tiles := ssets 0 b.tiles ws
    tilePoison := if b.tilePoison.isEmpty then b.tilePoison
      else ws.foldl (fun p w => sset false p w.1 false) b.tilePoison }

end Block

/-- The index of the undefined word that stands for a tile element in a step. -/
def tileChoice (key : Nat) : Nat := 2 ^ 38 + key

/-- A tile element as ACCLD reads it: undefined while two acts have named the tile, an operand of its batch has been written too
early, or a batch that names it is pending (R101, R272, R282); one that a copy has written since the tile became undefined is
defined. -/
def State.readElem (s : State) (b : Block) (free : Bool) (tile row col : Nat) : Nat :=
  let k := tileKey tile row col
  if free || b.brokenTiles.getLsbD tile || (b.undef.getLsbD tile && !sget false b.fixed k) then (s.freeWord (tileChoice k)).toNat
  else b.elem tile row col

/-- The window of ACCLD: first row, rows, first column; reason 8 asks for zero in its other bits. -/
def accldWindow (w : Nat) : Window := ⟨bitsOf w 6 0, bitsOf w 12 8 + 1, bitsOf w 23 16, 0⟩

/-- MATRIX_SHAPE of ACCLD (R295). -/
def accldShape (o : Op) (x : Env) (v : Nat) : Option Nat :=
  let ty := if fnType o.c = 0 then 11 else fnType o.c
  let w := accldWindow v
  firstSome [reasonIf (x.b.tileCount ≤ bitsOf o.c.toNat 3 0) 2,
    reasonIf (x.t.nregs < o.dst.toNat + w.rows) 7,
    reasonIf (bitsOf v 7 7 ≠ 0 || bitsOf v 15 13 ≠ 0 || bitsOf v 31 24 ≠ 0 || 128 < w.row + w.rows
      || 256 < w.col + x.t.width * eplOf ty) 8]

/-- The rounding of element `e` of register `i` in a lane of ACCLD (R295). -/
def accldRnd (o : Op) (t : Troupe) (epl i : Nat) (e : Nat × Nat) : Rnd :=
  t.rounding (fnRnd o.c) (((t.wid e.1).toNat * 2 ^ 13 + i * epl + e.2) % 2 ^ 64)

/-- ACCLD. -/
def accldBody (o : Op) (x : Env) (s : State) : Res :=
  let ty := if fnType o.c = 0 then 11 else fnType o.c
  let t := x.t
  let v := t.operand 6 o o.a 0
  match (if t.rm = some 0 then none else accldShape o x v) with
  | some r => .trap s (shapeTrap x r)
  | none =>
    let w := accldWindow v
    let T := fmtOf ty
    let epl := eplOf ty
    let sel := t.selected o.guard
    let tile := bitsOf o.c.toNat 3 0
    let free := x.b.tilePending tile
    let elem (i : Nat) (e : Nat × Nat) : Nat := s.readElem x.b free tile (w.row + i) (w.col + e.1 * epl + e.2)
    let lanes := lanesOf t.width sel
    let inputs := (List.range w.rows).flatMap (fun i =>
      lanes.flatMap (fun l => (List.range epl).map (fun j => decodeF .fp32 (elem i (l, j)))))
    let d := o.dst.toNat
    if ty = 11 then
      .done (s.setTroupe x.r (t.produceV o.w d sel
        ((List.range w.rows).map (fun i l => BitVec.ofNat 32 (elem i (l, 0)))) []))
    else if typeMx ty then
      let outs := (List.range w.rows).map (fun i => overBlocks t epl sel (fun _ es =>
        quantBlock T (o.c.getLsbD 4) (es.map (fun e => (decodeF .fp32 (elem i e), accldRnd o t epl i e)))))
      let regs := outs.map (fun out => let tab := tabulate t.width (out.lane ty epl); fun l => BitVec.ofNat 32 (tab l))
      let tags := ((List.range w.rows).zip outs).flatMap (fun p => p.2.tags.map (fun b => (32 * p.1 + b.1, b.2)))
      .done (s.setTroupe x.r (((t.amaxIn inputs).stickyOvf (outs.any (·.ovf))).produceV o.w d sel regs tags))
    else
      let reg (i l : Nat) : Word := BitVec.ofNat 32 (joinElems 16 ((List.range epl).map (fun j =>
        (convF .fp32 T (accldRnd o t epl i (l, j)) (elem i (l, j))).1)))
      .done (s.setTroupe x.r ((t.amaxIn inputs).produceV o.w d sel ((List.range w.rows).map reg) []))

/-! ## Meanings -/

def execMconv (o : Op) (s : State) : Host.Outcome State Fault Refusal := issueOp 0x160 (.mconv o) o (mconvBody o) s
def execMdisb (o : Op) (s : State) : Host.Outcome State Fault Refusal := issueOp 0x161 (.mdisb o) o (mdisbBody o) s
def execMfence (o : Op) (s : State) : Host.Outcome State Fault Refusal := issueOp 0x162 (.mfence o) o (mfenceBody o) s
def execMma (o : Op) (s : State) : Host.Outcome State Fault Refusal :=
  issueOp 0x163 (.mma o) o (mmaBody 0x163 (.mma o) o) s
def execMmaSp (o : Op) (s : State) : Host.Outcome State Fault Refusal :=
  issueOp 0x164 (.mmaSp o) o (mmaBody 0x164 (.mmaSp o) o) s
def execMmaG (o : Op) (s : State) : Host.Outcome State Fault Refusal := issueOp 0x165 (.mmaG o) o (mmaGBody o) s
def execMloop (o : Op) (s : State) : Host.Outcome State Fault Refusal := issueOp 0x166 (.mloop o) o (mloopBody o) s
def execAccz (o : Op) (s : State) : Host.Outcome State Fault Refusal := issueOp 0x167 (.accz o) o (acczBody o) s
def execAccld (o : Op) (s : State) : Host.Outcome State Fault Refusal := issueOp 0x168 (.accld o) o (accldBody o) s
def execAccst (o : Op) (s : State) : Host.Outcome State Fault Refusal := issueOp 0x169 (.accst o) o (accstBody o) s
def execPatld (o : Op) (s : State) : Host.Outcome State Fault Refusal := issueOp 0x16A (.patld o) o (patldBody o) s
def execMcommit (o : Op) (s : State) : Host.Outcome State Fault Refusal := issueOp 0x183 (.mcommit o) o (mcommitBody o) s
def execMwait (o : Op) (s : State) : Host.Outcome State Fault Refusal := issueOp 0x184 (.mwait o) o (mwaitBody o) s

end Sys2Proof.Machine
end

