-- ==== Sys2Proof/Machine/Counter.lean ====
section
/-! DEFINITION. The counter class 0xD (16 R359 to R375): transaction barriers, barrier tags and CNTRD. -/

namespace Sys2Proof.Machine

/-! ## The transaction barrier (R359, R360) -/

/-- A transaction barrier; `err` holds POISON, FAULT, OVERLAP and CANCEL from its lowest bit, `rsv` bits [127:80]. -/
structure Barrier where
  phase  : Nat
  arv    : Nat
  sec    : Nat
  reload : Nat
  err    : Nat
  rsv    : Nat
  deriving DecidableEq, Repr

namespace Barrier

/-- The fields of a barrier's 128 bits. -/
def ofNat (x : Nat) : Barrier :=
  ⟨bitsOf x 3 0, bitsOf x 23 4, bitsOf x 55 24, bitsOf x 75 56, bitsOf x 79 76, bitsOf x 127 80⟩

/-- The 128 bits of a barrier. -/
def toNat (b : Barrier) : Nat :=
  b.phase % 2 ^ 4 + 2 ^ 4 * (b.arv % 2 ^ 20) + 2 ^ 24 * (b.sec % 2 ^ 32) + 2 ^ 56 * (b.reload % 2 ^ 20)
    + 2 ^ 76 * (b.err % 2 ^ 4) + 2 ^ 80 * (b.rsv % 2 ^ 48)

/-- The completion step of R360. -/
def step (b : Barrier) : Barrier :=
  if b.arv = 0 && b.sec = 0 then { b with phase := (b.phase + 1) % 16, arv := b.reload } else b

/-- Sets an error bit. -/
def setErr (b : Barrier) (k : Nat) : Barrier := { b with err := b.err ||| 2 ^ k }

/-- One transfer unit is counted down; one that finds none sets FAULT (R369). -/
def settleUnit (b : Barrier) : Barrier :=
  (if b.sec = 0 then b.setErr 1 else { b with sec := b.sec - 1 }).step

/-- POISON, FAULT or CANCEL is set (R366). -/
def failed (b : Barrier) : Bool := b.err &&& 0b1011 ≠ 0

end Barrier

/-- The error bits, by their place. -/
def errPoison : Nat := 0
def errFault : Nat := 1
def errOverlap : Nat := 2
def errCancel : Nat := 3

/-- Where a barrier lies. -/
inductive BarrierAt where
  | arena (cluster block region off : Nat)
  | global (key : Nat)
  deriving DecidableEq, Repr

namespace State

/-- The barrier as it stands at its home. -/
def readBarrier (s : State) (at_ : BarrierAt) : Barrier :=
  match at_ with
  | .arena c b r off =>
    match s.block? c b with
    | some x => Barrier.ofNat (x.arenaNat (presentAt (x.region r) + off) 16)
    | none => Barrier.ofNat 0
  | .global k => Barrier.ofNat (s.rdNat k 16)

/-- Writes a barrier at its home. -/
def writeBarrier (s : State) (at_ : BarrierAt) (b : Barrier) : State :=
  match at_ with
  | .arena c i r off => s.modBlock c i (fun x => x.wrArena (presentAt (x.region r) + off) (bytesOf 16 b.toNat) s.seq .engine)
  | .global k => s.wrList k (bytesOf 16 b.toNat)

end State

/-! ## Barrier operands (R361, R362) -/

/-- Whether the barrier operand of an op names the arena, its region, and its address or offset. -/
def barArena (o : Op) : Bool := o.c.getLsbD 4
def barRegion (o : Op) : Nat := bitsOf o.c.toNat 3 0
def barAddr (o : Op) (t : Troupe) : Nat := if barArena o then (t.readS o.a.num.toNat).toNat else (t.rawPair o.a 0).toNat

/-- TVAL bits that name a barrier (R366). -/
def barTval (o : Op) (t : Troupe) : Nat :=
  if barArena o then barAddr o t + 2 ^ 32 * barRegion o else barAddr o t % 2 ^ 57

/-- A global barrier's address: alignment, translation as a store, HOME and format (R359, R362). -/
def State.barrierKey (s : State) (core ctx va : Nat) : Except MemFault (Leaf × Nat) :=
  match s.checkAccess core ctx .store .any 16 va (pageChoice va) with
  | .error f => .error f
  | .ok (l, k) =>
    if l.home = 2 then .error ⟨causeAccessFault, 8, va, false⟩
    else if l.home = 1 && l.member ≠ s.member then .error ⟨causeAccessFault, 9, va, false⟩
    else if l.fmt ≠ 0 then .error ⟨causeTypeMismatch, 1, va, false⟩
    else .ok (l, k)

/-- The checks of an arena barrier: R228 orders 1 to 3, and a flat region. -/
def arenaBarrier (b : Block) (r off : Nat) : Option ArenaFault :=
  orFault (arenaBounds (b.region r) 16 16 off) (fun _ =>
    if rgnPlanar (b.region r) then some ⟨4, causeTypeMismatch, 5, off⟩ else none)

/-- Finds the barrier of an op: the state in which its core's L1 holds none of it, or the trap with the state of its page's
lookup. -/
def State.findBarrier (s : State) (o : Op) (x : Env) : Except (State × TrapX) (BarrierAt × State) :=
  let a := barAddr o x.t
  if barArena o then
    match arenaBarrier x.b (barRegion o) a with
    | some f => .error (s, arenaTrap f (barRegion o) x.t.active)
    | none => .ok (.arena x.r.cluster x.r.block (barRegion o) a, s)
  else
    match s.barrierKey x.core x.ctx a with
    | .error f => .error (s.lookFaults x.core x.ctx [f], trapMem f .store x.t.active)
    | .ok (_, k) => .ok (.global k, (s.lookPage x.core x.ctx a).yieldLines x.core [k])

/-- BARRIER_PHASE at a transaction barrier (R371). -/
def phaseTrap (o : Op) (x : Env) (reason : Nat) : TrapX :=
  trapReason causeBarrierPhase reason (barTval o x.t) x.t.active

/-- A value operand (R361). -/
def counterValue (o : Op) (t : Troupe) : Nat := t.operand 6 o o.b 0

/-! ## Transaction barrier instructions (R363 to R367) -/

def tbinitBody (o : Op) (x : Env) (s : State) : Res :=
  let n := counterValue o x.t
  match s.findBarrier o x with
  | .error (s1, tr) => .trap s1 tr
  | .ok (p, s1) =>
    if n = 0 || 2 ^ 20 ≤ n then .trap s1 (phaseTrap o x 1)
    else .done (s1.writeBarrier p ⟨0, n, 0, n, 0, 0⟩)

def tbexpectBody (o : Op) (x : Env) (s : State) : Res :=
  let n := counterValue o x.t
  match s.findBarrier o x with
  | .error (s1, tr) => .trap s1 tr
  | .ok (p, s1) =>
    let b := s1.readBarrier p
    if 2 ^ 32 ≤ b.sec + n then .trap s1 (phaseTrap o x 2)
    else .done (s1.writeBarrier p { b with sec := b.sec + n }.step)

/-- The scope of a barrier as a release or acquire: block for the arena, device for memory (R368). -/
def barScope (o : Op) : Nat := if barArena o then 1 else 3

/-- TBARRIVE: a release at the barrier's scope. -/
def tbarriveBody (o : Op) (x : Env) (s : State) : Res :=
  let n := counterValue o x.t
  let sec := o.c.getLsbD 5
  match s.findBarrier o x with
  | .error (s1, tr) => .trap s1 tr
  | .ok (p, s1) =>
    let s2 := s1.releaseAt x.core (barScope o)
    let b := s2.readBarrier p
    let k := if sec then n else max n 1
    if (if sec then b.sec else b.arv) < k then .trap s2 (phaseTrap o x 3)
    else
      let b1 := if sec then { b with sec := b.sec - k } else { b with arv := b.arv - k }
      .done ((s2.writeBarrier p b1.step).setTroupe x.r
        (x.t.produceS false o.w true o.dst.toNat [BitVec.ofNat 32 b.phase]))

/-- COPY_POISON (R366). -/
def copyPoisonTrap (o : Op) (x : Env) (b : Barrier) : TrapX :=
  trapReason causeCopyPoison b.err (barTval o x.t) x.t.active

/-- A barrier's place, as a complete copy names it. -/
def BarrierAt.place : BarrierAt → Nat × Nat
  | .arena _ _ r off => (r + 1, off)
  | .global k => (0, k)

/-- The troupe has observed the complete copies at a barrier (R368; 13 R322). -/
def State.noteLanded (s : State) (x : Env) (p : BarrierAt) : State :=
  if x.b.landed.any (fun c => c.bar = p.place) then
    s.bumpSeq.modBlock x.r.cluster x.r.block (fun b => { b with landed := b.landed.map (fun c =>
      if c.bar = p.place then { c with seen := (x.r.troupe, s.nextSeq) :: c.seen } else c) })
  else s

/-- Reads the barrier for TBWAIT and TBTEST: `passed` runs when the phase asked for is over, `open_` when it is not; an
error of a finished phase traps. -/
def observe (o : Op) (x : Env) (s : State) (passed open_ : State → Res) : Res :=
  match s.findBarrier o x with
  | .error (s1, tr) => .trap s1 tr
  | .ok (p, s1) =>
    let b := s1.readBarrier p
    if b.phase = counterValue o x.t % 16 then open_ s1
    else if b.failed then .trap s1 (copyPoisonTrap o x b)
    else passed ((s1.acquireAt x.core (barScope o)).noteLanded x p)

/-- TBWAIT: an acquire at the barrier's scope. -/
def tbwaitBody (o : Op) (x : Env) (s : State) : Res := observe o x s .done (fun s => .wait s .tbwait)

/-- TBTEST's predicate in every active lane. -/
def testResult (o : Op) (x : Env) (v : Bool) (s : State) : State :=
  s.modTroupe x.r (fun t => t.writeP o.dst.toNat x.t.active (if v then BitVec.allOnes 128 else 0))

/-- TBTEST: it waits in a deterministic launch. -/
def tbtestBody (o : Op) (x : Env) (s : State) : Res :=
  observe o x s (fun s => .done (testResult o x true s))
    (fun s => if x.det then .wait s .tbtest else .done (testResult o x false s))

/-! ## Barrier tags (R372 to R374) -/

/-- A troupe's record at the tags of its cluster. -/
def tagKey (r : TRef) : Nat := r.block * 64 + r.troupe

/-- The tag of an op, and its state. -/
def opTag (o : Op) : Nat := bitsOf o.c.toNat 2 0
def Cluster.tag (cl : Cluster) (n : Nat) : Tag := (cl.tags[n]?).getD ⟨0, 0, [], []⟩

/-- The declared troupes of a cluster. -/
def Cluster.troupeCount (cl : Cluster) : Nat := cl.blocks.foldl (fun n b => n + b.troupes.length) 0

/-- BARRIER_PHASE at a tag. -/
def tagTrap (o : Op) (x : Env) (reason : Nat) : TrapX := trapReason causeBarrierPhase reason (opTag o) x.t.active

/-- The reason for which BARA traps (R371, R373). -/
def baraReason (o : Op) (x : Env) : Option Nat :=
  let total := counterValue o x.t
  let g := x.cl.tag (opTag o)
  let me := tagKey x.r
  firstSome [reasonIf (total = 0 || x.cl.troupeCount < total) 5,
    reasonIf (g.arv.contains me && !g.done.contains me) 6,
    reasonIf (x.t.active ≠ x.t.live) 8,
    reasonIf (g.count ≠ 0 && total ≠ g.total) 4]

/-- The arrival of a troupe at a tag (R373). -/
def Tag.arrive (g : Tag) (me total : Nat) : Tag :=
  let tot := if g.count = 0 then total else g.total
  let arv := me :: g.arv.filter (fun u => u ≠ me)
  let done := g.done.filter (fun u => u ≠ me)
  if g.count + 1 = tot then ⟨0, tot, arv, arv⟩ else ⟨g.count + 1, tot, arv, done⟩

/-- BARA: a release at cluster scope. -/
def baraBody (o : Op) (x : Env) (s : State) : Res :=
  match baraReason o x with
  | some r => .trap s (tagTrap o x r)
  | none =>
    .done ((s.releaseAt x.core 2).modCluster x.r.cluster (fun cl =>
      { cl with tags := cl.tags.set (opTag o) ((cl.tag (opTag o)).arrive (tagKey x.r) (counterValue o x.t)) }))

/-- BARW: an acquire at cluster scope. -/
def barwBody (o : Op) (x : Env) (s : State) : Res :=
  let g := x.cl.tag (opTag o)
  let me := tagKey x.r
  match firstSome [reasonIf (!g.arv.contains me) 7, reasonIf (x.t.active ≠ x.t.live) 8] with
  | some r => .trap s (tagTrap o x r)
  | none =>
    if g.done.contains me then
      .done ((s.acquireAt x.core 2).modCluster x.r.cluster (fun cl =>
        { cl with tags := cl.tags.set (opTag o) { g with arv := g.arv.filter (fun u => u ≠ me) } }))
    else .wait s (.barw (opTag o))

/-! ## CNTRD (R375) -/

/-- The counters of R375. -/
def isCounter (n : Nat) : Bool := n ≤ 4 || (0x10 ≤ n && n ≤ 0x16)

/-- The value of a counter: in a deterministic launch all but RETIRED read 0. -/
def counterOf (x : Env) (s : State) (n : Nat) : Nat :=
  if x.det && n ≠ 0 then 0
  else match n with
    | 0 => x.t.counters.retired
    | 1 => x.t.counters.runs
    | 2 => x.t.counters.hold
    | 3 => x.t.counters.readyw
    | 4 => x.t.counters.spills
    | _ => sget 0 s.coreCount (x.core * 32 + n)

def cntrdBody (o : Op) (x : Env) (s : State) : Res :=
  let n := counterValue o x.t
  if !isCounter n then
    .trap s (trapAt causeIllegalOp ((if o.ext.isSome then x.c.hiExt else x.c.hi).setWidth 64) x.t.active)
  else
    let v : DWord := BitVec.ofNat 64 (counterOf x s n)
    .done (s.setTroupe x.r (x.t.produceS false o.w true o.dst.toNat [v.extractLsb' 0 32, v.extractLsb' 32 32]))

/-! ## Meanings -/

def execTbinit (o : Op) (s : State) : Host.Outcome State Fault Refusal := issueOp 0x1A0 (.tbinit o) o (tbinitBody o) s
def execTbexpect (o : Op) (s : State) : Host.Outcome State Fault Refusal := issueOp 0x1A1 (.tbexpect o) o (tbexpectBody o) s
def execTbarrive (o : Op) (s : State) : Host.Outcome State Fault Refusal := issueOp 0x1A2 (.tbarrive o) o (tbarriveBody o) s
def execTbwait (o : Op) (s : State) : Host.Outcome State Fault Refusal := issueOp 0x1A3 (.tbwait o) o (tbwaitBody o) s
def execTbtest (o : Op) (s : State) : Host.Outcome State Fault Refusal := issueOp 0x1A4 (.tbtest o) o (tbtestBody o) s
def execBara (o : Op) (s : State) : Host.Outcome State Fault Refusal := issueOp 0x1A5 (.bara o) o (baraBody o) s
def execBarw (o : Op) (s : State) : Host.Outcome State Fault Refusal := issueOp 0x1A6 (.barw o) o (barwBody o) s
def execCntrd (o : Op) (s : State) : Host.Outcome State Fault Refusal := issueOp 0x1A7 (.cntrd o) o (cntrdBody o) s

/-- TBWAIT_RELEASE (R366, R367). -/
def execTbwaitRelease (r : TRef) (s : State) : Host.Outcome State Fault Refusal :=
  match s.waitingAt r with
  | some (.tbwait, _, _, _) => .next (s.lookAgain r tbwaitBody)
  | some (.tbtest, _, _, _) => .next (s.lookAgain r tbtestBody)
  | _ => .next s

/-- BARW_RELEASE (R374). -/
def execBarwRelease (r : TRef) (s : State) : Host.Outcome State Fault Refusal :=
  match s.waitingAt r with
  | some (.barw _, _, _, _) => .next (s.lookAgain r barwBody)
  | _ => .next s

end Sys2Proof.Machine
end

