-- ==== Sys2Proof/Machine/Copy.lean ====
section
/-! DEFINITION. The copy queue as copies issue (13 R301 to R320): the descriptor, its checks, the extents and addresses of a
copy, its overlap, and entry into the queue. What the engine writes is in Machine/CopyUnit.lean. -/

namespace Sys2Proof.Machine

/-! ## The descriptor (R303, R304) -/

/-- The fields of R303. -/
structure CopyDesc where
  sk    : Nat
  dk    : Nat
  ik    : Nat
  bk    : Nat
  stype : Nat
  dtype : Nat
  xf    : Nat
  tr    : Bool
  rb    : Bool
  fit   : Bool
  rnd   : BitVec 3
  delta : Int
  seedd : Nat
  saddr : Nat
  daddr : Nat
  iaddr : Nat
  baddr : Nat
  e0    : Nat
  e1    : Nat
  e2    : Nat
  p0    : Nat
  p1    : Nat
  s1    : Nat
  s2    : Nat
  d1    : Nat
  d2    : Nat
  deriving DecidableEq, Repr

/-- The descriptor that 64 bytes hold. -/
def copyDesc (bytes : List Byte) : CopyDesc :=
  let x := ofBytes bytes
  let f (hi lo : Nat) : Nat := bitsOf x hi lo
  { sk := f 1 0, dk := f 3 2, ik := f 4 4, bk := f 5 5, stype := f 10 6, dtype := f 15 11, xf := f 17 16
    tr := f 18 18 = 1, rb := f 19 19 = 1, fit := f 20 20 = 1, rnd := BitVec.ofNat 3 (f 23 21)
    delta := toSigned 8 (f 31 24), seedd := f 63 32, saddr := f 127 64, daddr := f 191 128, iaddr := f 255 192
    baddr := f 319 256, e0 := f 335 320, e1 := f 351 336, e2 := f 367 352, p0 := f 375 368, p1 := f 383 376
    s1 := f 415 384, s2 := f 447 416, d1 := f 479 448, d2 := f 511 480 }

/-- The fields of an arena address word, and of a tile address word (R304). -/
def adrOff (a : Nat) : Nat := bitsOf a 31 0
def adrRegion (a : Nat) : Nat := bitsOf a 35 32
def adrTile (a : Nat) : Nat := bitsOf a 3 0
def adrRow (a : Nat) : Nat := bitsOf a 10 4
def adrCol (a : Nat) : Nat := bitsOf a 18 11

/-- The bits that an address word of a kind may use. -/
def adrOk (kind a : Nat) : Bool :=
  match kind with
  | 0 => a < 2 ^ 57
  | 1 => a < 2 ^ 36
  | _ => a < 2 ^ 19

namespace CopyDesc

/-! ## Extents and rows (R305, R307, R308, R314) -/

def f0 (d : CopyDesc) : Nat := if d.tr then d.e1 else d.e0
def f1 (d : CopyDesc) : Nat := if d.tr then d.e0 else d.e1
def de0 (d : CopyDesc) : Nat := d.f0 + d.p0
def de1 (d : CopyDesc) : Nat := d.f1 + d.p1

/-- Bytes of a plain element. -/
def width (ty : Nat) : Nat := typeBits ty / 8

/-- Bytes that a row of `n` elements occupies on a side of a kind (R307). -/
def rowBytes (kind ty n : Nat) : Nat :=
  if !typeMx ty then n * width ty
  else if kind = 1 then rowStride ty (n / 32)
  else n / 32 * blockBytesOf ty

def srcRow (d : CopyDesc) : Nat := rowBytes d.sk d.stype d.e0
def dstRow (d : CopyDesc) : Nat := rowBytes d.dk d.dtype d.de0

/-- KB and PB of the panel that RB asks for (R308). -/
def panelKb (d : CopyDesc) : Nat := d.de0 / blockElemsOf d.dtype
def panel (d : CopyDesc) : Nat := panelBytes d.dtype d.de1 d.panelKb

/-- Transfer units of a destination row, and of the copy (R314). -/
def rowUnits (d : CopyDesc) : Nat := (d.dstRow + 63) / 64
def units (d : CopyDesc) : Nat := if d.rb then d.panel / 64 else d.de1 * d.e2 * d.rowUnits

end CopyDesc

/-! ## COPY_DESC (R313) -/

/-- Whether R306 lists a transform with its types. -/
def xfOk (xf s d : Nat) : Bool :=
  let ok (t : Nat) : Bool := 1 ≤ t && t ≤ 17
  ok s && ok d &&
  match xf with
  | 0 => s = d
  | 1 => (typeFloat s || typeMx s) && typeMx d
  | 2 => typeMx s && typeFloat d
  | _ => typeMx s && s = d

/-- Whether R306 allows a transposition. -/
def trOk (xf s : Nat) : Bool :=
  match xf with
  | 0 => !typeMx s && typeBits s ≤ 32
  | 3 => false
  | _ => true

/-- An accumulator side keeps R310: `kind` 2 on that side, its type, address, rows, columns and strides. -/
def accOk (tiles kind ty a rows cols e2 st1 st2 : Nat) : Bool :=
  kind ≠ 2 || (adrTile a < tiles && adrRow a + rows ≤ 128 && adrCol a + cols ≤ 256 && ty = 11 && e2 = 1 && st1 = 0 && st2 = 0)

/-- A planar destination takes whole words (R230, reason 8): every row that the strides, or the index vector of COPYS, can
place starts at one. -/
def planarOk (b : Block) (kind : Nat) (d : CopyDesc) : Bool :=
  let g := b.region (adrRegion d.daddr)
  let w := rgnWord g
  d.dk ≠ 1 || !rgnV g || !rgnPlanar g
    || (adrOff d.daddr % w = 0 && (d.rb || (d.dstRow % w = 0 && ((kind ≠ 2 && d.de1 ≤ 1) || d.d1 % w = 0) && (d.e2 ≤ 1 || d.d2 % w = 0))))

/-- The lowest reason for which a descriptor traps COPY_DESC at step 3 (R312, R313); `kind` is 0 COPY, 1 COPYG, 2 COPYS. -/
def copyReason (b : Block) (kind : Nat) (d : CopyDesc) : Option Nat :=
  firstSome [
    reasonIf (d.sk = 3 || d.dk = 3 || !adrOk d.sk d.saddr || !adrOk d.dk d.daddr || !adrOk d.bk d.baddr
      || (if kind = 0 then d.ik ≠ 0 || d.iaddr ≠ 0 else !adrOk d.ik d.iaddr)) 1,
    reasonIf (!xfOk d.xf d.stype d.dtype) 2,
    reasonIf (d.tr && (kind ≠ 0 || !trOk d.xf d.stype)) 3,
    reasonIf (d.rb && (kind = 2 || d.dk ≠ 1 || !(typeMx d.dtype || d.dtype = 9 || d.dtype = 10) || d.e2 ≠ 1 || d.d1 ≠ 0
      || d.d2 ≠ 0 || (!typeMx d.dtype && d.de0 % 16 ≠ 0))) 4,
    reasonIf (d.e0 = 0 || d.e1 = 0 || d.e2 = 0 || (typeMx d.stype && d.e0 % 32 ≠ 0) || (typeMx d.dtype && d.de0 % 32 ≠ 0)
      || 65535 < d.de0 || 65535 < d.de1) 5,
    reasonIf (!accOk b.tileCount d.sk d.stype d.saddr d.e1 d.e0 d.e2 d.s1 d.s2
      || !accOk b.tileCount d.dk d.dtype d.daddr d.de1 d.de0 d.e2 d.d1 d.d2) 6,
    reasonIf (2 ^ 24 ≤ d.units) 7,
    reasonIf (!planarOk b kind d) 8,
    reasonIf (d.rnd = 5 || d.rnd = 6 || (d.fit && d.xf ≠ 1) || (d.delta ≠ 0 && d.xf ≠ 3)) 9,
    reasonIf (kind ≠ 0 && (d.e2 ≠ 1 || (if kind = 1 then d.sk = 2 else d.dk = 2 || d.p1 ≠ 0))) 10]

/-! ## Row addresses (R305, R309) -/

/-- One side of a copy: its kind, type, address word, rows and planes, strides, bytes in a row, and whether the index
vector places its rows. -/
structure CopySide where
  kind    : Nat
  ty      : Nat
  addr    : Nat
  rows    : Nat
  planes  : Nat
  st1     : Nat
  st2     : Nat
  row     : Nat
  indexed : Bool
  deriving DecidableEq, Repr

/-- The source side and the destination side of a copy; with RB the destination is one row, the panel. -/
def srcSide (kind : Nat) (d : CopyDesc) : CopySide :=
  ⟨d.sk, d.stype, d.saddr, d.e1, d.e2, d.s1, d.s2, d.srcRow, kind = 1⟩
def dstSide (kind : Nat) (d : CopyDesc) : CopySide :=
  if d.rb then ⟨d.dk, d.dtype, d.daddr, 1, 1, 0, 0, d.panel, false⟩
  else ⟨d.dk, d.dtype, d.daddr, d.de1, d.e2, d.d1, d.d2, d.dstRow, kind = 2⟩

namespace CopySide

/-- The first byte that a row's addresses count from. -/
def base (x : CopySide) : Nat := if x.kind = 1 then adrOff x.addr else x.addr

/-- The start of row (i1, i2): a global address is reduced modulo 2^64; none for a row that the index vector leaves out. -/
def start (x : CopySide) (idx : List Word) (i1 i2 : Nat) : Option Nat :=
  let cut (a : Nat) : Nat := if x.kind = 0 then a % 2 ^ 64 else a
  if x.indexed then
    let k := (idx.getD i1 0xFFFFFFFF).toNat
    if k = noEntry then none else some (cut (x.base + k * x.st1))
  else some (cut (x.base + i1 * x.st1 + i2 * x.st2))

/-- The starts of all rows. -/
def starts (x : CopySide) (idx : List Word) : List Nat :=
  (List.range x.planes).flatMap (fun i2 => (List.range x.rows).filterMap (fun i1 => x.start idx i1 i2))

/-- Whether a row may start at an address (R205, R307). -/
def aligned (x : CopySide) (a : Nat) : Bool :=
  if x.kind = 2 then true
  else if !typeMx x.ty then a % CopyDesc.width x.ty = 0
  else if x.kind = 1 then a % 8 = 0
  else
    let off := a % 256
    off % blockBytesOf x.ty = 0 && off / blockBytesOf x.ty < lineBlocks (fmtOf x.ty)

/-- The bytes from a row's start to its last: the rows of typed lines skip the padding of FP6 lines. -/
def span (x : CopySide) (a : Nat) : Nat :=
  if x.kind = 0 && typeMx x.ty then
    let bb := blockBytesOf x.ty
    let per := lineBlocks (fmtOf x.ty)
    let last := a % 256 / bb + x.row / bb - 1
    last / per * 256 + last % per * bb + bb - a % 256
  else x.row

end CopySide

/-! ## Traps of a copy at issue -/

/-- COPY_DESC and COPY_OVERLAP: the descriptor's offset in TVAL (R313, R320). -/
def descTrap (x : Env) (cause reason off : Nat) : TrapX := trapReason cause reason off x.t.active

/-- A trap at an address of a side: MISALIGNED or ARENA_BOUND (R218, R228). -/
def sideTrap (x : Env) (kind cause reason region a : Nat) : TrapX :=
  if kind = 1 then arenaTrap ⟨0, cause, reason, a⟩ region x.t.active else trapReason cause reason a x.t.active

/-- MISALIGNED of the first row of a side that starts at a wrong address. -/
def sideAlign (x : Env) (q : CopySide) (idx : List Word) : Option TrapX :=
  ((q.starts idx).find? (fun a => !q.aligned a)).map (fun a => sideTrap x q.kind causeMisaligned 0 (adrRegion q.addr) a)

/-- MISALIGNED of an address word of its own alignment. -/
def wordAlign (x : Env) (kind m a : Nat) : Option TrapX :=
  let v := if kind = 1 then adrOff a else a
  if v % m ≠ 0 then some (sideTrap x kind causeMisaligned 0 (adrRegion a) v) else none

/-- The lowest start and the end of some rows of `n` bytes. -/
def hullOf (rows : List (Nat × Nat)) : Option (Nat × Nat) :=
  match rows with
  | [] => none
  | r :: rs => some (rs.foldl (fun m q => min m q.1) r.1, rs.foldl (fun m q => max m (q.1 + q.2)) (r.1 + r.2))

/-- The rows of a side with their spans. -/
def CopySide.spans (q : CopySide) (idx : List Word) : List (Nat × Nat) := (q.starts idx).map (fun a => (a, q.span a))

/-- R228 orders 1 and 3 for an arena range: the range's region, its lowest offset and its end. -/
def boundFault (b : Block) (region lo hi : Nat) : Option ArenaFault := arenaBounds (b.region region) 1 (hi - lo) lo

/-- The arena ranges of a copy that the index vector does not place: source, destination, index vector and barrier. -/
def copyRanges (kind : Nat) (d : CopyDesc) : List (Nat × Nat × Nat) :=
  let side (q : CopySide) : List (Nat × Nat × Nat) :=
    if q.kind = 1 && !q.indexed then (hullOf (q.spans [])).toList.map (fun h => (adrRegion q.addr, h.1, h.2)) else []
  side (srcSide kind d) ++ side (dstSide kind d)
    ++ (if kind ≠ 0 && d.ik = 1 then [(adrRegion d.iaddr, adrOff d.iaddr, adrOff d.iaddr + 4 * d.e1)] else [])
    ++ (if d.bk = 1 then [(adrRegion d.baddr, adrOff d.baddr, adrOff d.baddr + 16)] else [])

/-- ARENA_BOUND of a copy (step 5), and TYPE_MISMATCH of a barrier in a planar region (16 R362). -/
def copyBounds (x : Env) (kind : Nat) (d : CopyDesc) : Option TrapX :=
  let fs := (copyRanges kind d).filterMap (fun q => (boundFault x.b q.1 q.2.1 q.2.2).map (fun f => (q.1, f)))
  let planar := d.bk = 1 && rgnPlanar (x.b.region (adrRegion d.baddr))
  match firstArena fs with
  | some f => some (arenaTrap f (((fs.find? (fun e => e.2 = f)).map (·.1)).getD 0) x.t.active)
  | none =>
    if planar then some (arenaTrap ⟨4, causeTypeMismatch, 5, adrOff d.baddr⟩ (adrRegion d.baddr) x.t.active) else none

/-- MISALIGNED of a copy (step 4): source, destination, index vector, barrier. -/
def copyAligned (x : Env) (kind : Nat) (d : CopyDesc) : Option TrapX :=
  let side (q : CopySide) : Option TrapX :=
    if q.indexed then none
    else sideAlign x { q with rows := min q.rows 256, planes := min q.planes 256 } []
  firstSome [side (srcSide kind d),
    (if d.rb then wordAlign x 1 64 d.daddr else side (dstSide kind d)),
    (if kind = 0 then none else wordAlign x d.ik 4 d.iaddr),
    wordAlign x d.bk 16 d.baddr]

/-! ## The index vector (R309, R312 step 6) -/

/-- Reads the index vector. -/
def readIndex (x : Env) (s : State) (d : CopyDesc) : Except TrapX (List Word) :=
  if d.ik = 1 then
    let a := presentAt (x.b.region (adrRegion d.iaddr)) + adrOff d.iaddr
    if x.b.arenaPoison a (4 * d.e1) then
      .error (arenaTrap ⟨5, causePoison, 0, adrOff d.iaddr⟩ (adrRegion d.iaddr) x.t.active)
    else .ok ((List.range d.e1).map (fun i => BitVec.ofNat 32 (x.b.arenaNat (a + 4 * i) 4)))
  else
    match s.pagesFor x.core x.ctx .load .plain [(d.iaddr, 4 * d.e1)] with
    | .error f => .error (trapMem f .engine x.t.active)
    | .ok ps =>
      let keys := (List.range (4 * d.e1)).map (fun i => s.pageKey ps (d.iaddr + i))
      match (List.range (4 * d.e1)).find? (fun i => s.poisoned (keys.getD i 0)) with
      | some i => .error (trapAt causePoison (BitVec.ofNat 64 ((d.iaddr + i) % 2 ^ 57)) x.t.active)
      | none => .ok ((List.range d.e1).map (fun i => BitVec.ofNat 32 (s.rdNat (s.pageKey ps (d.iaddr + 4 * i)) 4)))

/-- The checks of the rows that the vector places: alignment, and for an arena side its bounds. -/
def indexedRows (x : Env) (q : CopySide) (idx : List Word) : Option TrapX :=
  if !q.indexed then none
  else firstSome [sideAlign x q idx,
    (if q.kind ≠ 1 then none
     else firstSome ((q.starts idx).map (fun a =>
      (boundFault x.b (adrRegion q.addr) a (a + q.row)).map (fun f => arenaTrap f (adrRegion q.addr) x.t.active))))]

/-! ## Pages (R312 step 7) -/

/-- What a side asks of its pages. -/
def CopySide.want (q : CopySide) : State.Want := if typeMx q.ty then .typed (fmtOf q.ty).pageFmt else .plain

/-- The pages of a side in global memory, or its fault. -/
def sidePages (x : Env) (s : State) (acc : Access) (q : CopySide) (idx : List Word) : Except MemFault Pages :=
  if q.kind ≠ 0 then .ok [] else s.pagesFor x.core x.ctx acc q.want (q.spans idx)

/-- Every page of a copy: source, destination and the barrier's physical key; the fault is the first under R218. -/
def copyPages (x : Env) (s : State) (kind : Nat) (d : CopyDesc) (idx : List Word) : Except MemFault (Pages × Nat) :=
  let src := sidePages x s .load (srcSide kind d) idx
  let dst := sidePages x s .store (dstSide kind d) idx
  let bar : Except MemFault (Pages × Nat) :=
    if d.bk = 1 then .ok ([], 0)
    else match s.barrierKey x.core x.ctx d.baddr with
      | .error f => .error f
      | .ok (l, k) => .ok ([(d.baddr / 2 ^ 18 * 2 ^ 18, l)], k)
  match src, dst, bar with
  | .ok a, .ok b, .ok (c, k) => .ok (a ++ b ++ c, k)
  | a, b, c =>
    let fs := (match a with | .error f => [(0, f)] | _ => []) ++ (match b with | .error f => [(1, f)] | _ => [])
      ++ (match c with | .error f => [(2, f)] | _ => [])
    .error ((firstFault fs).getD ⟨causeAccessFault, 4, d.baddr, false⟩)

/-- The lookups of a copy's pages: of a global index vector, and of every other one. -/
def lookIndex (x : Env) (s : State) (kind : Nat) (d : CopyDesc) : State :=
  if kind = 0 || d.ik = 1 then s else s.lookRanges x.core x.ctx [(d.iaddr, 4 * d.e1)]
def lookCopy (x : Env) (s : State) (kind : Nat) (d : CopyDesc) (idx : List Word) : State :=
  let side (q : CopySide) : List (Nat × Nat) := if q.kind = 0 then q.spans idx else []
  s.lookRanges x.core x.ctx (side (srcSide kind d) ++ side (dstSide kind d) ++ (if d.bk = 1 then [] else [(d.baddr, 16)]))

/-! ## Overlap (R319, R320) -/

/-- A hull: its space (0 global, 1 arena allocation, 2 + tile), and its bytes or elements. -/
def sideHull (b : Block) (q : CopySide) (next : Bool) (idx : List Word) (cols : Nat) : Option (Nat × Nat × Nat) :=
  match q.kind with
  | 0 => (hullOf (q.spans idx)).map (fun h => (0, h.1, h.2))
  | 1 =>
    let g := b.region (adrRegion q.addr)
    let at_ := if next then nextAt g else presentAt g
    (hullOf (q.spans idx)).map (fun h => (1, at_ + h.1, at_ + h.2))
  | _ =>
    let k := tileKey 0 (adrRow q.addr) (adrCol q.addr)
    some (2 + adrTile q.addr, k, k + (q.rows - 1) * 256 + cols)

/-- Whether two hulls meet. -/
def hullsMeet (a b : Option (Nat × Nat × Nat)) : Bool :=
  match a, b with
  | some x, some y => x.1 = y.1 && x.2.1 < y.2.2 && y.2.1 < x.2.2
  | _, _ => false

/-- The overlap of a copy's destination hull: 1 with its source, 2 with its index vector. -/
def copyOverlap (b : Block) (kind : Nat) (d : CopyDesc) (idx : List Word) : Option Nat :=
  let dst := sideHull b (dstSide kind d) true idx d.de0
  let src := sideHull b (srcSide kind d) false idx d.e0
  let ix : Option (Nat × Nat × Nat) :=
    if kind = 0 then none
    else if d.ik = 1 then
      let a := presentAt (b.region (adrRegion d.iaddr)) + adrOff d.iaddr
      some (1, a, a + 4 * d.e1)
    else some (0, d.iaddr, d.iaddr + 4 * d.e1)
  firstSome [reasonIf (hullsMeet dst src) 1, reasonIf (hullsMeet dst ix) 2]

/-! ## Issue (R301, R312) -/

/-- Entries of a core's request queue. -/
def copyLimit : Nat := 64

/-- The copies in a core's request queue. -/
def State.copiesOf (s : State) (core : Nat) : List CopyReq := s.copies.filter (fun c => c.core = core)

/-- Step 2: the descriptor. -/
def readDesc (o : Op) (x : Env) : Except TrapX (CopyDesc × List Byte) :=
  let r := o.dst.toNat % 16
  let g := x.b.region r
  let off := (x.t.readS o.a.num.toNat).toNat
  match arenaBounds g 64 64 off with
  | some f => .error (arenaTrap f r x.t.active)
  | none =>
    if rgnPlanar g then .error (descTrap x causeCopyDesc 1 off)
    else if x.b.arenaPoison (rgnBase g + off) 64 then .error (arenaTrap ⟨5, causePoison, 0, off⟩ r x.t.active)
    else
      let bytes := sgets 0 x.b.arena (rgnBase g + off) 64
      .ok (copyDesc bytes, bytes)

/-- Where a copy's barrier lies. -/
def copyBarrier (r : TRef) (d : CopyDesc) (key : Nat) : BarrierAt :=
  if d.bk = 1 then .arena r.cluster r.block (adrRegion d.baddr) (adrOff d.baddr) else .global key

/-- The tile elements of a copy's source, and of its destination. -/
def CopyReq.srcArea (q : CopyReq) : Option TileArea :=
  let d := copyDesc q.desc
  if d.sk = 2 then some ⟨adrTile d.saddr, adrRow d.saddr, d.e1, adrCol d.saddr, d.e0⟩ else none
def CopyReq.dstArea (q : CopyReq) : Option TileArea :=
  let d := copyDesc q.desc
  if d.dk = 2 then some ⟨adrTile d.daddr, adrRow d.daddr, d.de1, adrCol d.daddr, d.de0⟩ else none

/-- Whether a copy writes one of `n` arena bytes at allocation offset `a`. -/
def CopyReq.covers (b : Block) (q : CopyReq) (a n : Nat) : Bool :=
  let d := copyDesc q.desc
  let x := dstSide q.kind d
  let base := nextAt (b.region (adrRegion d.daddr))
  d.dk = 1 && (x.starts q.idx).any (fun o => base + o < a + n && a < base + o + x.row)

/-- How a copy's writes stand against operand reads. -/
def CopyReq.stamp (q : CopyReq) (seq : Nat) : Stamp := ⟨seq, .copy q.id q.troupe q.seq, 0⟩

/-- As a COPY is issued, whether its tile may still be in use by an entry that comes before it (R317, R322). -/
def CopyReq.early (b : Block) (q : CopyReq) : Bool :=
  [q.srcArea, q.dstArea].any (fun a => a.any (fun a => b.tileBusy (fun t => t = q.troupe) a.tile))

/-- Step 9 (R314, R319): the barrier takes the units, and the copy its queue entry. A copy over operand words of a pending step
leaves the step's tile undefined (11 R267). -/
def enqueueCopy (x : Env) (s : State) (kind : Nat) (d : CopyDesc) (bytes : List Byte) (idx : List Word) (pages : Pages)
    (key off : Nat) : Res :=
  let at_ := copyBarrier x.r d key
  let s1 := if d.bk = 0 then s.yieldLines x.core [key] else s
  let b := s1.readBarrier at_
  if 2 ^ 32 ≤ b.sec + d.units then .trap s (descTrap x causeCopyDesc 7 off)
  else
    let b1 := { b with sec := b.sec + d.units }
    let b2 := if (copyOverlap x.b kind d idx).isSome then b1.setErr errOverlap else b1
    let q : CopyReq :=
      { id := s.nextId, core := x.core, cluster := x.r.cluster, block := x.r.block, troupe := x.r.troupe, ctx := x.ctx
        kind := kind, desc := bytes, idx := idx, pages := pages
        seed := if d.seedd = 0 then x.t.seed else BitVec.ofNat 64 d.seedd
        wid0 := x.t.wid 0, rnd := x.t.rnd, seq := s.nextSeq, bkey := key, total := d.units, settled := [], image := none
        stop := none, loose := false }
    let s2 := (s1.writeBarrier at_ b2.step).modBlock x.r.cluster x.r.block (fun b =>
      b.spoil (b.touched (q.stamp s.nextSeq) (q.covers x.b)))
    .done { s2.bumpSeq with copies := s2.copies ++ [{ q with loose := q.early x.b }], nextId := s2.nextId + 1 }

/-- COPY, COPYG and COPYS: `kind` 0, 1 and 2. The core's .ca stores are written through first, since every earlier access
of the issuing lanes happens before the copy's (11 R266). -/
def copyBody (kind : Nat) (o : Op) (x : Env) (s0 : State) : Res :=
  if copyLimit ≤ (s0.copiesOf x.core).length then .stall s0
  else
    let s := s0.flushCore x.core
    let off := (x.t.readS o.a.num.toNat).toNat
    match readDesc o x with
    | .error tr => .trap s tr
    | .ok (d, bytes) =>
      match firstSome [(copyReason x.b kind d).map (fun r => descTrap x causeCopyDesc r off), copyAligned x kind d,
          copyBounds x kind d] with
      | some tr => .trap s tr
      | none =>
        let s1 := lookIndex x s kind d
        match (if kind = 0 then .ok [] else readIndex x s d) with
        | .error tr => .trap s1 tr
        | .ok idx =>
          match firstSome [indexedRows x (srcSide kind d) idx, indexedRows x (dstSide kind d) idx] with
          | some tr => .trap s1 tr
          | none =>
            let s2 := lookCopy x s1 kind d idx
            match copyPages x s kind d idx with
            | .error f => .trap s2 (trapMem f .engine x.t.active)
            | .ok (pages, key) =>
              match (if x.det then copyOverlap x.b kind d idx else none) with
              | some r => .trap s2 (descTrap x causeCopyOverlap r off)
              | none => enqueueCopy x s2 kind d bytes idx pages key off

/-! ## Meanings -/

def execCopy (o : Op) (s : State) : Host.Outcome State Fault Refusal := issueOp 0x180 (.copy o) o (copyBody 0 o) s
def execCopyg (o : Op) (s : State) : Host.Outcome State Fault Refusal := issueOp 0x181 (.copyg o) o (copyBody 1 o) s
def execCopys (o : Op) (s : State) : Host.Outcome State Fault Refusal := issueOp 0x182 (.copys o) o (copyBody 2 o) s

/-- COPY_QUEUE_ENTRY_FREE (R301). -/
def execCopyQueueEntryFree (r : TRef) (s : State) : Host.Outcome State Fault Refusal :=
  let isCopy : Bool := match s.stalledAt r with
    | some (.copy _) => true
    | some (.copyg _) => true
    | some (.copys _) => true
    | _ => false
  match s.block? r.cluster r.block with
  | some b => .next (if isCopy && (s.copiesOf b.core).length < copyLimit then s.endStall r else s)
  | none => .next s

end Sys2Proof.Machine
end

