-- ==== Sys2Proof/Machine/Engine.lean ====
section
/-! DEFINITION. The matrix engine (12 R278 to R299): a matched entry is performed, in entry order. Operands are read when
it is performed (R282), and arena words under the ordering rules of 11 R267. -/

namespace Sys2Proof.Machine

/-! ## The entry at the head of an act -/

/-- What the engine finds: the core, launch and block, the act with its number, the entry with its batch. -/
structure Job where
  act   : ActRef
  core  : Nat
  grant : Bool
  b     : Block
  a     : MAct
  batch : Nat
  index : Nat
  insns : List MInsn
  deriving Repr

namespace Job

/-- The first member's instruction. -/
def head (j : Job) : MInsn :=
  j.insns.headD ⟨.nop ⟨false, ⟨false, 7⟩, false, 0, ⟨.v, 0, .none⟩, ⟨.v, 0, .none⟩, 0, none⟩, [], [], [], [], [], [], 0, 0, 0, 0, 0⟩

/-- An s register that the entry read. -/
def sval (j : Job) (k : Nat) : Nat := (j.head.svals.getD k 0).toNat

/-- The A groups that the entry reads from registers (R101, R279). -/
def groupReads (j : Job) : List GroupRead :=
  (j.a.members.zip j.insns).filterMap (fun p =>
    match p.2.i with
    | .mma o | .mmaSp o =>
      if p.2.counts.isEmpty then none else some ⟨p.1.troupe, o.a.num.toNat, p.2.counts, o.dst.toNat % 16⟩
    | _ => none)

/-- A member's troupe. -/
def troupe (j : Job) (k : Nat) : Option Troupe := (j.a.members[k]?).bind (fun m => j.b.troupes[m.troupe]?)

end Job

namespace State

/-- The matched entry that an act performs next; a saved cluster has none (18 R407). -/
def job? (s : State) (r : ActRef) : Option Job :=
  match s.cluster? r.cluster with
  | none => none
  | some cl =>
    match (if cl.state = .saved then none else cl.blocks[r.block]?), s.launch? cl.launch with
    | some b, some la =>
      match b.acts[r.act]? with
      | none => none
      | some a =>
        match a.queue with
        | [] => none
        | e :: _ =>
          let bt := (a.batches[e.batch]?).getD Batch.fresh
          some ⟨r, b.core, la.grant && !la.det, b, a, e.batch, bt.done, e.insns⟩
    | _, _ => none

/-- The entry is performed, or stopped, and counted (R325); an error stands with its batch (R292, R299), and so do the A groups
and operand words that it has read (R101, R282). -/
def countEntry (s : State) (j : Job) (err : Option BatchErr) (reads : List GroupRead) (words : List WordRead) : State :=
  s.modBlock j.act.cluster j.act.block (fun b =>
    (b.modAct j.act.act (fun a =>
      let bt := (a.batches[j.batch]?).getD Batch.fresh
      { a with
        queue := a.queue.tail
        batches := a.batches.set j.batch
          { bt with done := bt.done + 1, err := bt.err.orElse (fun _ => err), reads := bt.reads ++ reads, words := bt.words ++ words } })).prune)

end State

/-! ## Arena operands (R282; 11 R267) -/

/-- Who issued an entry: for each member its troupe, the place of its instruction, and that of its last MFENCE. -/
def Job.issuers (j : Job) : List (Nat × Nat × Nat) :=
  (j.a.members.zip j.insns).map (fun p => (p.1.troupe, p.2.seq, p.2.fence))

/-- The value of a 4-byte piece of an operand word (R267, R322): a write that is ordered before the read stands; one issued
after the instruction touches a pending batch and leaves the piece undefined; of any other write, a swap of the planes too
(R241), the word holds the old value or the new one, which is unspecified (19 R416, R418). `n` numbers the piece and `choice`
the choices of its word: the writes of a wide region word touch both of its pieces alike. -/
def stampValue (s : State) (b : Block) (is : List (Nat × Nat × Nat)) (n choice : Nat) (v : Nat) : List Stamp → Nat
  | [] => v
  | e :: es =>
    if (stampOrder b is e).1 then v
    else if (stampOrder b is e).2 then (s.freeWord n).toNat
    else if s.freeChoice (choice + 2 ^ 36 * (e.seq % 8)) then stampValue s b is n choice e.old.toNat es
    else v

/-- `n` operand bytes at allocation offset `a` of a region of descriptor `d`, a multiple of 8, as a number: old or stored
values word by word, 4 bytes, or 8 in a region of i64 (R224, R267). -/
def Job.arena (j : Job) (s : State) (d : DWord) (a n : Nat) : Nat :=
  joinElems 32 ((List.range ((n + 7) / 8 * 2)).map (fun i =>
    stampValue s j.b j.issuers (a / 4 + i) ((a / 4 + i) / (if rgnType d = 2 then 2 else 1)) (j.b.arenaNat (a + 4 * i) 4)
      (sget [] j.b.stamps (a / 4 + i))))

/-- The first poisoned word of an operand range of a region: its offset (R299). -/
def Job.poisonIn (j : Job) (r off n : Nat) : Option (Nat × Nat) :=
  let a := presentAt (j.b.region r) + off
  ((List.range ((n + 7) / 8)).find? (fun i => sget false j.b.apoison (a / 8 + i))).map (fun i => (off + 8 * i, r))

/-! ## Operand rows (R279 to R281, R288) -/

/-- A block of a row or column: its element codes and its scale code. -/
structure KBlock where
  codes : List Nat
  scale : Nat
  deriving DecidableEq, Repr

/-- A block in the packed form of the arena: `x` holds the bytes of its row or panel (R44, R278). -/
def packedBlock (ty x at_ scaleAt : Nat) : KBlock :=
  let bits := if typeMx ty then (fmtOf ty).bits else 16
  ⟨elemsOf bits (blockElemsOf ty) (x / 2 ^ (8 * at_)), if typeMx ty then x / 2 ^ (8 * scaleAt) % 256 else 127⟩

/-- The blocks of a row in the row layout (R280). -/
def rowBlocks (ty kb x : Nat) : List KBlock :=
  (List.range kb).map (fun k => packedBlock ty x (k * blockBytesOf ty) (kb * blockBytesOf ty + k))

/-- The blocks of column `n` of a panel (R281). -/
def columnBlocks (ty cols kb x n : Nat) : List KBlock :=
  (List.range kb).map (fun k =>
    packedBlock ty x ((n * kb + k) * blockBytesOf ty) (cols * kb * blockBytesOf ty + n * kb + k))

/-- A row of no entry: elements 0 with scale 0x7F (R288). -/
def emptyRow (ty kb : Nat) : List KBlock := List.replicate kb ⟨List.replicate (blockElemsOf ty) 0, 0x7F⟩

/-- A member's A group when the step reads it: a register written since the step was issued is undefined (R101, R282). -/
def Job.groupNow (j : Job) (s : State) (k : Nat) (q : MInsn) (a : Nat) : List Word × List Byte :=
  match j.troupe k with
  | none => (q.grp, q.tags)
  | some t =>
    let now := Block.groupCounts t a q.counts.length
    let kept (k : Nat) : Bool := q.counts.getD k 0 = now.getD k 0
    ((List.range q.grp.length).map (fun i =>
        if kept (i / t.width) then q.grp.getD i 0 else s.freeWord (2 ^ 37 + k * 2 ^ 20 + i)),
      (List.range q.tags.length).map (fun i =>
        if kept (i / Troupe.tagBytes) then q.tags.getD i 0 else (s.freeWord (2 ^ 37 + 2 ^ 30 + k * 2 ^ 20 + i)).setWidth 8))

/-- The blocks of a member row held in registers of `w` lanes (R279). -/
def groupBlocks (ty kb w : Nat) (grp : List Word) (tags : List Byte) (row : Nat) : List KBlock :=
  let per := if ty = 16 then 4 else 8
  let epl := eplOf ty
  (List.range kb).map (fun k =>
    let first := row * 32 + k * per
    let words := (List.range per).map (fun i => (grp.getD (first + i) 0).toNat)
    let lane := first % w
    ⟨words.flatMap (elemsOf (slotBits ty) epl),
      if typeMx ty then (tags.getD (first / w * 32 + lane / (32 / epl)) 0).toNat else 127⟩)

/-- Where the A operand of a step lies. -/
inductive ASource where
  | regs
  | table (off : Nat)
  | indexed (base : Nat)

/-- The rows of A, member by member. -/
def Job.rowsA (j : Job) (s : State) (o : Op) (c : StepCtl) (src : ASource) : List (List KBlock) :=
  let rs := rowStride c.ta c.kb
  let pres := presentAt (j.b.region c.ra)
  match src with
  | .regs =>
    (List.range j.insns.length).flatMap (fun k =>
      let q := j.insns.getD k j.head
      let (grp, tags) := j.groupNow s k q o.a.num.toNat
      (List.range j.a.rm).map (groupBlocks c.ta c.kb (((j.troupe k).map (·.width)).getD 32) grp tags))
  | .table off => (List.range j.a.rows).map (fun m => rowBlocks c.ta c.kb (j.arena s (j.b.region c.ra) (pres + off + m * rs) rs))
  | .indexed base =>
    j.insns.flatMap (fun q => q.idx.map (fun k =>
      if k.toNat = noEntry then emptyRow c.ta c.kb
      else rowBlocks c.ta c.kb (j.arena s (j.b.region c.ra) (pres + base + k.toNat * rs) rs)))

/-- The columns of B. -/
def Job.columnsB (j : Job) (s : State) (c : StepCtl) (kb off : Nat) : List (List KBlock) :=
  let x := j.arena s (j.b.region c.rb) (presentAt (j.b.region c.rb) + off) (panelData c.tb c.n kb)
  (List.range c.n).map (columnBlocks c.tb c.n kb x)

/-- The operand ranges of a step, each a region, an offset and a number of bytes: of the A table in row order, then of the
panel. -/
def Job.ranges (j : Job) (c : StepCtl) (src : ASource) (kb off : Nat) : List (Nat × Nat × Nat) :=
  let rs := rowStride c.ta c.kb
  let rows := match src with
    | .regs => []
    | .table a => [(c.ra, a, j.a.rows * rs)]
    | .indexed base => j.insns.flatMap (fun q => q.idx.filterMap (fun k =>
        if k.toNat = noEntry then none else some (c.ra, base + k.toNat * rs, rs)))
  rows ++ [(c.rb, off, panelData c.tb c.n kb)]

/-- The first poisoned operand word of a step. -/
def Job.poisonAt (j : Job) (c : StepCtl) (src : ASource) (kb off : Nat) : Option (Nat × Nat) :=
  firstSome ((j.ranges c src kb off).map (fun r => j.poisonIn r.1 r.2.1 r.2.2))

/-! ## Reduced precision (R296) -/

/-- Pads a list with zeros to `n`. -/
def padTo (n : Nat) (xs : List Nat) : List Nat := xs ++ List.replicate (n - xs.length) 0

/-- Cuts a list into pieces of 32, the last one padded; `fuel` bounds the pieces. -/
def cut32 : Nat → List Nat → List (List Nat)
  | 0, _ => []
  | n + 1, xs => if xs.isEmpty then [] else padTo 32 (xs.take 32) :: cut32 n (xs.drop 32)

/-- A row or column of 16-bit values as MXFP8 blocks, and whether sat changed a value. -/
def degrade (ty : Nat) (row : List KBlock) : List KBlock × Bool :=
  let qs := (cut32 (row.length + 1) (row.flatMap (·.codes))).map (fun xs =>
    quantBlock .e4m3 true (xs.map (fun c => (decodeF (fmtOf ty) c, Rnd.rne))))
  (qs.map (fun q => ⟨q.codes, q.scale⟩), qs.any (·.ovf))

/-! ## Dense and sparse products (R285, R290) -/

/-- The accumulator after the blocks of a row and a column (R285). -/
def denseAcc (TA TB : Fmt) : List KBlock → List KBlock → Nat → Nat
  | a :: as, b :: bs, acc =>
    denseAcc TA TB as bs (dotBlock TA TB a.scale [b.scale]
      ((a.codes.zip b.codes).map (fun p => ⟨p.1, p.2, b.scale⟩)) acc)
  | _, _, acc => acc

/-- The accumulator after the compressed blocks of a row, from block `kb` on (R290): `entry` gives the pattern entries,
`total` counts the stored elements of the row. -/
def sparseAcc (TA TB : Fmt) (n g total : Nat) (entry : Nat → Nat) (bs : List KBlock) : Nat → List KBlock → Nat → Nat
  | _, [], acc => acc
  | kb, a :: as, acc =>
    let size := a.codes.length
    let at_ (k : Nat) : KBlock := bs.getD (k / size) ⟨[], 0x7F⟩
    let es := (List.range size).filterMap (fun i =>
      let e := kb * size + i
      if total ≤ e then none
      else
        let k := e / n * g + entry e
        some ⟨a.codes.getD i 0, (at_ k).codes.getD (k % size) 0, (at_ k).scale⟩)
    let span := (List.range (g / n)).filterMap (fun i => (bs[kb * (g / n) + i]?).map (·.scale))
    sparseAcc TA TB n g total entry bs (kb + 1) as (dotBlock TA TB a.scale span es acc)

/-- Writes the results of a step: `f` gives the accumulator of row `m` and column `n` from its old value. -/
def Job.writeStep (j : Job) (s : State) (o : Op) (c : StepCtl) (rows : Nat) (f : Nat → Nat → Nat → Nat) : State :=
  let tile := o.dst.toNat % 16
  let ws := (List.range rows).flatMap (fun m => (List.range c.n).map (fun n =>
    (tileKey tile m (c.col + n), BitVec.ofNat 32 (f m n (j.b.elem tile m (c.col + n))))))
  s.modBlock j.act.cluster j.act.block (fun b => b.writeTile ws)

/-- Changes every member's troupe. -/
def Job.eachMember (j : Job) (f : Troupe → Troupe) (s : State) : State :=
  j.a.members.foldl (fun s m => s.modTroupe ⟨j.act.cluster, j.act.block, m.troupe⟩ f) s

/-- Whether a step runs at reduced precision (R296). -/
def Job.degraded (j : Job) (c : StepCtl) : Bool := j.grant && !typeMx c.ta

/-- A step: its rows and columns, reduced where R296 says so, and the accumulation of each pair. -/
def Job.step (j : Job) (s : State) (o : Op) (c : StepCtl) (src : ASource) (kbB off : Nat)
    (acc : Fmt → Fmt → Nat → List KBlock → List KBlock → Nat → Nat) : State :=
  let rows := j.rowsA s o c src
  let cols := j.columnsB s c kbB off
  let s1 := s.bumpCore j.core 0x14 (rows.length * c.n * (c.kb * blockElemsOf c.ta))
  if j.degraded c then
    let ra := rows.map (degrade c.ta)
    let cb := cols.map (degrade c.tb)
    let ovf := ra.any (·.2) || cb.any (·.2)
    let s2 := j.eachMember (fun t => t.stickyDeg.stickyOvf ovf) s1
    j.writeStep s2 o c rows.length (fun m n x => acc .e4m3 .e4m3 m ((ra.getD m ([], false)).1) ((cb.getD n ([], false)).1) x)
  else
    j.writeStep s1 o c rows.length (fun m n x => acc (fmtOf c.ta) (fmtOf c.tb) m (rows.getD m []) (cols.getD n []) x)

/-- The word of a step, where its A operand lies, the offset of its panel, and the panel's blocks a column (R285 to R290). -/
def Job.form (j : Job) : Option (Op × ASource × Nat × Nat) :=
  match j.head.i with
  | .mma o => some (if o.a.cls = .v then (o, .regs, j.sval 0, (stepCtl o).kb) else (o, .table (j.sval 0), j.sval 1, (stepCtl o).kb))
  | .mmaG o => some (o, .indexed (j.sval 1), j.sval 0, (stepCtl o).kb)
  | .mloop o =>
    let c := stepCtl o
    some (o, .table (j.sval 0 + j.head.step * (j.a.rows * rowStride c.ta c.kb)), j.sval 1 + j.head.step * panelBytes c.tb c.n c.kb, c.kb)
  | .mmaSp o =>
    some (if o.a.cls = .v then (o, .regs, j.sval 0, stepKbB 0x164 o) else (o, .table (j.sval 0), j.sval 1, stepKbB 0x164 o))
  | _ => none

/-- MMA, MMA.G and a step of MLOOP (R285, R287, R288). -/
def denseStep (j : Job) (s : State) : State × Option BatchErr :=
  match j.form with
  | some (o, src, off, kb) =>
    let c := stepCtl o
    match j.poisonAt c src kb off with
    | some (o, r) => (s, some (.poison o r j.index))
    | none => (j.step s o c src kb off (fun TA TB _ a b x => denseAcc TA TB a b x), none)
  | none => (s, none)

/-! ## Patterns (R289, R291, R292) -/

/-- Whether the entries of a group are illegal (R289). -/
def illegalGroup (kind : Nat) (es : List Nat) : Bool := es.any (fun e => 2 ^ patBits kind ≤ e) || (uniq es).length ≠ es.length

/-- The entries of some pattern bytes. -/
def patEntries (bytes : List Nat) : List Nat := bytes.flatMap (fun x => [x % 16, x / 16])

/-- Splits a list into pieces of `n`; `fuel` bounds the pieces. -/
def chunks {α : Type} (n : Nat) : Nat → List α → List (List α)
  | 0, _ => []
  | k + 1, xs => if xs.isEmpty then [] else xs.take n :: chunks n k (xs.drop n)

/-- For each of some pattern bytes, whether it belongs to an illegal group. -/
def illegalBytes (kind : Nat) (bytes : List Nat) : List Bool :=
  let unit := if kind = 2 then 2 else 1
  (chunks unit (bytes.length + 1) bytes).flatMap (fun xs =>
    let bad := (chunks (patN kind) 8 (patEntries xs)).any (illegalGroup kind)
    xs.map (fun _ => bad))

/-- The first offending byte among `n` pattern bytes at `off`: its offset, and reason 2 for an illegal group or 1 for a
mark alone. -/
def Block.badPattern (b : Block) (kind off n : Nat) : Option (Nat × Nat) :=
  let bytes := (List.range n).map (fun i => (sget 0 b.pat (off + i)).toNat)
  let ill := illegalBytes kind bytes
  ((List.range n).find? (fun i => ill.getD i false || sget false b.patPoison (off + i))).map
    (fun i => (off + i, if ill.getD i false then 2 else 1))

/-- MMA.SP (R290, R292). -/
def sparseJob (j : Job) (s : State) : State × Option BatchErr :=
  match j.form with
  | some (o, src, off, kbB) =>
    let c := stepCtl o
    let kind := spKind o
    let pat := if o.a.cls = .v then j.sval 1 else j.sval 2
    let used := c.kb * blockElemsOf c.ta / 2
    match firstSome ((List.range j.a.rows).map (fun m => j.b.badPattern kind (pat + m * c.kb * 16) used)) with
    | some (at_, reason) => (s, some (.pattern at_ j.index reason))
    | none =>
      match j.poisonAt c src kbB off with
      | some (o, r) => (s, some (.poison o r j.index))
      | none =>
        let entry (m e : Nat) : Nat :=
          let x := (sget 0 j.b.pat (pat + m * c.kb * 16 + e / 2)).toNat
          if e % 2 = 0 then x % 16 else x / 16
        (j.step s o c src kbB off (fun TA TB m a b x =>
          sparseAcc TA TB (patN kind) (patG kind) (c.kb * blockElemsOf c.ta) (entry m) b 0 a x), none)
  | none => (s, none)

/-! ## Entries and copies on one tile (R317, R322) -/

/-- The tile elements that an entry writes: those of a step's rows and columns, and every one of an ACCZ's tile. -/
def Job.area (j : Job) : Option TileArea :=
  match j.form, j.head.i with
  | some (o, _), _ => some ⟨o.dst.toNat % 16, 0, j.a.rows, (stepCtl o).col, (stepCtl o).n⟩
  | none, .accz o => some ⟨o.dst.toNat % 16, 0, 128, 0, 256⟩
  | _, _ => none

/-- Whether an area holds an element, and the keys of the elements that two areas share. -/
def TileArea.has (x : TileArea) (tile row col : Nat) : Bool :=
  x.tile = tile && x.row ≤ row && row < x.row + x.rows && x.col ≤ col && col < x.col + x.cols
def TileArea.keysIn (x y : TileArea) : List Nat :=
  if x.tile ≠ y.tile then []
  else (List.range x.rows).flatMap (fun r => (List.range x.cols).filterMap (fun c =>
    if y.has x.tile (x.row + r) (x.col + c) then some (tileKey x.tile (x.row + r) (x.col + c)) else none))

/-- A copy of the block of an entry. -/
def Job.copyHere (j : Job) (q : CopyReq) : Bool := q.cluster = j.act.cluster && q.block = j.act.block

/-- What copies into tiles write that no member has observed before the entry, in flight or complete (R322). -/
def Job.loose (j : Job) (s : State) : List TileArea :=
  (s.copies.filter j.copyHere).filterMap CopyReq.dstArea
    ++ j.b.landed.filterMap (fun c => if j.b.observed c.id j.issuers then none else c.area)

/-- An entry that writes tile elements which such a copy writes too leaves them undefined, and of a copy in flight what it
writes into, or has still to read from, the entry's elements. -/
def Job.meetCopies (j : Job) (s0 s : State) : State :=
  match j.area with
  | none => s
  | some w =>
    let ks := (j.loose s0).flatMap (fun x => x.keysIn w)
    let meets (x : Option TileArea) : Bool := x.any (fun x => !(x.keysIn w).isEmpty)
    { s.modBlock j.act.cluster j.act.block (fun b => b.writeTile (ks.map (fun k => (k, s.freeWord (tileChoice k))))) with
      copies := s.copies.map (fun q =>
        if j.copyHere q && (meets q.dstArea || (q.image.isNone && meets q.srcArea)) then { q with loose := true } else q) }

/-- The operand words of a step, as its batch keeps them (R282). -/
def Job.wordReads (j : Job) : List WordRead :=
  match j.form with
  | some (o, src, off, kb) =>
    (j.ranges (stepCtl o) src kb off).map (fun r =>
      ⟨presentAt (j.b.region r.1) + r.2.1, (r.2.2 + 7) / 8 * 8, j.issuers, o.dst.toNat % 16⟩)
  | none => []

/-- A copy in flight that was issued after the step, over the words that the step has read, leaves the step's tile undefined
(R282; 11 R267). -/
def Job.spoilBy (j : Job) (s : State) : State :=
  let late (q : CopyReq) : Bool := j.copyHere q && (stampOrder j.b j.issuers (q.stamp 0)).2
    && j.wordReads.any (fun w => q.covers j.b w.first w.len)
  if s.copies.any late then
    s.modBlock j.act.cluster j.act.block (fun b => b.spoil (BitVec.ofNat 16 (2 ^ (j.area.map (·.tile)).getD 0)))
  else s

/-- PATLD (R291). -/
def patldJob (j : Job) (s : State) : State × Option BatchErr :=
  match j.head.i with
  | .patld o =>
    let va := j.sval 0 + 2 ^ 32 * j.sval 1
    let off := j.sval 2
    let n := j.sval 3
    let keys := (List.range n).map (fun i => s.pageKey j.head.pages (va + i))
    let bytes := keys.map s.rdByte
    let ill := illegalBytes o.dst.toNat (bytes.map (·.toNat))
    (s.modBlock j.act.cluster j.act.block (fun b =>
      { b with
        pat := ssets 0 b.pat (keyed off bytes)
        patPoison := ssets false b.patPoison ((List.range n).map (fun i =>
          (off + i, ill.getD i false || s.poisoned (keys.getD i 0)))) }), none)
  | _ => (s, none)

/-! ## ACCZ and ACCST (R294) -/

/-- Whether at most one act of a block names a tile. -/
def Block.aloneOn (b : Block) (tile : Nat) : Bool := (b.acts.filter (fun a => a.tiles.getLsbD tile)).length ≤ 1

/-- ACCZ: with no other act on the tile, its elements hold defined values again. -/
def acczJob (j : Job) (s : State) : State × Option BatchErr :=
  match j.head.i with
  | .accz o =>
    let tile := o.dst.toNat % 16
    (s.modBlock j.act.cluster j.act.block (fun b =>
      let inTile (k : Nat) : Bool := k / 32768 = tile
      { b with
        tiles := sdrop inTile b.tiles
        tilePoison := sdrop inTile b.tilePoison
        undef := if b.aloneOn tile then b.undef &&& ~~~BitVec.ofNat 16 (2 ^ tile) else b.undef
        fixed := sdrop inTile b.fixed
        acts := b.acts.map (fun a => { a with batches := a.batches.map (Batch.forget tile) }) }), none)
  | _ => (s, none)

/-- The bytes of a window row that ACCST stores, its inputs for AMAX, and STICKY.OVF: `x` gives the row's FP32 codes and
`rnd` the rounding of a column. -/
def accstRow (ty : Nat) (fit : Bool) (cols : Nat) (x : Nat → Nat) (rnd : Nat → Rnd) : List Byte × Bool :=
  if ty = 11 then ((List.range cols).flatMap (fun c => bytesOf 4 (x c)), false)
  else if typeMx ty then
    let T := fmtOf ty
    let qs := (List.range (cols / 32)).map (fun k =>
      quantBlock T fit ((List.range 32).map (fun i => (decodeF .fp32 (x (32 * k + i)), rnd (32 * k + i)))))
    let data := qs.flatMap (fun q => bytesOf T.blockBytes (joinElems T.bits q.codes))
    let full := data ++ qs.map (fun q => BitVec.ofNat 8 q.scale)
    (full ++ List.replicate (rowStride ty (cols / 32) - full.length) 0, qs.any (·.ovf))
  else ((List.range cols).flatMap (fun c => bytesOf 2 (convF .fp32 (fmtOf ty) (rnd c) (x c)).1), false)

/-- Engine writes of whole words into a region (R231, R232), the word that starts at byte `i` by `w i`: the next plane of a
planar region, or the bytes of a flat one. Bytes that derive from poison, `bad`, poison the words that take them (13 R323). -/
def writeRegion (seq : Nat) (w : Nat → Writer) (who : ArenaWriter) (bad : Bool) (b : Block) (d : DWord) (off : Nat)
    (bytes : List Byte) : Block :=
  if rgnPlanar d then
    let n := rgnWord d
    (List.range (bytes.length / n)).foldl (fun b i =>
      (planarWrite b d (nextAt d + off + n * i) (ofBytes ((bytes.drop (n * i)).take n)) seq (w (n * i)) who bad).getD b) b
  else
    let b1 := b.wrArena (nextAt d + off) bytes seq who
    if bad then b1.poisonArena (nextAt d + off) bytes.length else b1

/-- Engine writes of consecutive bytes at a virtual address under translations made at issue: the issuing core's L1 lines
of it leave its L1 (R206, R266). -/
def State.writePages (s : State) (core : Nat) (ps : Pages) (va : Nat) (bytes : List Byte) : State :=
  let cells := (List.range bytes.length).map (fun i => (s.pageKey ps (va + i), bytes.getD i 0))
  (s.yieldLines core (cells.map (·.1))).wrBytes cells

/-- ACCST: seed and default rounding are those of member 0. -/
def accstJob (j : Job) (s : State) : State × Option BatchErr :=
  match j.head.i with
  | .accst o =>
    let ty := accstType o
    let tile := o.dst.toNat % 16
    let global := accstGlobal o
    let w := accstWindow (j.sval (if global then 2 else 1))
    let wid0 := ((j.troupe 0).map (fun t => (t.wid 0).toNat)).getD 0
    let loose := j.loose s
    let elem (r c : Nat) : Nat := s.readElem j.b (loose.any (fun x => x.has tile (w.row + r) (w.col + c))) tile (w.row + r) (w.col + c)
    let rnd (r c : Nat) : Rnd :=
      Rnd.at (rmode (accstRnd o) j.head.rnd) j.head.seed ((wid0 * 2 ^ 15 + (w.row + r) * 256 + w.col + c) % 2 ^ 64)
    let rows := (List.range w.rows).map (fun r => accstRow ty (accstFit o) w.cols (elem r) (rnd r))
    let rs := accstStride ty w.cols
    let s1 :=
      if global then
        (List.range w.rows).foldl (fun s r =>
          s.writePages j.core j.head.pages (j.sval 0 + 2 ^ 32 * j.sval 1 + r * rs) ((rows.getD r ([], false)).1)) s
      else
        s.modBlock j.act.cluster j.act.block (fun b =>
          (List.range w.rows).foldl (fun b r =>
            writeRegion 0 (fun _ => .engine 0 0) .engine false b (b.region (accstRegion o)) (j.sval 0 + r * rs) ((rows.getD r ([], false)).1)) b)
    if ty = 11 then (s1, none)
    else
      let inputs := (List.range w.rows).flatMap (fun r => (List.range w.cols).map (fun c => decodeF .fp32 (elem r c)))
      (j.eachMember (fun t => (t.amaxIn inputs).stickyOvf (rows.any (·.2))) s1, none)
  | _ => (s, none)

/-! ## Meanings -/

/-- Performs the next entry of an act when it is of the kind asked for; an entry of a batch with an error is stopped
(R292, R299). -/
def State.perform (s : State) (r : ActRef) (kind : Instr → Bool) (f : Job → State → State × Option BatchErr) : State :=
  match s.job? r with
  | none => s
  | some j =>
    if !kind j.head.i then s
    else if (((j.a.batches[j.batch]?).getD Batch.fresh).err).isSome then s.countEntry j none [] []
    else
      match f j s with
      | (s1, none) => (j.spoilBy (j.meetCopies s s1)).countEntry j none j.groupReads j.wordReads
      | (s1, some e) => s1.countEntry j (some e) [] []

/-- The kinds of entries that each step of the engine performs. -/
def isDense : Instr → Bool
  | .mma _ => true | .mmaG _ => true | .mloop _ => true | _ => false
def isSparse : Instr → Bool
  | .mmaSp _ => true | _ => false
def isAccz : Instr → Bool
  | .accz _ => true | _ => false
def isAccst : Instr → Bool
  | .accst _ => true | _ => false
def isPatld : Instr → Bool
  | .patld _ => true | _ => false

/-- MATRIX_STEP. -/
def execMatrixStep (a : ActRef) (s : State) : Host.Outcome State Fault Refusal := .next (s.perform a isDense denseStep)
/-- SPARSE_STEP. -/
def execSparseStep (a : ActRef) (s : State) : Host.Outcome State Fault Refusal := .next (s.perform a isSparse sparseJob)
/-- ACCZ_PERFORM. -/
def execAcczPerform (a : ActRef) (s : State) : Host.Outcome State Fault Refusal := .next (s.perform a isAccz acczJob)
/-- ACCST_PERFORM. -/
def execAccstPerform (a : ActRef) (s : State) : Host.Outcome State Fault Refusal := .next (s.perform a isAccst accstJob)
/-- PATLD_PERFORM. -/
def execPatldPerform (a : ActRef) (s : State) : Host.Outcome State Fault Refusal := .next (s.perform a isPatld patldJob)

/-- MFENCE_RELEASE (R296): the troupe's arena stores have been performed. -/
def execMfenceRelease (r : TRef) (s : State) : Host.Outcome State Fault Refusal :=
  match s.stalledAt r with
  | some (.mfence _) => .next ((s.modTroupe r (fun t => { t with arenaBusy := false })).endStall r)
  | _ => .next s

/-- BATCH_QUEUE_SLOT_FREE (14 R326). -/
def execBatchQueueSlotFree (r : TRef) (s : State) : Host.Outcome State Fault Refusal :=
  match s.stalledAt r, s.block? r.cluster r.block with
  | some (.mcommit _), some b => .next (if b.committedOf r.troupe < batchLimit then s.endStall r else s)
  | _, _ => .next s

/-- MWAIT_RELEASE (14 R328). -/
def execMwaitRelease (r : TRef) (s : State) : Host.Outcome State Fault Refusal :=
  match s.waitingAt r with
  | some (.mwait, _, _, _) => .next (s.lookAgain r mwaitBody)
  | _ => .next s

end Sys2Proof.Machine
end

