-- ==== Sys2Proof/Machine/CopyUnit.lean ====
section
/-! DEFINITION. The copy engine (13 R301, R305 to R309, R314 to R324): it reads a copy's source and transforms it when its
first unit is settled (log entry 32), writes the destination unit by unit, and counts each unit at the barrier. -/

namespace Sys2Proof.Machine

/-! ## A copy at work -/

/-- A copy with the block that issued it, in a state. -/
structure CopyJob where
  s : State
  b : Block
  q : CopyReq
  d : CopyDesc
  deriving Repr

/-- A source element: its code, its scale code, whether it derives from poison. -/
structure SrcElem where
  code  : Nat
  scale : Nat
  bad   : Bool
  deriving DecidableEq, Repr

namespace CopyJob

/-- `n` bytes at an address of the source: their number and whether they are poisoned. -/
def rdSrc (j : CopyJob) (a n : Nat) : Nat × Bool :=
  if j.d.sk = 1 then
    let at_ := presentAt (j.b.region (adrRegion j.d.saddr)) + a
    (j.b.arenaNat at_ n, j.b.arenaPoison at_ n)
  else
    let k := j.s.pageKey j.q.pages a
    (j.s.rdNat k n, j.s.poisonedRange k n)

/-- The address of block `k` of a row of typed lines that starts at `a`, and its slot (02 R47, R307). -/
def lineSlot (ty a k : Nat) : Nat × Nat :=
  let bb := blockBytesOf ty
  let per := lineBlocks (fmtOf ty)
  let i := a % 256 / bb + k
  (a / 256 * 256 + i / per * 256 + i % per * bb, i % per)

/-- Element `i` of a packed block. -/
def packedElem (ty x i : Nat) : Nat := elemOf (fmtOf ty).bits x i

/-- The first byte of element `i` of a packed block and the bytes it lies in. -/
def packedBytes (ty i : Nat) : Nat × Nat :=
  let w := (fmtOf ty).bits
  (w * i / 8, (w * i + w - 1) / 8 + 1 - w * i / 8)

/-- Source element `i0` of the row that starts at `a`: it derives from the bytes it lies in and, for an MX type, from its
block's scale byte (R212, R323). -/
def srcAt (j : CopyJob) (i1 a i0 : Nat) : SrcElem :=
  let ty := j.d.stype
  if j.d.sk = 2 then
    let tile := adrTile j.d.saddr
    let row := adrRow j.d.saddr + i1
    let col := adrCol j.d.saddr + i0
    ⟨j.s.readElem j.b j.q.loose tile row col, 127, sget false j.b.tilePoison (tileKey tile row col)⟩
  else if !typeMx ty then
    let w := CopyDesc.width ty
    let r := j.rdSrc (a + i0 * w) w
    ⟨r.1, 127, r.2⟩
  else
    let k := i0 / 32
    let bb := blockBytesOf ty
    let (at_, n) := packedBytes ty (i0 % 32)
    if j.d.sk = 1 then
      let sc := j.rdSrc (a + j.d.e0 / 32 * bb + k) 1
      ⟨packedElem ty (j.rdSrc (a + k * bb) bb).1 (i0 % 32), sc.1, (j.rdSrc (a + k * bb + at_) n).2 || sc.2⟩
    else
      let (va, slot) := lineSlot ty a k
      let key := j.s.pageKey j.q.pages va
      ⟨packedElem ty (j.rdSrc va bb).1 (i0 % 32), (j.s.rdSide key slot).toNat,
        (j.rdSrc (va + at_) n).2 || j.s.scalePoison key bb⟩

/-- The source element of a destination element; none for padding (R305, R309). -/
def source (j : CopyJob) (e2 e1 e0 : Nat) : Option SrcElem :=
  if j.d.f0 ≤ e0 || j.d.f1 ≤ e1 then none
  else
    let (i0, i1) := if j.d.tr then (e1, e0) else (e0, e1)
    ((srcSide j.q.kind j.d).start j.q.idx i1 e2).map (fun a => j.srcAt i1 a i0)

/-- The exact value of a source element. -/
def value (j : CopyJob) (c : SrcElem) : FVal :=
  if typeMx j.d.stype then dq (fmtOf j.d.stype) c.code c.scale else decodeF (fmtOf j.d.stype) c.code

/-- S of R306. -/
def firstIndex (j : CopyJob) : Nat :=
  if j.d.dk = 0 then j.d.daddr % 2 ^ 57 else (j.q.wid0.toNat * 2 ^ 25 + j.d.daddr % 2 ^ 25) % 2 ^ 64

/-- The rounding of a destination element (R306). -/
def rounding (j : CopyJob) (e2 e1 e0 : Nat) : Rnd :=
  Rnd.at (rmode j.d.rnd j.q.rnd) j.q.seed ((j.firstIndex + (e0 + j.d.de0 * (e1 + j.d.de1 * e2))) % 2 ^ 64)

/-! ## Destination rows (R305 to R308) -/

/-- One element of a plain destination: MOVE or DEQ. -/
def plainElem (j : CopyJob) (e2 e1 e0 : Nat) : Nat × Bool :=
  match j.source e2 e1 e0 with
  | none => (0, false)
  | some c =>
    if j.d.xf = 0 then (c.code, c.bad)
    else
      let T := fmtOf j.d.dtype
      match j.value c with
      | .nan => (nanc (dqCause c.scale) T, c.bad)
      | .inf n => (signed T n T.infMag, c.bad)
      | .fin n m e => ((rndF T (j.rounding e2 e1 e0) n m e).1, c.bad)

/-- A block of an MX destination: its codes and scale, whether it derives from poison, whether sat set STICKY.OVF, and its
inputs to AMAX. -/
structure OutBlock where
  block  : QBlock
  bad    : Bool
  inputs : List FVal

/-- Block `k` of a destination row of an MX type. -/
def mxBlock (j : CopyJob) (e2 e1 k : Nat) : OutBlock :=
  let T := fmtOf j.d.dtype
  let es := (List.range 32).map (fun i => (32 * k + i, j.source e2 e1 (32 * k + i)))
  let cs := es.filterMap (·.2)
  let bad := cs.any (·.bad)
  let good := (cs.filter (fun c => !c.bad))
  match cs with
  | [] => ⟨⟨List.replicate 32 0, 0, false⟩, false, []⟩
  | c :: _ =>
    match j.d.xf with
    | 1 => ⟨quantBlock T j.d.fit (es.map (fun e =>
          ((e.2.map j.value).getD (.fin false 0 0), j.rounding e2 e1 e.1))), bad, good.map j.value⟩
    | 3 => ⟨brescaleBlock T c.scale j.d.delta (es.map (fun e => ((e.2.map (·.code)).getD 0, j.rounding e2 e1 e.1))), bad,
        if bad then [] else brescaleInputs T c.scale (cs.map (·.code))⟩
    | _ => ⟨⟨cs.map (·.code), c.scale, false⟩, bad, []⟩

/-- A destination row or column before it is laid out: data bytes with their poison, scale bytes with theirs, the inputs to
AMAX and STICKY.OVF. -/
structure RowParts where
  bytes  : List (Byte × Bool)
  scales : List (Byte × Bool)
  inputs : List FVal
  ovf    : Bool

/-- The parts of destination row (e2, e1). -/
def rowParts (j : CopyJob) (e2 e1 : Nat) : RowParts :=
  let ty := j.d.dtype
  if typeMx ty then
    let bs := (List.range (j.d.de0 / 32)).map (j.mxBlock e2 e1)
    let data (q : OutBlock) : List (Byte × Bool) :=
      (bytesOf (blockBytesOf ty) (joinElems (fmtOf ty).bits q.block.codes)).map (fun x => (x, q.bad))
    ⟨bs.flatMap data, bs.map (fun q => (BitVec.ofNat 8 q.block.scale, q.bad)), bs.flatMap (·.inputs),
      bs.any (fun q => q.block.ovf && !q.bad)⟩
  else
    let w := CopyDesc.width ty
    ⟨(List.range j.d.de0).flatMap (fun e0 =>
      let r := j.plainElem e2 e1 e0
      (bytesOf w r.1).map (fun x => (x, r.2))), [], [], false⟩

/-- The image of some bytes. -/
def imageOf (bytes : List (Byte × Bool)) (scales : List Byte) : RowImage := ⟨bytes.map (·.1), bytes.map (·.2), scales⟩

/-- Zero bytes that fill up to `n`. -/
def fillTo (n : Nat) (xs : List (Byte × Bool)) : List (Byte × Bool) := xs ++ List.replicate (n - xs.length) (0, false)

/-- A destination row as it lies in its kind of memory (R307). -/
def rowImage (j : CopyJob) (p : RowParts) : RowImage :=
  if typeMx j.d.dtype then
    if j.d.dk = 1 then imageOf (fillTo j.d.dstRow (p.bytes ++ p.scales)) []
    else imageOf p.bytes (p.scales.map (·.1))
  else imageOf p.bytes []

/-- The panel of R308. -/
def panelImage (j : CopyJob) (ps : List RowParts) : RowImage :=
  imageOf (fillTo j.d.panel (ps.flatMap (·.bytes) ++ ps.flatMap (·.scales))) []

/-- The parts of every destination row. -/
def allParts (j : CopyJob) : List RowParts :=
  (List.range j.d.e2).flatMap (fun e2 => (List.range j.d.de1).map (j.rowParts e2))

/-! ## Units (R314) -/

/-- The row that a unit belongs to: with RB the unit itself (R323). -/
def rowOf (j : CopyJob) (unit : Nat) : Nat := if j.d.rb then unit else unit / j.d.rowUnits

/-- Where a destination row starts; none for one that the index vector leaves out. -/
def rowStart (j : CopyJob) (row : Nat) : Option Nat :=
  (dstSide j.q.kind j.d).start j.q.idx (row % j.d.de1) (row / j.d.de1)

/-- The first row with a byte that derives from poison. -/
def firstBad (j : CopyJob) (rows : List RowImage) : Option Nat :=
  if j.d.rb then
    (List.range j.q.total).find? (fun u => (rows.headD ⟨[], [], []⟩).bad.drop (64 * u) |>.take 64 |>.any id)
  else (List.range rows.length).find? (fun i => (j.rowStart i).isSome && ((rows[i]?).map (fun r => r.bad.any id)).getD false)

/-- Whether destination rows may share bytes, so that higher-numbered elements have to be written last (R318). -/
def ordered (j : CopyJob) : Bool :=
  let x := dstSide j.q.kind j.d
  let room := if typeMx x.ty && x.kind = 0 then x.row + x.row / 15 + 512 else x.row
  !(j.d.rb || x.kind = 2 || (!x.indexed && (x.rows ≤ 1 || room ≤ x.st1) && (x.planes ≤ 1 || x.rows * x.st1 + room ≤ x.st2)))

/-- Whether a unit begins inside a block that the unit before it writes (R314). -/
def continues (j : CopyJob) (unit : Nat) : Bool :=
  j.d.dk = 0 && typeMx j.d.dtype && unit % j.d.rowUnits * 64 % blockBytesOf j.d.dtype ≠ 0

/-- Whether a unit may be settled next. -/
def unitReady (j : CopyJob) (unit : Nat) : Bool :=
  unit < j.q.total && !j.q.settled.contains unit
    && (!j.ordered || (List.range unit).all (fun u => j.q.settled.contains u))
    && (!j.continues unit || j.q.settled.contains (unit - 1))

end CopyJob

namespace State

/-- A copy in a core's queue, with its block. -/
def copyJob? (s : State) (core id : Nat) : Option CopyJob :=
  match s.copies.find? (fun q => q.id = id && q.core = core) with
  | none => none
  | some q => (s.block? q.cluster q.block).map (fun b => ⟨s, b, q, copyDesc q.desc⟩)

/-- Changes a copy. -/
def modCopy (s : State) (id : Nat) (f : CopyReq → CopyReq) : State :=
  { s with copies := s.copies.map (fun q => if q.id = id then f q else q) }

end State

namespace CopyJob

/-- Where the copy's barrier lies. -/
def barrier (j : CopyJob) : BarrierAt := copyBarrier ⟨j.q.cluster, j.q.block, j.q.troupe⟩ j.d j.q.bkey

/-- Sets an error bit of the copy's barrier. -/
def flag (j : CopyJob) (k : Nat) (s : State) : State := s.writeBarrier j.barrier ((s.readBarrier j.barrier).setErr k)

/-- The source is read and transformed: AMAX and STICKY.OVF of the issuing troupe for QUANT and RESCALE, from the rows that
will be written; poison stops the rows above the first that holds it (R306, R323). -/
def read (j : CopyJob) : State :=
  let ps := j.allParts
  let rows := if j.d.rb then [j.panelImage ps] else ps.map j.rowImage
  let stop := (j.firstBad rows).map (· + 1)
  let used := if j.d.rb then ps else ps.take (stop.getD ps.length)
  let s1 := j.s.modCopy j.q.id (fun q => { q with
    image := some rows
    stop := match q.stop, stop with
      | some a, some b => some (min a b)
      | none, b => b
      | a, none => a })
  let s2 := if stop.isSome then j.flag errPoison s1 else s1
  if j.d.xf = 1 || j.d.xf = 3 then
    s2.modTroupe ⟨j.q.cluster, j.q.block, j.q.troupe⟩
      (fun t => (t.amaxIn (used.flatMap (·.inputs))).stickyOvf (used.any (·.ovf)))
  else s2

/-! ## Writing a unit (R314, R316, R317, R323) -/

/-- Poisons the sectors of some bytes (R212). -/
def poisonKeys (s : State) (ks : List Nat) : State := (uniq (ks.map (· / 64))).foldl (fun s q => s.poisonSector (64 * q)) s

/-- Poisons the sectors of some bytes of typed lines, and the sideband bytes of the blocks in them: a scale derives from the
elements of its block (R323). -/
def poisonBlocks (s : State) (ks : List Nat) : State :=
  { poisonKeys s ks with sidePoison := (uniq (ks.map (· / 64))).foldl (fun m q => sset false m q true) s.sidePoison }

/-- A unit of plain elements in global memory. -/
def putPlain (j : CopyJob) (va : Nat) (bytes : List Byte) (bad : Bool) (s : State) : State :=
  let s1 := s.writePages j.q.core j.q.pages va bytes
  if bad then poisonKeys s1 ((List.range bytes.length).map (fun i => s.pageKey j.q.pages (va + i))) else s1

/-- Block `k` of a row of typed lines that starts at `a`, with its sideband byte (R210). -/
def putBlock (j : CopyJob) (a : Nat) (row : RowImage) (k : Nat) (s : State) : State :=
  let ty := j.d.dtype
  let bb := blockBytesOf ty
  let (va, slot) := lineSlot ty a k
  let key := s.pageKey j.q.pages va
  (s.yieldLines j.q.core [key]).wrBlock (fmtOf ty) key slot (keyed key ((row.bytes.drop (k * bb)).take bb)) (row.scales.getD k 0)

/-- A unit of a row of typed lines: the blocks that begin in it. -/
def putTyped (j : CopyJob) (a : Nat) (row : RowImage) (piece : Nat) (bad : Bool) (s : State) : State :=
  let ty := j.d.dtype
  let bb := blockBytesOf ty
  let first := (64 * piece + bb - 1) / bb
  let past := min (row.bytes.length / bb) ((64 * piece + 64 + bb - 1) / bb)
  let s1 := (List.range (past - first)).foldl (fun s i => j.putBlock a row (first + i) s) s
  if bad then
    poisonBlocks s1 ((List.range (min 64 (row.bytes.length - 64 * piece))).map (fun i =>
      let q := 64 * piece + i
      s.pageKey j.q.pages ((lineSlot ty a (q / bb)).1 + q % bb)))
  else s1

/-- A unit in the arena; `first` numbers its first byte among those of the copy's elements (R318; log entry 74). -/
def putArena (j : CopyJob) (off first : Nat) (bytes : List Byte) (bad : Bool) (s : State) : State :=
  s.bumpSeq.modBlock j.q.cluster j.q.block (fun b =>
    let d := b.region (adrRegion j.d.daddr)
    writeRegion s.nextSeq (fun i => .engine (j.q.id + 1) (first + i)) (.copy j.q.id j.q.troupe j.q.seq) bad b d off bytes)

/-- The elements of an undefined tile that a copy has written hold its values, when no two acts name the tile (12 R272). -/
def fix (b : Block) (tile : Nat) (keys : List Nat) : Block :=
  if b.undef.getLsbD tile && b.aloneOn tile then { b with fixed := keys.foldl (fun m k => sset false m k true) b.fixed } else b

/-- A unit in a tile: undefined where the copy conflicts with an entry (R317). -/
def putTile (j : CopyJob) (row piece : Nat) (bytes : List Byte) (bad : Bool) (s : State) : State :=
  let tile := adrTile j.d.daddr
  let key (i : Nat) : Nat := tileKey tile (adrRow j.d.daddr + row) (adrCol j.d.daddr + 16 * piece + i)
  let is := List.range (bytes.length / 4)
  s.modBlock j.q.cluster j.q.block (fun b =>
    fix (b.writeTile (is.map (fun i =>
      (key i, if j.q.loose then s.freeWord (tileChoice (key i))
        else if bad then BitVec.ofNat 32 (nanc 6 .fp32)
        else BitVec.ofNat 32 (ofBytes ((bytes.drop (4 * i)).take 4)))))) tile (is.map key))

/-- Writes a unit. -/
def put (j : CopyJob) (rows : List RowImage) (unit : Nat) (s : State) : State :=
  if j.d.rb then
    let image := rows.headD ⟨[], [], []⟩
    j.putArena (adrOff j.d.daddr + 64 * unit) (64 * unit) ((image.bytes.drop (64 * unit)).take 64)
      ((image.bad.drop (64 * unit)).take 64 |>.any id) s
  else
    let r := unit / j.d.rowUnits
    let piece := unit % j.d.rowUnits
    let row := rows.getD r ⟨[], [], []⟩
    let bytes := (row.bytes.drop (64 * piece)).take 64
    let bad := (row.bad.drop (64 * piece)).take 64 |>.any id
    match j.rowStart r with
    | none => s
    | some a =>
      match j.d.dk with
      | 0 => if typeMx j.d.dtype then j.putTyped a row piece bad s else j.putPlain (a + 64 * piece) bytes bad s
      | 1 => j.putArena (a + 64 * piece) (r * j.d.dstRow + 64 * piece) bytes bad s
      | _ => j.putTile (r % j.d.de1) piece bytes bad s

end CopyJob

/-! ## Settling -/

namespace Barrier

/-- `n` transfer units are counted down, one after the other. -/
def settleMany : Nat → Barrier → Barrier
  | 0, b => b
  | n + 1, b => settleMany n b.settleUnit

end Barrier

namespace State

/-- A complete copy is kept for the entries of acts that may read what it has written (R322). -/
def landCopy (s : State) (j : CopyJob) : State :=
  s.modBlock j.q.cluster j.q.block (fun b =>
    if b.tileCount = 0 || j.d.dk = 0 then b
    else { b with landed := b.landed ++ [⟨j.q.id, j.q.dstArea, j.barrier.place, []⟩] })

/-- A unit is counted at the barrier; the last frees the queue entry (R301, R314). -/
def settleCopy (s : State) (j : CopyJob) (unit : Nat) : State :=
  let s1 := (s.writeBarrier j.barrier (s.readBarrier j.barrier).settleUnit).bumpCore j.q.core 0x15 1
  let s2 := s1.modCopy j.q.id (fun q => { q with settled := q.settled ++ [unit] })
  let ended (q : CopyReq) : Bool := q.id = j.q.id && q.total ≤ q.settled.length
  let s3 := if s2.copies.any ended then s2.landCopy j else s2
  { s3 with copies := s3.copies.filter (fun q => !ended q) }

/-- Drops the copies that `sel` names (R302, R324): CANCEL, and every unit counted, as a unit settled (R375). -/
def dropCopies (s : State) (sel : CopyReq → Bool) : State :=
  let s1 := (s.copies.filter sel).foldl (fun s q =>
    let at_ := copyBarrier ⟨q.cluster, q.block, q.troupe⟩ (copyDesc q.desc) q.bkey
    let n := q.total - q.settled.length
    (s.writeBarrier at_ (((s.readBarrier at_).setErr errCancel).settleMany n)).bumpCore q.core 0x15 n) s
  { s1 with copies := s1.copies.filter (fun q => !sel q) }

/-- The copy engine finishes a unit (R314). -/
def settleUnitOf (s : State) (core id unit : Nat) : State :=
  match s.copyJob? core id with
  | none => s
  | some j =>
    if !j.unitReady unit then s
    else
      let s1 := if j.q.image.isNone then j.read else s
      match s1.copyJob? core id with
      | none => s1
      | some j1 =>
        let written : Bool := match j1.q.stop with
          | some r => j1.rowOf unit < r
          | none => true
        (if written then j1.put (j1.q.image.getD []) unit s1 else s1).settleCopy j1 unit

/-- Whether a copy has pages in another module. -/
def remoteCopy (s : State) (q : CopyReq) : Bool := q.pages.any (fun p => p.2.home = 1 && p.2.member ≠ s.member)

/-- A remote access of a copy has failed in a row (R324): FAULT, and the units from that row on are settled without a
write. -/
def failCopy (s : State) (core id row : Nat) : State :=
  match s.copyJob? core id with
  | none => s
  | some j =>
    let rest := (List.range j.q.total).filter (fun u => row ≤ j.rowOf u && !j.q.settled.contains u)
    if !s.remoteCopy j.q || rest.isEmpty then s
    else
      let s1 := (j.flag errFault s).modCopy id (fun q => { q with stop := some (min row (q.stop.getD row)) })
      rest.foldl (fun s u => s.settleCopy j u) s1

end State

/-! ## TURN_SWAP (10 R239, R240; 13 R321) -/

/-- Whether a word of an arena region in `m` is where a copy or an ACCST writes. -/
def inRegions (m : BitVec 16) (r : Nat) : Bool := m.getLsbD r

/-- A member's copy that the turn waits for: it writes a region of `m`, or has not read one yet. -/
def turnCopy (m : BitVec 16) (q : CopyReq) : Bool :=
  let d := copyDesc q.desc
  (d.dk = 1 && inRegions m (adrRegion d.daddr)) || (d.sk = 1 && q.image.isNone && inRegions m (adrRegion d.saddr))

/-- An act-stream instruction that stores into a region of `m`. -/
def turnInsn (m : BitVec 16) (x : MInsn) : Bool :=
  match x.i with
  | .accst o => !accstGlobal o && inRegions m (accstRegion o)
  | _ => false

/-- An entry still stores: its batch holds no error. -/
def MAct.stores (a : MAct) (m : BitVec 16) (e : MEntry) : Bool :=
  (((a.batches[e.batch]?).getD Batch.fresh).err).isNone && e.insns.any (turnInsn m)

/-- Whether writes of members of `u` into regions of `u.m` are still to come. -/
def turnPending (s : State) (c i : Nat) (b : Block) (u : Turn) : Bool :=
  let mem (t : Nat) : Bool := u.g.getLsbD t
  s.copies.any (fun q => q.cluster = c && q.block = i && mem q.troupe && turnCopy u.m q)
    || b.pend.any (fun p => mem p.troupe && p.list.any (turnInsn u.m))
    || b.acts.any (fun a => a.members.any (fun x => mem x.troupe)
      && (a.queue.any (a.stores u.m)
        || (a.bad.isNone && a.members.any (fun x => mem x.troupe && x.list.any (turnInsn u.m)))))

/-- The troupes of a turn that have arrived or retired (R239). -/
def turnArrived (b : Block) (u : Turn) : Bool :=
  (troupesOf u.g).all (fun t => u.arrived.getLsbD t || ((b.troupes[t]?).map (fun q => decide (q.live = 0))).getD true)

/-- The key range of a region's next plane. -/
def inNext (d : DWord) (a : Nat) : Bool := nextAt d ≤ a && a < nextAt d + rgnSize d

/-- The lowest collided word of the lowest FAULT region of `m`: its region and offset. -/
def collidedWord (b : Block) (m : BitVec 16) : Option (Nat × Nat) :=
  (regionsOf m).findSome? (fun r =>
    let d := b.region r
    if rgnRule d ≠ 2 then none
    else (b.marks.find? (fun e => inNext d e.1 && (e.2.map (·.collided)).getD false)).map (fun e => (r, e.1 - nextAt d)))

/-- Clears the collided marks of the regions of `m`. -/
def clearCollided (b : Block) (m : BitVec 16) : Block :=
  { b with marks := b.marks.map (fun e =>
      if (regionsOf m).any (fun r => inNext (b.region r) e.1) then (e.1, e.2.map (fun k => { k with collided := false }))
      else e) }

/-- The stamps after the planes of `n` bytes at `now` and `new` have been swapped, in a block with tiles (R241): a step that reads
a word of the new present plane may take the word of the old one, which lies at `new`. -/
def swapStamps (b : Block) (seq now new n : Nat) : Sparse (List Stamp) :=
  if b.tileCount = 0 then b.stamps
  else
    let inPlanes (w : Nat) : Bool := (now ≤ 4 * w && 4 * w < now + n) || (new ≤ 4 * w && 4 * w < new + n)
    let kept := sdrop inPlanes b.stamps
    ssets [] kept ((List.range (n / 4)).filterMap (fun i =>
      let old := sget [] b.stamps (new / 4 + i)
      let x := b.arenaNat (new + 4 * i) 4
      if old.isEmpty && x = b.arenaNat (now + 4 * i) 4 then none
      else some (now / 4 + i, ⟨seq, .turn, BitVec.ofNat 32 x⟩ :: old)))

/-- No step waits any more for the words of a plane that was present (R241). -/
def dropReads (b : Block) (a n : Nat) : Block :=
  { b with acts := b.acts.map (fun c => { c with batches := c.batches.map (fun x =>
      { x with words := x.words.filter (fun w => w.first + w.len ≤ a || a + n ≤ w.first) }) }) }

/-- Swaps the planes of a region (R239), at a place in the order of issue. -/
def swapRegion (seq : Nat) (b : Block) (r : Nat) : Block :=
  let d := b.region r
  let d1 := d ^^^ 0x200
  let n := rgnSize d
  let now := presentAt d1
  let new := nextAt d1
  let b1 := { dropReads b new n with
    rgn := b.rgn.set r d1, marks := sdrop (inNext d) b.marks, stamps := swapStamps b seq now new n }
  if rgnInit d = 2 then b1
  else
    let copy := decide (rgnInit d = 1)
    let bytes := if copy then sgets 0 b.arena now n else List.replicate n 0
    let words := List.range (n / 8)
    { b1 with
      arena := ssets 0 b1.arena (keyed new bytes)
      apoison := words.foldl (fun p w => sset false p (new / 8 + w) (copy && sget false b.apoison (now / 8 + w))) b1.apoison }

namespace State

/-- Every member of a turn that has arrived: what `f` does to it. -/
def eachArrived (s : State) (c i : Nat) (u : Turn) (f : State → TRef → State) : State :=
  (troupesOf u.arrived).foldl (fun s t => f s ⟨c, i, t⟩) s

/-- The turn at `k` of a block's pending turns is carried out. -/
def turnSwap (s : State) (c i k : Nat) : State :=
  match s.block? c i, s.cluster? c with
  | some b, some cl =>
    match b.turns[k]? with
    | none => s
    | some u =>
      if !s.mayIssue c || !turnArrived b u || turnPending s c i b u then s
      else
        let done (b : Block) : Block := { b with turns := b.turns.filter (fun v => v ≠ u) }
        match collidedWord b u.m with
        | some (r, off) =>
          (s.setBlock c i (done (clearCollided b u.m))).eachArrived c i u (fun s q =>
            match s.troupe? q with
            | none => s
            | some t =>
              match waitCur t with
              | none => s
              | some w => s.takeTrap q cl.launch w.pc (arenaTrap ⟨6, causePlaneCollision, 2, off⟩ r t.live))
        | none =>
          (s.bumpSeq.setBlock c i (done ((regionsOf u.m).foldl (swapRegion s.nextSeq) b))).eachArrived c i u
            (fun s q => s.endWait q (fun _ s => s))
  | _, _ => s

end State

/-! ## Meanings -/

/-- COPY_UNIT_SETTLED. -/
def execCopyUnitSettled (core copy unit : Nat) (s : State) : Host.Outcome State Fault Refusal :=
  .next (s.settleUnitOf core copy unit)

/-- COPY_REMOTE_FAULT. -/
def execCopyRemoteFault (core copy row : Nat) (s : State) : Host.Outcome State Fault Refusal := .next (s.failCopy core copy row)

/-- TURN_SWAP. -/
def execTurnSwap (cluster block index : Nat) (s : State) : Host.Outcome State Fault Refusal :=
  .next (s.turnSwap cluster block index)

end Sys2Proof.Machine
end

