-- ==== Sys2Proof/Machine/Queue.lean ====
section
/-! DEFINITION. TCLAIM, LAUNCH and SLEEP (14 R329, R330, R340 to R342). -/

namespace Sys2Proof.Machine

/-! ## TCLAIM (R341) -/

/-- The count of TCLAIM: 1 to 64. -/
def claimCount (o : Op) (t : Troupe) : Nat := max 1 (min 64 (t.operand 6 o o.b 0))

/-- What TCLAIM takes from a claim queue: the first index, how many, and the queue after it. -/
def takeClaim (q : Claim) (launch k : Nat) : Word × Word × Claim :=
  if q.owners.contains launch && q.next.toNat < q.limit.toNat then
    let n := min k (q.limit.toNat - q.next.toNat)
    (q.next, BitVec.ofNat 32 n, { q with next := q.next + BitVec.ofNat 32 n })
  else (0xFFFFFFFF, 0, q)

def tclaimBody (o : Op) (x : Env) (s : State) : Res :=
  let n := bitsOf o.c.toNat 4 0
  let (a, b, q) := takeClaim ((s.claims[n]?).getD ⟨0, 0, []⟩) x.cl.launch (claimCount o x.t)
  .done ({ s with claims := s.claims.set n q }.setTroupe x.r (x.t.produceS false o.w true o.dst.toNat [a, b]))

/-! ## LAUNCH (R329, R330) -/

/-- The launch queue of LAUNCH, and how many records it may hold. -/
def launchQueue (o : Op) : Nat := 12 + bitsOf o.c.toNat 1 0
def deviceQueueDepth : Nat := 64
def hostQueueDepth : Nat := 256

namespace State

/-- The records in a launch queue. -/
def queue (s : State) (n : Nat) : List QRec := (s.lq[n]?).getD []

/-- The arrival number after one (R329). -/
def nextArrival (a : Word) : Word := if a = 0xFFFFFFFE then 0 else a + 1

/-- A record arrives at the end of a queue. -/
def enqueue (s : State) (n : Nat) (bytes : List Byte) (ctx : Nat) (hseq : Word) (parent : Option Nat) (grant : Bool) : State :=
  { s with
    lq := s.lq.set n (s.queue n ++ [⟨bytes, s.arrivals, ctx, hseq, parent, grant⟩])
    arrivals := nextArrival s.arrivals }

end State

/-- Whether the launch queue of a LAUNCH has room; no other instruction needs any. -/
def launchRoom (s : State) : Instr → Bool
  | .launch o => (s.queue (launchQueue o)).length < deviceQueueDepth
  | _ => true

/-- The result of LAUNCH in sd. -/
def launchResult (o : Op) (x : Env) (v : Word) (s : State) : State :=
  s.modTroupe x.r (fun t => t.produceS false o.w true o.dst.toNat [v])

/-- LAUNCH, which reads its record as a .cg load at device scope does (R330): the issuing lanes' earlier .ca stores are
written through first, since their accesses happen before the new launch's (R334). -/
def launchBody (o : Op) (x : Env) (s : State) : Res :=
  let n := launchQueue o
  if deviceQueueDepth ≤ (s.queue n).length then
    if x.det then .stall s else .done (launchResult o x 0xFFFFFFFF s)
  else
    let va := (x.t.rawPair o.a 0).toNat
    let s1 := s.flushCore x.core
    match s1.checkLoad x.core x.ctx .plain 256 256 va (pageChoice va) with
    | .error f => .trap (s.lookFaults x.core x.ctx [f]) (trapMem f .load x.t.active)
    | .ok (l, k) =>
      match s1.takeEntries x.core [(pointOf 1 0 l, k, 256)] with
      | none => .stall s
      | some s2 =>
        let s3 := (s2.lookPage x.core x.ctx va).yieldLines x.core [k]
        let bytes := s3.rdBytes k 256
        let v : Word := if x.det then BitVec.ofNat 32 x.t.launches else s3.arrivals
        let s4 := s3.enqueue n bytes x.ctx 0xFFFFFFFF (some x.cl.launch) (recBits bytes 94 94 = 1 && x.la.grant)
        .done ((launchResult o x v s4).modTroupe x.r (fun t => { t with launches := t.launches + 1 }))

/-! ## SLEEP (R342) -/

/-- The clocks of SLEEP. -/
def sleepClocks (o : Op) (t : Troupe) : Nat := min 1048575 (t.operand 6 o o.b 0)

/-- SLEEP 0 only ends the run and resets the wait count. -/
def sleepBody (o : Op) (x : Env) (s : State) : Res :=
  let n := sleepClocks o x.t
  if n = 0 then .done (s.modTroupe x.r (fun t => { t with waitw := 0 })) else .sleep s (s.clk + n)

/-! ## Meanings -/

def execTclaim (o : Op) (s : State) : Host.Outcome State Fault Refusal := issueOp 0x185 (.tclaim o) o (tclaimBody o) s
def execLaunch (o : Op) (s : State) : Host.Outcome State Fault Refusal := issueOp 0x186 (.launch o) o (launchBody o) s
def execSleep (o : Op) (s : State) : Host.Outcome State Fault Refusal := issueOp 0x187 (.sleep o) o (sleepBody o) s

/-- SLEEP_EXPIRY. -/
def execSleepExpiry (r : TRef) (s : State) : Host.Outcome State Fault Refusal :=
  match s.issuer? r with
  | none => .next s
  | some t =>
    match t.status with
    | .sleeping u => .next (if u ≤ s.clk then s.setTroupe r { t with status := .ready, waitw := 0 } else s)
    | _ => .next s

/-- LAUNCH_QUEUE_ROOM: a LAUNCH needs room in its queue, and an entry for the record that it reads (R329, 09 R204). -/
def execLaunchQueueRoom (r : TRef) (s : State) : Host.Outcome State Fault Refusal :=
  match s.stalledAt r, s.block? r.cluster r.block with
  | some (.launch o), some b =>
    .next (if launchRoom s (.launch o) && (s.mshrOf b.core).length < State.mshrLimit then s.endStall r else s)
  | _, _ => .next s

end Sys2Proof.Machine
end

