-- ==== Sys2Proof/Machine/System.lean ====
section
/-! DEFINITION. The system class 0xE (18 R399 to R405; 04 R102 to R106): TRAP, RETT, BKPT, SREAD and SWRITE. -/

namespace Sys2Proof.Machine

/-! ## TRAP and BKPT (R403) -/

/-- The code of TRAP and BKPT. -/
def trapCode (o : Op) (t : Troupe) : DWord := BitVec.ofNat 64 (t.operand 6 o o.b 0)

def trapBody (o : Op) (x : Env) (s : State) : Res :=
  let sel := x.t.selected o.guard
  if sel = 0 then .done s else .trap s (trapAt causeTrapInsn (trapCode o x.t) sel)

/-- Whether a debugger is attached to a context. -/
def State.debugged (s : State) (ctx : Nat) : Bool :=
  match s.ctx? ctx with
  | some c => c.debugger
  | none => false

/-- The response kinds of 22 R435. -/
def respCompletion : Nat := 0x81
def respStatus : Nat := 0x82
def respPager : Nat := 0x83
def respDiscard : Nat := 0x84
def respEvent : Nat := 0x85
def respAttest : Nat := 0x86
def respGap : Nat := 0x87

/-- BKPT: with a debugger attached the troupe parks, its trap registers unwritten, and the host is notified (log entry 33). -/
def bkptBody (o : Op) (x : Env) (s : State) : Res :=
  let sel := x.t.selected o.guard
  if sel = 0 then .done s
  else if s.debugged x.ctx then
    .debug (s.respond respEvent x.ctx (bytesOf 8 x.c.pc.toNat ++ bytesOf 8 (trapCode o x.t).toNat ++ bytesOf 16 sel.toNat))
  else .trap s (trapAt causeBreakpoint (trapCode o x.t) sel)

/-! ## RETT (R399, R400) -/

def rettBody (x : Env) (s : State) : Res :=
  match x.t.held with
  | none => .trap s (trapAt causePriv 0 x.t.active)
  | some h =>
    if x.t.active ≠ h.h &&& ~~~x.t.exited then .trap s (trapAt causeIllegalOp (x.c.hi.setWidth 64) x.t.active)
    else .resumed (s.modTroupe x.r (fun t => (t.retire 1 x.c.len).resume))

/-! ## SREAD (R102, R106, R404) -/

/-- The special register that an op names. -/
def opSpecial (o : Op) : Nat := o.c.toNat % 128

/-- CTL (R103). -/
def ctlOf (t : Troupe) : Word := BitVec.ofNat 32 (t.rnd.toNat + 8 * bit t.det)

/-- TMASK of a lane's hardware troupe: a declared width of 128 has two (01 R23). -/
def tmaskOf (m : Lanes) (l : Nat) : DWord := if l < 64 then m.extractLsb' 0 64 else m.extractLsb' 64 64

/-- A special register as a lane reads it. -/
def specialValue (s : State) (t : Troupe) (n l : Nat) : DWord :=
  match n with
  | 0x00 => t.wid l
  | 0x01 => BitVec.ofNat 64 l
  | 0x02 => ((t.fields[1]?).getD 0).setWidth 64
  | 0x03 => ((t.fields[2]?).getD 0).setWidth 64
  | 0x04 => ((t.fields[3]?).getD 0).setWidth 64
  | 0x05 => ((t.fields[4]?).getD 0).setWidth 64
  | 0x06 => ((t.fields[5]?).getD 0).setWidth 64
  | 0x07 => BitVec.ofNat 64 l
  | 0x08 => BitVec.ofNat 64 t.width
  | 0x09 => BitVec.ofNat 64 s.member
  | 0x0A => 1
  | 0x10 => (ctlOf t).setWidth 64
  | 0x11 => t.seed
  | 0x12 => t.amax.setWidth 64
  | 0x13 => t.sticky.setWidth 64
  | 0x14 => t.prog.setWidth 64
  | 0x18 => t.tcause.setWidth 64
  | 0x19 => t.tpc
  | 0x1A => t.tval
  | 0x1B => tmaskOf t.tmask l
  | 0x1C => t.tvec
  | 0x20 => BitVec.ofNat 64 (if t.det then t.retiredInsns else s.clk)
  | _ => 0

def sreadBody (o : Op) (x : Env) (s : State) : Res :=
  let n := opSpecial o
  let v (l : Nat) : DWord := specialValue s x.t n l
  let lo (l : Nat) : Word := (v l).extractLsb' 0 32
  let hi (l : Nat) : Word := (v l).extractLsb' 32 32
  let d := o.dst.toNat
  if o.a.cls = .s then
    .done (s.setTroupe x.r (x.t.produceS true o.w true d (if special64 n then [lo 0, hi 0] else [lo 0])))
  else
    .done (s.setTroupe x.r (x.t.produceV o.w d (x.t.selected o.guard) (if special64 n then [lo, hi] else [lo]) []))

/-! ## SWRITE (R104, R405) -/

/-- The value that SWRITE writes: a 32-bit source under its modifier (R74). -/
def swriteValue (o : Op) (t : Troupe) : DWord :=
  if o.a.isImm then BitVec.ofNat 64 (((o.ext.map (fun e => e.value.toNat)).getD 0))
  else if special64 (opSpecial o) then t.readSPair o.a.num.toNat
  else BitVec.ofNat 64 (t.operand 6 o o.a 0)

/-- ILLEGAL_OP for a reserved value of CTL or STICKY, with the upper half of the word that gave it. -/
def swriteTrap (o : Op) (x : Env) : TrapX :=
  trapAt causeIllegalOp ((if o.a.isImm then x.c.hiExt else x.c.hi).setWidth 64) x.t.active

def swriteBody (o : Op) (x : Env) (s : State) : Res :=
  let v := swriteValue o x.t
  match opSpecial o with
  | 0x10 =>
    let rnd : BitVec 3 := v.extractLsb' 0 3
    if rnd = 5 || rnd = 6 || v.extractLsb' 4 60 ≠ 0 then .trap s (swriteTrap o x)
    else .done (s.setTroupe x.r { x.t with rnd := rnd })
  | 0x11 => .done (s.setTroupe x.r { x.t with seed := v })
  | 0x13 =>
    if v.extractLsb' 3 61 ≠ 0 then .trap s (swriteTrap o x)
    else .done (s.setTroupe x.r { x.t with sticky := v.extractLsb' 0 32 })
  | _ =>
    if x.t.held.isNone then .trap s (trapAt causePriv 0 x.t.active)
    else .done (s.setTroupe x.r { x.t with tmask := x.t.tmask &&& (v ++ v) })

/-! ## Meanings -/

def execTrap (o : Op) (s : State) : Host.Outcome State Fault Refusal := issueOp 0x1C0 (.trap o) o (trapBody o) s
def execRett (o : Op) (s : State) : Host.Outcome State Fault Refusal := issueOp 0x1C1 (.rett o) o rettBody s
def execBkpt (o : Op) (s : State) : Host.Outcome State Fault Refusal := issueOp 0x1C2 (.bkpt o) o (bkptBody o) s
def execSread (o : Op) (s : State) : Host.Outcome State Fault Refusal := issueOp 0x1C3 (.sread o) o (sreadBody o) s
def execSwrite (o : Op) (s : State) : Host.Outcome State Fault Refusal := issueOp 0x1C4 (.swrite o) o (swriteBody o) s

end Sys2Proof.Machine
end

