-- ==== Sys2Proof/Machine/Tick.lean ====
section
/-! DEFINITION. The clock that passes with every step (04 R106; 14 R344, R345; 16 R375; log entry 5): the module's clock
count, the wait counts of ready troupes, and the counters of clocks. -/

namespace Sys2Proof.Machine

/-- Whether a troupe has work to issue and nothing holds it (R344). -/
def Troupe.isReady (t : Troupe) : Bool := t.status = .ready && !t.frontier.isEmpty

/-- Whether a troupe holds an issue slot. -/
def State.holdsSlot (s : State) (r : TRef) : Bool := s.slots.any (fun e => e.2 = r)

/-- One clock for a troupe: HOLD and READYW of R375, the wait count of R345. -/
def Troupe.clock (t : Troupe) (holds : Bool) : Troupe :=
  match t.status with
  | .stalled _ _ =>
    { t with waitw := t.waitw + 1, counters := { t.counters with hold := (t.counters.hold + 1) % 2 ^ 64 } }
  | .ready =>
    if t.isReady && !holds then
      { t with waitw := t.waitw + 1, counters := { t.counters with readyw := (t.counters.readyw + 1) % 2 ^ 64 } }
    else { t with waitw := t.waitw + 1 }
  | _ => t

/-- A troupe whose code is no longer being verified is ready again (22 R444). -/
def Troupe.wake (t : Troupe) (s : State) (core ctx : Nat) : Troupe :=
  match t.status with
  | .verifying va =>
    match s.fetch core ctx va with
    | .pending _ => t
    | _ => { t with status := .ready, waitw := 0 }
  | _ => t

/-- One clock for the troupes of a block of a launch of context `ctx`. -/
def clockBlock (s : State) (ctx c b : Nat) (x : Block) : Block :=
  { x with troupes :=
      (List.range x.troupes.length).zipWith (fun i t => (t.clock (s.holdsSlot ⟨c, b, i⟩)).wake s x.core ctx) x.troupes }

/-- One clock for a cluster: a troupe that is being saved, or is saved, is not ready (R344). -/
def clockCluster (s : State) (c : Nat) (cl : Cluster) : Cluster :=
  if cl.state ≠ .resident then cl else { cl with blocks := (List.range cl.blocks.length).zipWith (fun i b => clockBlock s (((s.launch? cl.launch).map (·.ctx)).getD 0) c i b) cl.blocks }

/-- The cores of the module (01 R37). -/
def coreTotal : Nat := 96

/-- One clock (log entry 5): no troupe is issuing any more. -/
def State.tick (s : State) : State :=
  let s1 := { s with
    clk := s.clk + 1
    free := s.free + 1
    cur := none
    clusters := s.clusters.map (fun e => (e.1, clockCluster s e.1 e.2)) }
  if s.mshr.length < mshrLimit then s1
  else ((List.range coreTotal).filter (fun c => mshrLimit ≤ (s.mshrOf c).length)).foldl (fun s c => s.bumpCore c 0x12 1) s1

end Sys2Proof.Machine
end

