-- ==== Sys2Proof/Machine/Pipeline.lean ====
section
/-! DEFINITION. The issue slots (14 R343 to R345; 01 R14, R24) and the pipelines behind them: late and SFU results (03 R97;
06 R163), miss-status entries and fills (09 R204), table walks (R216, R217) and invalidations (R220). -/

namespace Sys2Proof.Machine

/-! ## Issue arbitration (R345) -/

/-- The priority class of a launch (15 R347). -/
def Launch.cls (la : Launch) : Nat := recBits la.bytes 92 91

/-- Declared troupes in a hardware troupe (01 R22; 15 R347, R348). -/
def Launch.segments (la : Launch) : Nat :=
  let hw := 16 * 2 ^ recBits la.bytes 96 95
  let width := 2 ^ recBits la.bytes 66 64
  if width < hw then hw / width else 1

/-- The hardware troupe of a declared troupe, and its quadrant (R14). -/
def Launch.hwTroupe (la : Launch) (t : Nat) : Nat := t / la.segments
def Launch.quadrant (la : Launch) (t : Nat) : Nat := la.hwTroupe t % 4

/-- The declared troupes that share the hardware troupe of a declared troupe. -/
def Launch.sharers (la : Launch) (t : Nat) : List Nat :=
  (List.range la.segments).map (fun i => t / la.segments * la.segments + i)

/-- The wait count of a troupe: that of its hardware troupe, the longest of its ready segments; a run that one of them
starts resets it for all (R345). -/
def sharedWait (la : Launch) (b : Block) (t : Nat) : Nat :=
  (la.sharers t).foldl (fun m i =>
    match b.troupes[i]? with
    | some q => if q.isReady then max m q.waitw else m
    | none => m) 0

/-- A troupe that asks for a slot: its effective class, wait count and place among the slots. -/
structure Bid where
  r    : TRef
  cls  : Nat
  wait : Nat
  slot : Nat
  deriving DecidableEq, Repr

/-- The effective class (R345). -/
def effectiveClass (c w : Nat) : Nat := min 3 (c + w / 256)

/-- Whether a bid comes before another: class, wait count, then slot number, which the model takes in the order of
placement (log entry 34). -/
def Bid.before (a b : Bid) : Bool :=
  b.cls < a.cls || (a.cls = b.cls && (b.wait < a.wait || (a.wait = b.wait && a.slot ≤ b.slot)))

/-- The best of some bids. -/
def bestBid : List Bid → Option Bid
  | [] => none
  | b :: bs =>
    match bestBid bs with
    | some c => some (if b.before c then b else c)
    | none => some b

namespace State

/-- The bids of a block for a quadrant of its core; a troupe that still has the word of a pending fault to execute takes no part
(18 R410). -/
def blockBids (s : State) (quadrant c : Nat) (cl : Cluster) (la : Launch) (i : Nat) (b : Block) : List Bid :=
  (List.range b.troupes.length).filterMap (fun t =>
    match b.troupes[t]? with
    | some q =>
      let w := sharedWait la b t
      if q.isReady && !q.redo && la.quadrant t = quadrant && s.mayIssue c then
        some ⟨⟨c, i, t⟩, effectiveClass la.cls w, w, (cl.placed * 16 + i) * 64 + t⟩
      else none
    | none => none)

/-- The bids for the slot of a quadrant. -/
def bids (s : State) (core quadrant : Nat) : List Bid :=
  s.clusters.flatMap (fun e =>
    match s.launch? e.2.launch with
    | none => []
    | some la => (List.range e.2.blocks.length).flatMap (fun i =>
      match e.2.blocks[i]? with
      | some b => if b.core = core then s.blockBids quadrant e.1 e.2 la i b else []
      | none => []))

/-- A troupe takes a slot: a fresh run begins at the entry that R24 and R27 choose; a run that was stopped goes on. -/
def startRun (t : Troupe) : Troupe :=
  if t.midRun then { t with waitw := 0 }
  else { t with
    waitw := 0
    midRun := true
    run := Troupe.freshRun
    frontier := chooseEntry t.frontier
    counters := { t.counters with runs := (t.counters.runs + 1) % 2 ^ 64 } }

/-- A run of a hardware troupe has started: its segments wait anew. -/
def restartWaits (s : State) (r : TRef) : State :=
  match (s.cluster? r.cluster).bind (fun cl => s.launch? cl.launch) with
  | some la => (la.sharers r.troupe).foldl (fun s i => s.modTroupe ⟨r.cluster, r.block, i⟩ (fun t => { t with waitw := 0 })) s
  | none => s

/-- The slot of a quadrant is given out. -/
def grantSlot (s : State) (core quadrant : Nat) : State :=
  if 4 ≤ quadrant || (s.slotOf core quadrant).isSome then s
  else match bestBid (s.bids core quadrant) with
    | none => s
    | some b => { (s.modTroupe b.r startRun).restartWaits b.r with slots := s.slots ++ [(core * 4 + quadrant, b.r)] }

/-! ## Who issues next -/

/-- The troupes of a cluster. -/
def troupesIn (c : Nat) (cl : Cluster) : List TRef :=
  (List.range cl.blocks.length).flatMap (fun i =>
    (List.range (((cl.blocks[i]?).map (fun b => b.troupes.length)).getD 0)).map (fun t => ⟨c, i, t⟩))

/-- The troupes of a cluster that are ready for the word of a pending fault (18 R410), each with its core and quadrant. -/
def redosIn (s : State) (c : Nat) (cl : Cluster) : List (Nat × Nat × TRef) :=
  if !s.mayIssue c then []
  else (troupesIn c cl).filterMap (fun r =>
    match s.launch? cl.launch, cl.blocks[r.block]?, s.troupe? r with
    | some la, some b, some t => if t.isReady && t.redo then some (b.core, la.quadrant r.troupe, r) else none
    | _, _, _ => none)

/-- Every such troupe. -/
def redos (s : State) : List (Nat × Nat × TRef) := s.clusters.flatMap (fun e => s.redosIn e.1 e.2)

/-- The troupe that issues next on a quadrant: one with the word of a pending fault, which needs no slot (18 R410), else the one
that holds the slot. -/
def issuerAt (s : State) (core quadrant : Nat) : Option TRef :=
  match s.redos.find? (fun e => e.1 = core && e.2.1 = quadrant) with
  | some e => some e.2.2
  | none => s.slotOf core quadrant

/-! ## Fills (R204) -/

/-- The fill of a sector, or the acceptance of a store by L2, frees its entry: the level that performs the access, and L2 beside
L1 where the fill is a .ca load's, hold the sector (R204, R206). -/
def fillLine (s : State) (core sector : Nat) : State :=
  match (s.mshrOf core).find? (fun e => e / 4 = sector) with
  | none => s
  | some e => { s with mshr := s.mshr.filter (fun m => !(m.1 = core && m.2 = e)) }.fillAt core sector (e % 4)

/-! ## Table walks and invalidations (R216, R217, R220) -/

/-- A walk completes: its translation enters the core's cache. -/
def finishWalk (s : State) (core ctx va : Nat) : State :=
  if 2 ^ 57 ≤ va || (s.ctx? ctx).isNone then s
  else match s.walk (s.ctxL1 ctx) va with
    | .leaf _ => s.lookPage core ctx va
    | _ => s

/-- The context of a launch of a cluster. -/
def ctxOfLaunch (s : State) (l : Nat) : Option Nat := (s.launch? l).map (·.ctx)

/-- Whether an access of a context translated under an old entry is still to be performed: one of a copy, of an engine, or of
a binding, which uses its translations until it completes (R220; 17 R377). -/
def invalPending (s : State) (v : Invalidation) : Bool :=
  s.staleWork (fun q => q.ctx = v.ctx) (fun c => c = v.ctx) (fun _ => true)
    || s.launches.any (fun e => e.2.ctx = v.ctx && e.2.bindings.any (fun b =>
      !b.complete && !b.fault && s.stale v.ctx b.pages))

/-- STATUS: the command's SEQ and the code (22 R434; log entry 35). -/
def status (s : State) (ctx : Nat) (seq : Word) (code : Nat) : State :=
  s.respond respStatus ctx (bytesOf 4 seq.toNat ++ bytesOf 4 code)

/-- An invalidation completes: the context's translations leave every core's cache. -/
def finishInvalidation (s : State) (ctx : Nat) : State :=
  match s.invals.find? (fun v => v.ctx = ctx) with
  | none => s
  | some v =>
    if s.invalPending v then s
    else { s with invals := s.invals.erase v, tlb := s.tlb.filter (fun e => e.ctx ≠ ctx) }.status ctx v.seq 0

end State

/-! ## Meanings -/

/-- ISSUE_SLOT_GRANT. -/
def execIssueSlotGrant (core quadrant : Nat) (s : State) : Host.Outcome State Fault Refusal := .next (s.grantSlot core quadrant)

/-- LATE_RESULT. -/
def execLateResult (r : TRef) (s : State) : Host.Outcome State Fault Refusal := .next (s.modTroupe r (Troupe.arriveOne false))

/-- SFU_RESULT. -/
def execSfuResult (r : TRef) (s : State) : Host.Outcome State Fault Refusal := .next (s.modTroupe r (Troupe.arriveOne true))

/-- SFU_ENTRY_FREE. -/
def execSfuEntryFree (r : TRef) (s : State) : Host.Outcome State Fault Refusal :=
  match s.stalledAt r, s.troupe? r with
  | some i, some t =>
    match i.op? with
    | some (code, _) => .next (if code / 32 = 6 && t.sfuEntries < sfuLimit then s.endStall r else s)
    | none => .next s
  | _, _ => .next s

/-- MISS_STATUS_ENTRY_FREE. A LAUNCH that its queue holds waits for LAUNCH_QUEUE_ROOM instead. -/
def execMissStatusEntryFree (r : TRef) (s : State) : Host.Outcome State Fault Refusal :=
  match s.stalledAt r, s.block? r.cluster r.block with
  | some i, some b =>
    match i.op? with
    | some (code, _) =>
      .next (if (code / 32 = 8 || code / 32 = 9 || code = 0x186) && launchRoom s i
          && (s.mshrOf b.core).length < State.mshrLimit then s.endStall r else s)
    | none => .next s
  | _, _ => .next s

/-- LINE_FILL. -/
def execLineFill (core sector : Nat) (s : State) : Host.Outcome State Fault Refusal := .next (s.fillLine core sector)

/-- TABLE_WALK. -/
def execTableWalk (core ctx : Nat) (va : DWord) (s : State) : Host.Outcome State Fault Refusal :=
  .next (s.finishWalk core ctx va.toNat)

/-- INVALIDATION_COMPLETE. -/
def execInvalidationComplete (ctx : Nat) (s : State) : Host.Outcome State Fault Refusal := .next (s.finishInvalidation ctx)

end Sys2Proof.Machine
end

