-- ==== Sys2Proof/Machine/Sha.lean ====
section
/-! DEFINITION. SHA-384 (22 R439 to R446), as FIPS 180-4 gives it: the manual names the function and not its definition (log
entry 36). -/

namespace Sys2Proof.Machine.Sha

/-- The 80 round constants: the first 64 fraction bits of the cube roots of the first 80 primes. -/
def rounds : List DWord :=
  [0x428A2F98D728AE22, 0x7137449123EF65CD, 0xB5C0FBCFEC4D3B2F, 0xE9B5DBA58189DBBC]
    ++ [0x3956C25BF348B538, 0x59F111F1B605D019, 0x923F82A4AF194F9B, 0xAB1C5ED5DA6D8118]
    ++ [0xD807AA98A3030242, 0x12835B0145706FBE, 0x243185BE4EE4B28C, 0x550C7DC3D5FFB4E2]
    ++ [0x72BE5D74F27B896F, 0x80DEB1FE3B1696B1, 0x9BDC06A725C71235, 0xC19BF174CF692694]
    ++ [0xE49B69C19EF14AD2, 0xEFBE4786384F25E3, 0x0FC19DC68B8CD5B5, 0x240CA1CC77AC9C65]
    ++ [0x2DE92C6F592B0275, 0x4A7484AA6EA6E483, 0x5CB0A9DCBD41FBD4, 0x76F988DA831153B5]
    ++ [0x983E5152EE66DFAB, 0xA831C66D2DB43210, 0xB00327C898FB213F, 0xBF597FC7BEEF0EE4]
    ++ [0xC6E00BF33DA88FC2, 0xD5A79147930AA725, 0x06CA6351E003826F, 0x142929670A0E6E70]
    ++ [0x27B70A8546D22FFC, 0x2E1B21385C26C926, 0x4D2C6DFC5AC42AED, 0x53380D139D95B3DF]
    ++ [0x650A73548BAF63DE, 0x766A0ABB3C77B2A8, 0x81C2C92E47EDAEE6, 0x92722C851482353B]
    ++ [0xA2BFE8A14CF10364, 0xA81A664BBC423001, 0xC24B8B70D0F89791, 0xC76C51A30654BE30]
    ++ [0xD192E819D6EF5218, 0xD69906245565A910, 0xF40E35855771202A, 0x106AA07032BBD1B8]
    ++ [0x19A4C116B8D2D0C8, 0x1E376C085141AB53, 0x2748774CDF8EEB99, 0x34B0BCB5E19B48A8]
    ++ [0x391C0CB3C5C95A63, 0x4ED8AA4AE3418ACB, 0x5B9CCA4F7763E373, 0x682E6FF3D6B2B8A3]
    ++ [0x748F82EE5DEFB2FC, 0x78A5636F43172F60, 0x84C87814A1F0AB72, 0x8CC702081A6439EC]
    ++ [0x90BEFFFA23631E28, 0xA4506CEBDE82BDE9, 0xBEF9A3F7B2C67915, 0xC67178F2E372532B]
    ++ [0xCA273ECEEA26619C, 0xD186B8C721C0C207, 0xEADA7DD6CDE0EB1E, 0xF57D4F7FEE6ED178]
    ++ [0x06F067AA72176FBA, 0x0A637DC5A2C898A6, 0x113F9804BEF90DAE, 0x1B710B35131C471B]
    ++ [0x28DB77F523047D84, 0x32CAAB7B40C72493, 0x3C9EBE0A15C9BEBC, 0x431D67C49C100D4C]
    ++ [0x4CC5D4BECB3E42B6, 0x597F299CFC657E2A, 0x5FCB6FAB3AD6FAEC, 0x6C44198C4A475817]

/-- The initial hash value of SHA-384. -/
def initial : List DWord :=
  [0xCBBB9D5DC1059ED8, 0x629A292A367CD507, 0x9159015A3070DD17, 0x152FECD8F70E5939]
    ++ [0x67332667FFC00B31, 0x8EB44A8768581511, 0xDB0C2E0D64F98FA7, 0x47B5481DBEFA4FA4]

/-- Rotation to the right. -/
def ror (x : DWord) (n : Nat) : DWord := (x >>> n) ||| (x <<< (64 - n))

def bigSigma0 (x : DWord) : DWord := ror x 28 ^^^ ror x 34 ^^^ ror x 39
def bigSigma1 (x : DWord) : DWord := ror x 14 ^^^ ror x 18 ^^^ ror x 41
def smallSigma0 (x : DWord) : DWord := ror x 1 ^^^ ror x 8 ^^^ (x >>> 7)
def smallSigma1 (x : DWord) : DWord := ror x 19 ^^^ ror x 61 ^^^ (x >>> 6)

/-- Extends a message schedule, newest word first, by `n` words. -/
def extend : Nat → List DWord → List DWord
  | 0, w => w
  | n + 1, w =>
    extend n ((smallSigma1 (w.getD 1 0) + w.getD 6 0 + smallSigma0 (w.getD 14 0) + w.getD 15 0) :: w)

/-- The eight working words. -/
structure Work where
  a : DWord
  b : DWord
  c : DWord
  d : DWord
  e : DWord
  f : DWord
  g : DWord
  h : DWord

/-- One round with constant `k` and schedule word `w`. -/
def round (x : Work) (k w : DWord) : Work :=
  let t1 := x.h + bigSigma1 x.e + ((x.e &&& x.f) ^^^ (~~~x.e &&& x.g)) + k + w
  let t2 := bigSigma0 x.a + ((x.a &&& x.b) ^^^ (x.a &&& x.c) ^^^ (x.b &&& x.c))
  ⟨t1 + t2, x.a, x.b, x.c, x.d + t1, x.e, x.f, x.g⟩

/-- The hash value after a block of 16 words. -/
def compress (h : List DWord) (block : List DWord) : List DWord :=
  let w := (extend 64 block.reverse).reverse
  let x0 : Work :=
    ⟨h.getD 0 0, h.getD 1 0, h.getD 2 0, h.getD 3 0, h.getD 4 0, h.getD 5 0, h.getD 6 0, h.getD 7 0⟩
  let x := (rounds.zip w).foldl (fun x kw => round x kw.1 kw.2) x0
  [h.getD 0 0 + x.a, h.getD 1 0 + x.b, h.getD 2 0 + x.c, h.getD 3 0 + x.d, h.getD 4 0 + x.e, h.getD 5 0 + x.f,
    h.getD 6 0 + x.g, h.getD 7 0 + x.h]

/-- The bytes of a number, most significant first. -/
def bigBytes (n x : Nat) : List Byte := (bytesOf n x).reverse

/-- A message with its padding to a multiple of 128 bytes. -/
def padded (m : List Byte) : List Byte :=
  let zeros := (128 - (m.length + 17) % 128) % 128
  m ++ [0x80] ++ List.replicate zeros 0 ++ bigBytes 16 (8 * m.length)

/-- The 16 words of a block of 128 bytes. -/
def blockWords (b : List Byte) : List DWord :=
  (List.range 16).map (fun i => BitVec.ofNat 64 (ofBytes ((b.drop (8 * i)).take 8).reverse))

/-- The hash value after `n` blocks. -/
def blocks : Nat → List Byte → List DWord → List DWord
  | 0, _, h => h
  | n + 1, m, h => blocks n (m.drop 128) (compress h (blockWords (m.take 128)))

/-- The 48-byte SHA-384 digest of a message. -/
def sha384 (m : List Byte) : List Byte :=
  let p := padded m
  ((blocks (p.length / 128) p initial).take 6).flatMap (fun x => bigBytes 8 x.toNat)

end Sys2Proof.Machine.Sha
end

