-- ==== Sys2Proof/Machine/ObjectCode.lean ====
section
/-! DEFINITION. ZCO objects as data (22 R441, R442; 02 R48): header fields, function records, where the code of a function
lies, what a kernel contains, and the formats that an object widens. -/

namespace Sys2Proof.Machine

/-! ## The header (R441) -/

def headerBytes : Nat := 3072
def zcoMagic : Nat := 0x314F435A

namespace Obj

def magic (o : Obj) : Nat := recBits o.header 31 0
def version (o : Obj) : Nat := recBits o.header 47 32
def nseg (o : Obj) : Nat := recBits o.header 63 48
def svn (o : Obj) : Nat := recBits o.header 95 64
def nbv (o : Obj) : Nat := recBits o.header 103 96
def nfmt (o : Obj) : Nat := recBits o.header 111 104
def nfunc (o : Obj) : Nat := recBits o.header 127 112
/-- DIG0, the signed bytes, and the two signatures. -/
def dig0 (o : Obj) : List Byte := (o.header.drop 16).take 48
def signed (o : Obj) : List Byte := o.header.take 256
def sigE (o : Obj) : List Byte := (o.header.drop 256).take 96
def sigL (o : Obj) : List Byte := (o.header.drop 352).take 2668

/-- The code-cache key of the object (R443). -/
def key (o : Obj) : List Byte := Sha.sha384 o.signed

/-! ## Format entries (R48) -/

/-- A format entry. -/
structure FmtEntry where
  code  : Nat
  widen : Bool
  w     : Nat
  e     : Nat
  bias  : Nat
  conv  : Nat
  rsv   : Nat
  deriving DecidableEq, Repr

/-- Format entry `i`. -/
def fmtEntry (o : Obj) (i : Nat) : FmtEntry :=
  let x := recBits o.header (512 + 64 * i + 63) (512 + 64 * i)
  ⟨bitsOf x 7 0, bitsOf x 8 8 = 1, bitsOf x 14 9, bitsOf x 18 15, bitsOf x 26 19, bitsOf x 28 27, bitsOf x 63 29⟩

/-- The fields of a header that R441 fixes; a nonzero reserved field or a code below 18 counts as a malformed header (log
entry 76). -/
def headerOk (o : Obj) : Bool :=
  o.magic = zcoMagic && o.version = 1 && 1 ≤ o.nseg && o.nfmt ≤ 16 && 1 ≤ o.nfunc
    && recBits o.header 2047 1536 = 0 && recBits o.header 24575 24160 = 0
    && (List.range o.nfmt).all (fun i => 18 ≤ (o.fmtEntry i).code && (o.fmtEntry i).rsv = 0)

/-- The largest finite magnitude code of a named format. -/
def maxCode (f : FmtEntry) : Nat :=
  let m := f.w - 1 - f.e
  match f.conv with
  | 0 => 2 ^ (f.e + m) - 1
  | 1 => (2 ^ f.e - 1) * 2 ^ m - 1
  | _ => 2 ^ (f.e + m) - 2

/-- maxf of a named format. -/
def fmtEntryMaxf (f : FmtEntry) : Dy :=
  let m := f.w - 1 - f.e
  let c := maxCode f
  let ef := c / 2 ^ m
  if ef = 0 then ⟨(c : Nat), 1 - (f.bias : Int) - m⟩
  else ⟨((2 ^ m + c % 2 ^ m : Nat) : Int), (ef : Int) - f.bias - m⟩

/-- The formats in the order in which the decoder tries them. -/
def widenOrder : List Fmt := [.e2m1, .e2m3, .e3m2, .e4m3, .e5m2, .bf16, .fp16, .fp32]

/-- Whether a format of the device has a NaN (02 R39). -/
def hasNan (T : Fmt) : Bool := T.hasInf || T = .e4m3

/-- Whether a format can stand for a named one. -/
def covers (f : FmtEntry) (T : Fmt) : Bool :=
  f.w - 1 - f.e ≤ T.man && (1 - (T.bias : Int)) ≤ 1 - (f.bias : Int)
    && (fmtEntryMaxf f).le (decodeF T T.maxMag).dy
    && (f.conv ≠ 1 || T.hasInf) && (f.conv = 0 || hasNan T)

/-- The format that replaces a named one; none where the kernel is refused, as it also is for the convention 3, which R48 does
not define (log entry 77). -/
def widened (f : FmtEntry) : Option Fmt :=
  if !f.widen || f.w < 2 || 32 < f.w || f.e < 1 || 8 < f.e || f.w - 1 < f.e || 2 < f.conv then none
  else widenOrder.find? (covers f)

/-- The format entries of an object. -/
def fmtEntries (o : Obj) : List FmtEntry := (List.range o.nfmt).map o.fmtEntry

/-- A code of a named format in the format that replaces it (R48, R57): a finite value is exact, an infinity keeps its sign, and
a NaN is nanc(6) with the sign of its code. -/
def widenCode (f : FmtEntry) (T : Fmt) (c : Nat) : Nat :=
  let m := f.w - 1 - f.e
  let neg : Bool := bitsOf c (f.w - 1) (f.w - 1) = 1
  let ef := c / 2 ^ m % 2 ^ f.e
  let man := c % 2 ^ m
  let top : Bool := ef = 2 ^ f.e - 1
  if f.conv = 1 && top then Sys2Proof.Machine.signed T neg (if man = 0 then T.infMag else nanc 6 T)
  else if f.conv = 2 && top && man = 2 ^ m - 1 then Sys2Proof.Machine.signed T neg (nanc 6 T)
  else if ef = 0 then (rndF T Rnd.rne neg man (1 - (f.bias : Int) - m)).1
  else (rndF T Rnd.rne neg (2 ^ m + man) ((ef : Int) - f.bias - m)).1

/-- The type code of a format (R358). -/
def typeCode (T : Fmt) : Nat :=
  match T with
  | .fp16 => 9 | .bf16 => 10 | .fp32 => 11 | .e4m3 => 12 | .e5m2 => 13 | .e2m3 => 14 | .e3m2 => 15 | .e2m1 => 16 | .mxi8 => 17

/-- The entry of a type code that names a widened format, with the format that replaces it. -/
def widening (o : Obj) (t : Nat) : Option (FmtEntry × Fmt) :=
  o.fmtEntries.findSome? (fun f => if f.code = t then (widened f).map (fun T => (f, T)) else none)

/-- Bits [lo + 4 : lo] of a word as a type code, replaced where it names a widened format. -/
def widenField (o : Obj) (lo : Nat) (w : DWord) : DWord :=
  match o.widening (w.extractLsb' lo 5).toNat with
  | some (_, T) => (w &&& ~~~BitVec.ofNat 64 (31 * 2 ^ lo)) ||| BitVec.ofNat 64 (typeCode T * 2 ^ lo)
  | none => w

/-- Bits of the register slot that an element of a format takes (02 R44, R45). -/
def slotOf (w : Nat) : Nat := if w ≤ 4 then 4 else if w ≤ 8 then 8 else if w ≤ 16 then 16 else 32

/-- A 32-bit immediate of elements of a named format, element by element in the format that replaces it (log entry 78). -/
def widenImm (f : FmtEntry) (T : Fmt) (x : Nat) : Nat :=
  joinElems (slotOf T.bits) ((List.range (32 / slotOf T.bits)).map (fun i =>
    widenCode f T (x / 2 ^ (slotOf f.w * i) % 2 ^ slotOf f.w)))

/-- Where an op word names types itself: its function field, and the source type of FCVT (03 R78, R79, R148). The source type of
I2I has four bits and names no format (R129). -/
def typesIn (code : Nat) : List Nat :=
  (if (0x020 ≤ code && code < 0x100 && !threeSource code) || (0x120 ≤ code && code < 0x160) || code = 0x168 then [5] else [])
    ++ (if code = 0x08B then [13] else [])

/-- Where the extension word of an op names types: the function field of a three-source form, or a control word of the matrix
class (R78, R284, R293). -/
def typesAfter (code : Nat) (o : Op) : List Nat :=
  if fnInExt code o then [5]
  else if 0x163 ≤ code && code ≤ 0x166 then [0, 5]
  else if code = 0x169 then [0]
  else []

/-! ## Functions (R441, R442) -/

/-- A function record: its name, its sections and lists by offset and length, the segment of its entry header, and the reserved
field. -/
structure Func where
  nameh : Nat
  soff  : Nat
  slen  : Nat
  loff  : Nat
  llen  : Nat
  toff  : Nat
  tlen  : Nat
  xoff  : Nat
  xlen  : Nat
  roff  : Nat
  rlen  : Nat
  fseg  : Nat
  rsv   : Nat
  deriving DecidableEq, Repr

/-- The record of function `i`. -/
def func (o : Obj) (i : Nat) : Func :=
  let f (hi lo : Nat) : Nat := recBits ((o.image.drop (64 * i)).take 64) hi lo
  ⟨f 63 0, f 95 64, f 127 96, f 159 128, f 191 160, f 223 192, f 255 224, f 287 256, f 319 288, f 351 320, f 383 352, f 399 384,
    f 511 400⟩

/-- The lengths of a record that R441 fixes; another length, or a nonzero reserved field, counts as a malformed record (log
entry 76). -/
def Func.ok (f : Func) : Bool := f.slen % 8 = 0 && f.xlen % 16 = 0 && f.rlen % 8 = 0 && f.rsv = 0

/-- A section of the image (R442): the device keeps the loop and tile sections and does not interpret them. -/
def sectionAt (o : Obj) (off len : Nat) : List Byte := (o.image.drop off).take len

/-- An entry of a function's cross-reference list (R442): a loop or tile operation and its scalar words. -/
structure CrossRef where
  level : Nat
  op    : Nat
  first : Nat
  words : Nat
  deriving DecidableEq, Repr

/-- The cross-reference list of a function, which debuggers use. -/
def crossRefs (o : Obj) (f : Func) : List CrossRef :=
  (List.range (f.xlen / 16)).map (fun i =>
    let x := ofBytes (o.sectionAt (f.xoff + 16 * i) 16)
    ⟨bitsOf x 7 0, bitsOf x 39 8, bitsOf x 71 40, bitsOf x 103 72⟩)

/-- The functions of an object whose records have been verified. -/
def funcs (o : Obj) : List Func := if o.image.length < 64 * o.nfunc then [] else (List.range o.nfunc).map o.func

/-- Where the code of function `i` lies in the object's code: the scalar sections in the order of the records. -/
def codeOff (o : Obj) (i : Nat) : Nat := (o.funcs.take i).foldl (fun n f => n + f.slen) 0

/-- The bytes of the object's code. -/
def codeLen (o : Obj) : Nat := o.funcs.foldl (fun n f => n + f.slen) 0

/-- The scalar words of a function, before relocation. -/
def scalar (o : Obj) (f : Func) : List DWord :=
  (List.range (f.slen / 8)).map (fun i => BitVec.ofNat 64 (ofBytes ((o.image.drop (f.soff + 8 * i)).take 8)))

/-- A relocation entry. -/
structure Reloc where
  word   : Nat
  kind   : Nat
  target : Nat
  deriving DecidableEq, Repr

/-- The relocation list of a function. -/
def relocs (o : Obj) (f : Func) : List Reloc :=
  (List.range (f.rlen / 8)).map (fun i =>
    let x := ofBytes ((o.image.drop (f.roff + 8 * i)).take 8)
    ⟨bitsOf x 31 0, bitsOf x 33 32, bitsOf x 63 34⟩)

/-- A word with the extension value of a relocation. -/
def relocate (o : Obj) (ws : List DWord) (r : Reloc) : List DWord :=
  let a := o.codeva + 8 * r.target
  let v : Word := BitVec.ofNat 32 (if r.kind = 0 then a else a / 2 ^ 32)
  ws.set r.word ((ws.getD r.word 0).extractLsb' 32 32 ++ v)

/-- Whether the immediate of an op holds elements of the op's own type `t`: no count, lane, option or delta (R121, R151, R156). -/
def elemImm (code t : Nat) (q : Op) : Bool :=
  let fm := opForm code t q
  match (if q.a.isImm then fm.a else if q.b.isImm then fm.b else fm.c) with
  | .value _ => true
  | _ => false

/-- A word of a function, after the word `prev`, as the decoder widens it (R48): type codes of named formats are replaced, and
with them the elements of such a type in a 32-bit immediate. -/
def widenWord (o : Obj) (prev : Option DWord) (w : DWord) : DWord :=
  if kindOf w = 0 then (typesIn (opcodeOf w).toNat).foldl (fun x lo => o.widenField lo x) w
  else match (if kindOf w = 2 then prev.filter (fun p => kindOf p = 0) else none) with
    | none => w
    | some p =>
      let code := (opcodeOf p).toNat
      let q := opOf p none
      let w1 := (typesAfter code q).foldl (fun x lo => o.widenField lo x) w
      match o.widening (fnType q.c) with
      | some (f, T) =>
        if (typesIn code).contains 5 && code < 0x100 && hasImm code q && elemImm code (typeCode T) q then
          (w1.extractLsb' 32 32) ++ BitVec.ofNat 32 (widenImm f T (w1.extractLsb' 0 32).toNat)
        else w1
      | none => w1

/-- The words of a function with every named format replaced. -/
def widenAll (o : Obj) (ws : List DWord) : List DWord :=
  List.zipWith o.widenWord (none :: ws.map some) ws

/-- The code of a function at its place. -/
def code (o : Obj) (f : Func) : List DWord := (o.relocs f).foldl o.relocate (o.widenAll (o.scalar f))

/-- The function that holds an address. -/
def funcAt (o : Obj) (va : Nat) : Option Func :=
  ((List.range o.funcs.length).find? (fun i =>
    let at_ := o.codeva + o.codeOff i
    at_ ≤ va && va < at_ + (o.func i).slen)).map o.func

/-- The image bytes that are verified. -/
def verified (o : Obj) : Nat := o.image.length

/-- Whether a segment has been verified. -/
def segVerified (o : Obj) (k : Nat) : Bool := k < o.segEnds.length

/-! ## What a kernel contains (01 R22, R23; 08 R183) -/

/-- Whether some op of a class stands in a list of words: words that no op word's extension takes. -/
def hasClass (cls : Nat) (ws : List DWord) : Bool := ws.any (fun w => kindOf w = 0 && (opcodeOf w).toNat / 32 = cls)

end Obj

namespace State

/-- The object and function that hold a kernel's entry header. -/
def kernelAt (s : State) (ctx va : Nat) : Option (Obj × Obj.Func) :=
  s.objects.findSome? (fun o => if o.ctx = ctx then (o.funcAt va).map (fun f => (o, f)) else none)

/-- Whether a kernel holds an op of a class. -/
def kernelHas (s : State) (ctx va cls : Nat) : Bool :=
  match s.kernelAt ctx va with
  | some (o, f) => Obj.hasClass cls (o.scalar f)
  | none => false

/-- Whether a kernel holds a matrix instruction (12 R271): one of class 0xB, or MCOMMIT. -/
def kernelMatrix (s : State) (ctx va : Nat) : Bool :=
  match s.kernelAt ctx va with
  | some (o, f) => Obj.hasClass 11 (o.scalar f)
      || (o.scalar f).any (fun w => kindOf w = 0 && (opcodeOf w).toNat = 0x183)
  | none => false

/-- The NBV that the object of a kernel requires (01 R36). -/
def kernelNbv (s : State) (ctx va : Nat) : Option Nat := (s.kernelAt ctx va).map (fun k => k.1.nbv)

/-- Whether the segment that holds a kernel's entry header is still to be verified (22 R444). -/
def kernelPending (s : State) (ctx va : Nat) : Bool :=
  match s.kernelAt ctx va with
  | some (o, f) => !o.segVerified f.fseg
  | none => false

end State

end Sys2Proof.Machine
end

