-- ==== Sys2Proof/Machine/Record.lean ====
section
/-! DEFINITION. Launch records (15 R346 to R354): their fields, the tables read at admission, the checks of 14 R332 in its
order, and what a block takes of a core (01 R19, R31; 10 R221; 12 R269). -/

namespace Sys2Proof.Machine

/-! ## Fields (R347) -/

/-- A launch record in a queue as its fields. -/
structure LRec where
  bytes : List Byte

namespace LRec

def f (r : LRec) (hi lo : Nat) : Nat := recBits r.bytes hi lo

def entry (r : LRec) : Nat := r.f 56 0
def w0 (r : LRec) : Nat := r.f 66 64
def w1 (r : LRec) : Nat := r.f 69 67
def w2 (r : LRec) : Nat := r.f 72 70
def w3 (r : LRec) : Nat := r.f 78 73
def w4 (r : LRec) : Nat := r.f 84 79
def w5 (r : LRec) : Nat := r.f 90 85
def cls (r : LRec) : Nat := r.f 92 91
def det (r : LRec) : Bool := r.f 93 93 = 1
def grant (r : LRec) : Bool := r.f 94 94 = 1
def hww (r : LRec) : Nat := r.f 96 95
def e3 (r : LRec) : Nat := r.f 159 128 + 1
def e4 (r : LRec) : Nat := r.f 191 160 + 1
def e5 (r : LRec) : Nat := r.f 223 192 + 1
def e1 (r : LRec) : Nat := r.f 229 224 + 1
def e2 (r : LRec) : Nat := r.f 233 230 + 1
def lanes (r : LRec) : Nat := r.f 246 234
def regs (r : LRec) : Nat := 8 * (r.f 260 256 + 1)
def arena (r : LRec) : Nat := 8 * r.f 279 261
def tiles (r : LRec) : Nat := r.f 284 280
def pat (r : LRec) : Nat := 64 * r.f 296 285
def nbv (r : LRec) : Nat := r.f 304 297
def seed (r : LRec) : DWord := BitVec.ofNat 64 (r.f 383 320)
def tvec (r : LRec) : Nat := r.f 440 384
def regt (r : LRec) : Nat := r.f 504 448
def cbt (r : LRec) : Nat := r.f 568 512
def ncb (r : LRec) : Nat := r.f 571 569
def cv (r : LRec) (i : Nat) : Bool := r.f (576 + 6 * i) (576 + 6 * i) = 1
def cq (r : LRec) (i : Nat) : Nat := r.f (581 + 6 * i) (577 + 6 * i)
def first (r : LRec) (i : Nat) : Nat := r.f (671 + 64 * i) (640 + 64 * i)
def limit (r : LRec) (i : Nat) : Nat := r.f (703 + 64 * i) (672 + 64 * i)
/-- Range word `i`: read ranges 0 to 3, write ranges 4 to 7 (R349). -/
def range (r : LRec) (i : Nat) : Nat := r.f (831 + 64 * i) (768 + 64 * i)
def params (r : LRec) : List Word := (List.range 16).map (fun j => BitVec.ofNat 32 (r.f (1311 + 32 * j) (1280 + 32 * j)))
def crec (r : LRec) : Nat := r.f 1848 1792

/-- e0 and the hardware width. -/
def e0 (r : LRec) : Nat := 2 ^ r.w0
def hw (r : LRec) : Nat := 16 * 2 ^ r.hww
/-- Clusters of the grid, blocks of the grid. -/
def clusters (r : LRec) : Nat := r.e3 * r.e4 * r.e5
def blocks (r : LRec) : Nat := r.e2 * r.clusters
/-- Declared troupes in a hardware troupe, hardware troupes of a declared one, hardware troupes of a block (R14, R357). -/
def segs (r : LRec) : Nat := if r.e0 < r.hw then r.hw / r.e0 else 1
def halves (r : LRec) : Nat := if r.e0 = 128 then 2 else 1
def hwTroupes (r : LRec) : Nat := (r.e1 + r.segs - 1) / r.segs * r.halves
/-- The hardware troupes of a block on a quadrant (R14). -/
def onQuadrant (r : LRec) (q : Nat) : Nat :=
  (List.range ((r.e1 + r.segs - 1) / r.segs)).foldl (fun n h => if h % 4 = q then n + r.halves else n) 0
/-- Registers that a hardware troupe takes (R19). -/
def troupeRegs (r : LRec) : Nat := r.regs * r.hw
/-- Arena bytes of a block with the exchange area (R357), and rounded up to the granule for the fit (10 R221). -/
def areaBytes (r : LRec) : Nat := r.arena + (if r.e0 = 128 then 2048 * r.e1 else 0)
def area (r : LRec) : Nat := roundUp r.areaBytes 512

/-! ## RECORD_INVALID (R332 status 1) -/

/-- The reserved fields are zero (R346, R347). -/
def reservedOk (r : LRec) : Bool :=
  r.f 63 57 = 0 && r.f 127 97 = 0 && r.f 255 247 = 0 && r.f 319 305 = 0 && r.f 447 441 = 0 && r.f 511 505 = 0
    && r.f 575 572 = 0 && r.f 639 588 = 0 && r.f 2047 1849 = 0

/-- Field values that R347 does not reserve, and the multiples of address fields. -/
def valuesOk (r : LRec) : Bool :=
  4 ≤ r.w0 && r.w1 ≤ 6 && r.w2 ≤ 4 && r.w3 ≤ 32 && r.w4 ≤ 32 && r.w5 ≤ 32 && r.hww ≠ 3 && r.ncb ≤ 4
    && r.entry % 8 = 0 && r.tvec % 16 = 0 && r.regt % 128 = 0 && r.cbt % 64 = 0 && r.crec % 64 = 0

/-- Claim bindings (R332, R348). -/
def claimsOk (r : LRec) : Bool :=
  [0, 1].all (fun i => (r.cv i || (r.cq i = 0 && r.first i = 0 && r.limit i = 0)) && r.first i ≤ r.limit i)
    && !(r.cv 0 && r.cv 1 && r.cq 0 = r.cq 1)

/-- The claim queues that a record binds. -/
def claimQueues (r : LRec) : List Nat := ([0, 1].filter r.cv).map r.cq

/-- A declared range: first byte, end, and whether it is written. -/
structure Span where
  lo    : Nat
  hi    : Nat
  write : Bool
  deriving DecidableEq, Repr

/-- Range word `i` as a span. -/
def span (r : LRec) (i : Nat) : Span :=
  let x := r.range i
  let page := x % 2 ^ 45
  let len := x / 2 ^ 45
  ⟨page * 4096, (page + len) * 4096, 4 ≤ i⟩

def rangesOk (r : LRec) : Bool :=
  (List.range 8).all (fun i =>
    if r.range i / 2 ^ 45 = 0 then r.range i = 0 else (r.span i).hi ≤ 2 ^ 57)

/-- The ranges in use. -/
def spans (r : LRec) : List Span := ((List.range 8).filter (fun i => r.range i / 2 ^ 45 ≠ 0)).map r.span

/-! ## LAUNCH_SHAPE (R332 status 2) -/

/-- R12 and the widths of R348. -/
def shapeOk (r : LRec) : Bool :=
  r.w0 + r.w1 + r.w2 + r.w3 + r.w4 + r.w5 ≤ 64 && r.e1 ≤ 2 ^ r.w1 && r.e2 ≤ 2 ^ r.w2 && r.e3 ≤ 2 ^ r.w3
    && r.e4 ≤ 2 ^ r.w4 && r.e5 ≤ 2 ^ r.w5 && r.clusters ≤ 2 ^ 40 && (r.e0 ≠ 128 || r.e1 ≤ 32)
    && r.lanes ≤ r.e0 * r.e1 && (r.hw = r.e0 || (r.hw = 64 && (r.e0 = 16 || r.e0 = 32 || r.e0 = 128)))

end LRec

/-- What a core has (R37). -/
def quadrantTroupes : Nat := 16
def quadrantRegs : Nat := 131072
def coreArena : Nat := 2 * 2 ^ 20
def coreTiles : Nat := 16
def corePat : Nat := 128 * 2 ^ 10
def coresPerDie : Nat := 24
def dieTotal : Nat := 4

/-- A block's needs fit one core that is empty (R31). -/
def LRec.resourcesOk (r : LRec) : Bool :=
  (List.range 4).all (fun q => r.onQuadrant q ≤ quadrantTroupes && r.onQuadrant q * r.troupeRegs ≤ quadrantRegs)
    && r.area ≤ coreArena && r.tiles ≤ coreTiles && r.pat ≤ corePat && r.e2 ≤ coresPerDie

/-! ## REGION_INVALID (R332 status 3; 10 R225) -/

/-- The bytes of the allocation that a region occupies. -/
def rgnEnd (d : DWord) : Nat := rgnBase d + (if rgnPlanar d then 2 else 1) * rgnSize d

/-- One descriptor keeps R225 in an allocation of `n` bytes. -/
def descriptorOk (n : Nat) (d : DWord) : Bool :=
  if !rgnV d then d = 0
  else rgnType d ≤ 4 && rgnRule d ≠ 3 && rgnInit d ≠ 3 && !rgnPs d && d.extractLsb' 10 6 = 0 && d.extractLsb' 56 8 = 0
    && rgnSize d ≠ 0 && rgnEnd d ≤ n && (rgnPlanar d || (rgnRule d = 0 && rgnInit d = 0))
    && !(rgnType d = 0 && rgnRule d = 1)

/-- Two valid regions overlap, and one of them is planar. -/
def planarClash (a b : DWord) : Bool :=
  rgnV a && rgnV b && (rgnPlanar a || rgnPlanar b) && rgnBase a < rgnEnd b && rgnBase b < rgnEnd a

/-- A region table keeps R225. -/
def regionsOk (n : Nat) (t : List DWord) : Bool :=
  t.all (descriptorOk n)
    && (List.range t.length).all (fun i => (List.range i).all (fun j => !planarClash (t.getD i 0) (t.getD j 0)))

/-! ## Collective bindings (R353, R354; 17 R377) -/

/-- Fields of a binding entry. -/
structure BEnt where
  bytes : List Byte

namespace BEnt

def f (b : BEnt) (hi lo : Nat) : Nat := recBits b.bytes hi lo

def cid (b : BEnt) : Nat := b.f 15 0
def op (b : BEnt) : Nat := b.f 17 16
def wire (b : BEnt) : Nat := b.f 20 18
def fit (b : BEnt) : Bool := b.f 21 21 = 1
def rnd (b : BEnt) : BitVec 3 := BitVec.ofNat 3 (b.f 24 22)
def ms (b : BEnt) : Nat := b.f 30 25
def npeer (b : BEnt) : Nat := b.f 41 32 + 1
def peers (b : BEnt) : Nat := b.f 120 64
def out (b : BEnt) : Nat := b.f 184 128
def nchunk (b : BEnt) : Nat := b.f 204 192
def seedc (b : BEnt) : DWord := BitVec.ofNat 64 (b.f 319 256)

/-- The bytes after the output range. -/
def outEnd (b : BEnt) : Nat := b.out + 4096 * b.nchunk

/-- Reserved fields, reserved values and multiples. -/
def ok (b : BEnt) : Bool :=
  b.op ≤ 1 && b.wire ≤ 4 && b.rnd ≠ 5 && b.rnd ≠ 6 && b.ms ≤ 40 && b.f 31 31 = 0 && b.npeer ≤ 768 && b.f 63 42 = 0
    && b.f 127 121 = 0 && b.f 191 185 = 0 && b.f 255 205 = 0 && b.f 511 320 = 0 && b.peers % 64 = 0 && b.out % 4096 = 0
    && 1 ≤ b.nchunk

/-- The page format that R377 asks for. -/
def pageFmt (b : BEnt) : Nat := if b.wire = 0 then 6 else if b.wire = 1 then 1 else if b.wire = 2 then 2 else 0

/-- The rank of a member in a peer list. -/
def rankOf (peers : List Nat) (member : Nat) : Nat := (peers.findIdx? (fun p => p = member)).getD 0

/-- Receive slots: P for each chunk that the module owns (R381). -/
def ownedChunks (b : BEnt) (rank : Nat) : Nat := (List.range b.nchunk).foldl (fun n c => if c % b.npeer = rank then n + 1 else n) 0
def slots (b : BEnt) (rank : Nat) : Nat := b.nchunk + b.npeer * b.ownedChunks rank

end BEnt

/-- A binding as it is read: its entry, peers and pages. -/
structure BRead where
  ent   : BEnt
  peers : List Nat
  pages : Pages

/-- The staging slots of the module, and its reduce slots (R381). -/
def stagingSlots : Nat := 32768
def reduceSlots : Nat := 64

namespace State

/-- `n` bytes that the ringmaster reads at a virtual address, a multiple of 64 bytes or less within one piece of 64 (R350). -/
def ringRead (s : State) (ctx va n : Nat) : Option (List Byte) :=
  match s.checkLoad coreTotal ctx .plain 1 n va (pageChoice va) with
  | .ok (_, k) => some (s.rdBytes k n)
  | .error _ => none

/-- A table of `n` bytes, read in pieces of 64 bytes. -/
def ringTable (s : State) (ctx va : Nat) : Nat → Option (List Byte)
  | 0 => some []
  | n + 1 =>
    match s.ringRead ctx va 64, ringTable s ctx (va + 64) n with
    | some a, some b => some (a ++ b)
    | _, _ => none

/-- The pages of an output range (R377). -/
def outputPages (s : State) (ctx : Nat) (b : BEnt) : Option Pages :=
  match s.pagesFor coreTotal ctx .store .any [(b.out, 4096 * b.nchunk)] with
  | .error _ => none
  | .ok ps =>
    if ps.all (fun p => p.2.fmt = b.pageFmt && (p.2.home = 0 || (p.2.home = 1 && p.2.member = s.member))) then some ps else none

/-- A peer list (R354). -/
def peerList (s : State) (ctx : Nat) (b : BEnt) : Option (List Nat) :=
  match s.ringTable ctx b.peers ((2 * b.npeer + 63) / 64) with
  | none => none
  | some bytes =>
    let ps := (List.range b.npeer).map (fun i => ofBytes ((bytes.drop (2 * i)).take 2))
    if (uniq ps).length = ps.length && ps.all (fun p => p < 768 && s.domain.contains p) && ps.contains s.member then some ps
    else none

/-- Binding `i` of a record. -/
def readBinding (s : State) (ctx : Nat) (r : LRec) (i : Nat) : Option BRead :=
  match s.ringRead ctx (r.cbt + 64 * i) 64 with
  | none => none
  | some bytes =>
    let b : BEnt := ⟨bytes⟩
    if !b.ok then none
    else match s.peerList ctx b, s.outputPages ctx b with
      | some ps, some pg => some ⟨b, ps, pg⟩
      | _, _ => none

/-- The bindings of a record; none where one breaks R353, R354 or R377. -/
def readBindings (s : State) (ctx : Nat) (r : LRec) : Option (List BRead) :=
  let bs := (List.range r.ncb).map (s.readBinding ctx r)
  if bs.any (·.isNone) then none
  else
    let bs := bs.filterMap id
    let meets (a b : BRead) : Bool :=
      a.ent.cid = b.ent.cid || (a.ent.out < b.ent.outEnd && b.ent.out < a.ent.outEnd)
    if (List.range bs.length).any (fun i => (List.range i).any (fun j =>
        match bs[i]?, bs[j]? with
        | some a, some b => meets a b
        | _, _ => false)) then none
    else some bs

/-- The region table of a record (R351). -/
def readRegions (s : State) (ctx : Nat) (r : LRec) : Option (List DWord) :=
  if r.regt = 0 then some (List.replicate 16 0)
  else (s.ringTable ctx r.regt 2).map (fun bytes =>
    (List.range 16).map (fun i => BitVec.ofNat 64 (ofBytes ((bytes.drop (8 * i)).take 8))))

/-- The trap vector entry of a record (R352). -/
def readTvec (s : State) (ctx : Nat) (r : LRec) : Option (List Byte) :=
  if r.tvec = 0 then some (List.replicate 16 0)
  else match s.ringRead ctx r.tvec 16 with
    | none => none
    | some b => if recBits b 127 58 = 0 && recBits b 56 0 % 8 = 0 then some b else none

/-! ## The checks of R332 -/

/-- What admission reads for a record. -/
structure Tables where
  rgn      : List DWord
  tvecEnt  : List Byte
  bindings : List BRead

/-- The tables of a record that is not RECORD_INVALID. -/
def readTables (s : State) (ctx : Nat) (r : LRec) : Option Tables :=
  if !(r.reservedOk && r.valuesOk && r.claimsOk && r.rangesOk) then none
  else match s.readRegions ctx r, s.readTvec ctx r, s.readBindings ctx r with
    | some a, some b, some c => some ⟨a, b, c⟩
    | _, _, _ => none

/-- The staging slots that the bindings of a record need together (R390). -/
def slotNeed (s : State) (bs : List BRead) : Nat := bs.foldl (fun n b => n + b.ent.slots (BEnt.rankOf b.peers s.member)) 0

/-- WIDTH_UNSUPPORTED (01 R22, R23; 08 R183). -/
def widthBad (s : State) (ctx : Nat) (r : LRec) : Bool :=
  (s.kernelMatrix ctx r.entry && (r.hw ≠ r.e0 || r.e0 = 128)) || (r.e0 = 128 && s.kernelHas ctx r.entry 8)

/-- NBV_UNSUPPORTED (01 R36): the NBV of the record, and the one that the kernel's object requires. -/
def nbvBad (s : State) (ctx : Nat) (r : LRec) : Bool :=
  r.nbv ≠ 1 || ((s.kernelNbv ctx r.entry).map (fun n => decide (n ≠ 1))).getD false

/-- FORMAT_UNSUPPORTED (02 R48; log entry 79). -/
def formatBad (s : State) (ctx : Nat) (r : LRec) : Bool :=
  match s.kernelAt ctx r.entry with
  | some (o, _) => o.fmtEntries.any (fun e => (Obj.widened e).isNone)
  | none => false

/-- Whether the kernel of a record has had a format widened (02 R48): R441 ties no format entry to a function, so the entries of
an object affect each of its kernels (log entry 79). -/
def kernelWidens (s : State) (ctx : Nat) (r : LRec) : Bool :=
  match s.kernelAt ctx r.entry with
  | some (o, _) => o.nfmt ≠ 0
  | none => false

/-- The checks of R332 in order: the tables, or the status that refuses the record. -/
def checkRecord (s : State) (ctx : Nat) (r : LRec) : Except Nat Tables :=
  match s.readTables ctx r with
  | none => .error 1
  | some t =>
    if !r.shapeOk || !r.resourcesOk || stagingSlots < s.slotNeed t.bindings then .error 2
    else if !regionsOk r.arena t.rgn then .error 3
    else if s.widthBad ctx r then .error 4
    else if s.nbvBad ctx r then .error 5
    else if s.formatBad ctx r then .error 6
    else .ok t

end State

end Sys2Proof.Machine
end

