-- ==== Sys2Proof/Machine/Launches.lean ====
section
/-! DEFINITION. Launches in the ringmaster (14 R329 to R335, R340; 15 R355, R356; 17 R381, R388; 22 R436 to R438): admission,
claim queues, completion records, the end of a launch, and the discard of a context's work. -/

namespace Sys2Proof.Machine

/-- The record of a launch as its fields. -/
def Launch.lrec (la : Launch) : LRec := ⟨la.bytes⟩

/-- The entry of a binding as its fields. -/
def Binding.ent (b : Binding) : BEnt := ⟨b.entry⟩

/-! ## Staging slots of bindings (17 R381, R388) -/

/-- The peers P of a binding, and the rank of member `m`. -/
def Binding.peerCount (b : Binding) : Nat := b.ent.npeer
def Binding.rankOf (b : Binding) (m : Nat) : Nat := BEnt.rankOf b.peers m

/-- Whether a binding has not ended and still takes part (R388, R389). -/
def Binding.live (b : Binding) : Bool := b.reserved && !b.fault && !b.complete

namespace State

/-- A binding's slots are released, and it counts as a completed binding of its CID (R382, R388). -/
def releaseBinding (s : State) (b : Binding) : State :=
  if !b.reserved then s
  else
    let mine (e : Nat × Nat) : Bool := e.1 = b.txbase || (e.1 = b.rxbase && b.ent.ownedChunks (b.rankOf s.member) ≠ 0)
    { s with
      stagingUse := s.stagingUse.filter (fun e => !mine e)
      epochs := if b.complete then s.epochs else sset 0 s.epochs b.ent.cid (sget 0 s.epochs b.ent.cid + 1) }

/-! ## Completion records (22 R436) -/

/-- Stores of the ringmaster at a virtual address, a multiple of 64: device stores at system scope, all or none (log entry
37). -/
def ringWrite (s : State) (ctx va : Nat) (bytes : List Byte) : State :=
  match s.pagesFor coreTotal ctx .store .plain [(va, bytes.length)] with
  | .error _ => s
  | .ok ps => s.writePages coreTotal ps va bytes

/-- Bits of TMASK as one half of a declared troupe holds them (01 R23): the half of the reported lane. -/
def reportMask (t : TrapReport) : DWord := tmaskOf t.tmask (lowestLane t.tmask)

/-- Bytes 0 to 127 of a completion record. -/
def completionHead (status ctx : Nat) (arrival sticky hseq : Word) (trap : Option TrapReport) : List Byte :=
  let tail : List Byte := match trap with
    | none => List.replicate 64 0
    | some t => bytesOf 8 (t.tcause.toNat % 256) ++ bytesOf 8 t.tpc.toNat ++ bytesOf 8 t.tval.toNat
        ++ bytesOf 8 (reportMask t).toNat ++ bytesOf 8 t.wid.toNat ++ List.replicate 24 0
  bytesOf 1 status ++ bytesOf 1 ctx ++ bytesOf 4 arrival.toNat ++ [0, 0] ++ bytesOf 4 sticky.toNat ++ bytesOf 4 hseq.toNat
    ++ List.replicate 48 0 ++ tail

/-- A binding's entry in the completion record. -/
def completionEntry (b : Binding) : List Byte :=
  bytesOf 2 b.ent.cid ++ bytesOf 6 (bit b.poison + 2 * bit b.fault) ++ bytesOf 4 b.amax.toNat ++ bytesOf 4 b.sticky.toNat
    ++ List.replicate 48 0 ++ (List.range 64).flatMap (fun i => bytesOf 4 (b.hist.getD i 0))

/-- A completion record is written at CREC, and the COMPLETION response sent. -/
def finishRecord (s : State) (status ctx : Nat) (r : LRec) (arrival sticky hseq : Word) (trap : Option TrapReport)
    (bs : List Binding) : State :=
  let head := completionHead status ctx arrival sticky hseq trap
  let s1 := if r.crec = 0 then s else s.ringWrite ctx r.crec (head ++ bs.flatMap completionEntry)
  s1.respond respCompletion ctx head

/-! ## Claim queues (R340) -/

/-- A launch whose dependences have retired takes the queues it binds: a child shares a queue that its issuing launch owns
or shares. -/
def takeQueue (la : Launch) (id : Nat) (s : State) (i : Nat) : State :=
  let n := la.lrec.cq i
  match s.claims[n]? with
  | none => s
  | some q =>
    let shared : Bool := match la.parent with
      | some p => q.owners.contains p
      | none => false
    let own : Claim := ⟨BitVec.ofNat 32 (la.lrec.first i), BitVec.ofNat 32 (la.lrec.limit i), [id]⟩
    { s with claims := s.claims.set n (if shared then { q with owners := q.owners ++ [id] } else own) }

/-- Every dependence of a launch has retired: STATE 1, and its claim queues. -/
def becomeReady (s : State) (id : Nat) : State :=
  match s.launch? id with
  | none => s
  | some la =>
    let s1 := s.modLaunch id (fun la => { la with state := 1, claims := la.lrec.claimQueues })
    ([0, 1].filter la.lrec.cv).foldl (takeQueue la id) s1

/-! ## The end of a launch (R335, R338, R340, R356) -/

/-- A launch leaves the dependence table: its claim queues and staging slots are released, and the launches that wait on
it wait no longer. -/
def freeEntry (s : State) (id : Nat) : State :=
  match s.launch? id with
  | none => s
  | some la =>
    let s1 := la.bindings.foldl releaseBinding s
    let leave (q : Claim) : Claim := { q with owners := q.owners.filter (fun o => o ≠ id) }
    let clear (x : Launch) : Launch := { x with waits := x.waits.filter (fun w => w ≠ la.entry) }
    let s2 : State := { s1 with
      claims := s1.claims.map leave
      checkpoints := s1.checkpoints.filter (fun k => k.launch ≠ id)
      launches := (s1.launches.filter (fun e => e.1 ≠ id)).map (fun e => (e.1, clear e.2)) }
    (s2.launches.filter (fun e => e.2.state = 0 && e.2.waits.isEmpty)).foldl (fun s e => s.becomeReady e.1) s2

/-- STICKY of the troupes of a cluster (02 R64). -/
def clusterSticky (cl : Cluster) : Word :=
  cl.blocks.foldl (fun m b => b.troupes.foldl (fun m t => m ||| t.sticky) m) 0

/-- STICKY of a launch: its retired clusters, those still present, and its bindings (R64, R388). -/
def launchSticky (s : State) (id : Nat) (la : Launch) : Word :=
  let m := s.clusters.foldl (fun m e => if e.2.launch = id then m ||| clusterSticky e.2 else m) la.sticky
  la.bindings.foldl (fun m b => m ||| b.sticky) m

/-- Clusters are taken away with what they hold: issue slots, copies, engine work. -/
def removeClusters (s : State) (sel : Nat → Cluster → Bool) : State :=
  let gone (c : Nat) : Bool := ((s.cluster? c).map (sel c)).getD false
  let s1 := s.dropCopies (fun q => gone q.cluster)
  { s1 with
    slots := s1.slots.filter (fun e => !gone e.2.cluster)
    clusters := s1.clusters.filter (fun e => !sel e.1 e.2) }

/-- A launch ends with a status: its stores are written through, its record is written, its entry freed. -/
def endLaunch (s : State) (id status : Nat) (trap : Option TrapReport) : State :=
  match s.launch? id with
  | none => s
  | some la =>
    let sticky := s.launchSticky id la
    let s1 := s.flushAll.removeClusters (fun _ cl => cl.launch = id)
    (s1.finishRecord status la.ctx la.lrec la.arrival sticky la.hseq trap la.bindings).freeEntry id

/-! ## Admission (R331 to R333, R356) -/

/-- a arrived before b (R329). -/
def arrivedBefore (a b : Word) : Bool := (b.toNat + (2 ^ 32 - 1) - a.toNat) % (2 ^ 32 - 1) < 2 ^ 31

/-- A queue head: its queue and record. -/
abbrev QHead := Nat × QRec

/-- `a` is admitted before `b` (R331). -/
def headBefore (a b : QHead) : Bool :=
  let ca := (LRec.mk a.2.bytes).cls
  let cb := (LRec.mk b.2.bytes).cls
  cb < ca || (ca = cb && arrivedBefore a.2.arrival b.2.arrival)

/-- The head that is admitted next. -/
def bestHead : List QHead → Option QHead
  | [] => none
  | h :: hs =>
    match bestHead hs with
    | some g => some (if headBefore h g then h else g)
    | none => some h

/-- The heads that may be admitted: those whose entry header's segment has been verified, or is in no object that loads
(22 R444; log entry 38). -/
def heads (s : State) : List QHead :=
  (List.range 16).filterMap (fun n =>
    match s.queue n with
    | q :: _ => if s.kernelPending q.ctx (LRec.mk q.bytes).entry then none else some (n, q)
    | [] => none)

/-- The ranges of a launch: the declared ones, and the output range of each binding as a write range (R349). -/
def launchSpans (r : LRec) (outs : List BEnt) : List LRec.Span := r.spans ++ outs.map (fun b => ⟨b.out, b.outEnd, true⟩)

/-- Two range lists conflict (R333). -/
def spansConflict (a b : List LRec.Span) : Bool :=
  a.any (fun x => b.any (fun y => (x.write || y.write) && x.lo < y.hi && y.lo < x.hi))

/-- Whether an admitted launch conflicts with a record (R333). -/
def conflicts (la : Launch) (r : LRec) (outs : List BEnt) : Bool :=
  spansConflict (launchSpans la.lrec (la.bindings.map (·.ent))) (launchSpans r outs)
    || la.lrec.claimQueues.any (fun q => r.claimQueues.contains q)

/-- The lowest free dependence entry (R356). -/
def freeIndex (s : State) : Option Nat := (List.range 64).find? (fun j => !s.launches.any (fun e => e.2.entry = j))

/-- Blocks of the grid that select chunk `c` (15 R353, 17 R378). -/
def selecting (blocks ms c : Nat) : Nat := min blocks ((c + 1) * 2 ^ ms) - c * 2 ^ ms

/-- A binding as admission leaves it, with FIRE, ARRIVE and RESULTS of R378. -/
def freshBinding (member blocks : Nat) (b : BRead) : Binding :=
  let rank := BEnt.rankOf b.peers member
  let chunks := List.range b.ent.nchunk
  { entry := b.ent.bytes, peers := b.peers, pages := b.pages, reserved := false, complete := false, epoch := 0
    fire := ssets 0 [] (chunks.map (fun c => (c, selecting blocks b.ent.ms c)))
    fired := [], handed := [], sendWait := [], resWait := []
    arrive := ssets 0 [] ((chunks.filter (fun c => c % b.ent.npeer = rank)).map (fun c => (c, b.ent.npeer)))
    dispatched := [], reduced := [], ready := [], results := b.ent.nchunk, written := [], txbase := 0, rxbase := 0
    pmaps := [], hist := List.replicate 64 0, amax := 0, sticky := 0, poison := false, fault := false }

/-- An accepted record enters the dependence table. -/
def enterTable (s : State) (q : QRec) (entry : Nat) (t : Tables) : State :=
  let r : LRec := ⟨q.bytes⟩
  let outs := t.bindings.map (·.ent)
  let waits := (s.launches.filter (fun e => e.2.ctx = q.ctx && some e.1 ≠ q.parent && conflicts e.2 r outs)).map (·.2.entry)
  let la : Launch :=
    { bytes := q.bytes, arrival := q.arrival, ctx := q.ctx, hseq := q.hseq, parent := q.parent, grant := q.grant
      order := s.nextId, entry := entry, waits := waits, rgn := t.rgn, tvecEnt := t.tvecEnt
      bindings := t.bindings.map (freshBinding s.member r.blocks), reservedAll := t.bindings.isEmpty, state := 0, next := 0
      done := 0, skipped := [], blocking := [], ended := false, traps := [], sticky := 0, claims := []
      widen := s.kernelWidens q.ctx r, record := none }
  let s1 := { s with launches := s.launches ++ [(s.nextId, la)], nextId := s.nextId + 1 }
  if waits.isEmpty then s1.becomeReady s.nextId else s1

/-- LAUNCH_ADMISSION: one record leaves its queue; it is refused, or it enters the dependence table. -/
def admitHead (s : State) : State :=
  match s.freeIndex, bestHead s.heads with
  | some entry, some (n, q) =>
    let s1 := { s with lq := s.lq.set n (s.queue n).tail }
    let r : LRec := ⟨q.bytes⟩
    match s1.checkRecord q.ctx r with
    | .error st => s1.finishRecord st q.ctx r q.arrival 0 q.hseq none []
    | .ok t => s1.enterTable q entry t
  | _, _ => s

/-! ## Retirement (R338) -/

/-- Every cluster's retirement actions are done. -/
def Launch.allDone (la : Launch) : Bool := la.lrec.clusters ≤ la.done

/-- LAUNCH_RETIREMENT. -/
def retireLaunch (s : State) (id : Nat) : State :=
  match s.launch? id with
  | none => s
  | some la =>
    if la.ended || la.state ≠ 3 || la.bindings.any (fun b => !b.complete) then s else s.endLaunch id 0 none

/-! ## Discard (22 R437, R438) -/

/-- Records of a context in the launch queues. -/
def queuedOf (s : State) (ctx : Nat) : List QRec := s.lq.flatten.filter (fun q => q.ctx = ctx)

/-- The launches of a context, in admission order. -/
def launchesOf (s : State) (ctx : Nat) : List Nat := (s.launches.filter (fun e => e.2.ctx = ctx)).map (·.1)

/-- Whether a cluster belongs to a context. -/
def clusterIn (s : State) (ctx : Nat) (cl : Cluster) : Bool := s.ctxOfLaunch cl.launch = some ctx

end State

/-- The header of a host command. -/
def hostCmd (i : Instr) : Option Cmd :=
  match i with
  | .hostLaunch h _ _ | .ctxCreate h _ _ | .ctxDestroy h | .bindQueue h _ | .invalidate h | .pagerResolved h _
  | .pagerDeliver h _ | .pagerAbort h _ | .preempt h _ | .debugAttach h | .debugDetach h | .recordCmd h _ _ _ | .readState h _
  | .objectLoad h _ | .attest h _ | .resend h _ | .fwUpdate h _ _ _ _ | .reservedCommand h | .outOfSequenceCommand h => some h
  | _ => none

namespace State

/-- The commands of a context that are held are not accepted any more; those behind them are then out of sequence (R431). -/
def dropHeld (s : State) (ctx : Nat) : State :=
  let mine (x : Cmd × Nat × List Byte) : Bool := x.1.ctx = ctx
  { s with
    heldLaunch := s.heldLaunch.filter (fun x => !mine x)
    waiting := if s.heldLaunch.any mine then [] else s.waiting.takeWhile (fun w => (hostCmd w.2).map Cmd.ctx ≠ some ctx) }

/-- The cores on which a context has blocks. -/
def coresIn (s : State) (ctx : Nat) : List Nat :=
  uniq ((s.clusters.filter (fun e => s.clusterIn ctx e.2)).flatMap (fun e => e.2.blocks.map (·.core)))

/-- CONTEXT_DISCARD: the steps of R437 in their order. Stores that the work has performed stay written, those that stand in L1
too, which are written through. -/
def discard (s0 : State) (ctx : Nat) : State :=
  let s := (s0.coresIn ctx).foldl flushCore s0
  let s1 := s.dropHeld ctx
  let stickies := (s1.launchesOf ctx).map (fun l => (l, ((s1.launch? l).map (s1.launchSticky l)).getD 0))
  let s2 := s1.removeClusters (fun _ cl => s1.clusterIn ctx cl)
  let queued := s2.queuedOf ctx
  let s3 : State := { s2 with lq := s2.lq.map (fun q => q.filter (fun x => x.ctx ≠ ctx)) }
  let s4 := stickies.foldl (fun s e =>
    match s.launch? e.1 with
    | some la => (s.finishRecord 7 ctx la.lrec la.arrival e.2 la.hseq none la.bindings).freeEntry e.1
    | none => s) s3
  let s5 := queued.foldl (fun s q => s.finishRecord 7 ctx ⟨q.bytes⟩ q.arrival 0 q.hseq none []) s4
  let last := ((s5.ctx? ctx).map Ctx.last).getD s5.ack
  { { s5 with ack := last }.respond respDiscard ctx [] with ack := s5.ack }

end State

/-! ## Meanings -/

/-- LAUNCH_ADMISSION. -/
def execLaunchAdmission (s : State) : Host.Outcome State Fault Refusal := .next s.admitHead

/-- LAUNCH_RETIREMENT. -/
def execLaunchRetirement (launch : Nat) (s : State) : Host.Outcome State Fault Refusal := .next (s.retireLaunch launch)

end Sys2Proof.Machine
end

