-- ==== Sys2Proof/Machine/Load.lean ====
section
/-! DEFINITION. A troupe as it starts (01 R28, R29, 04 R95, R102), a block as it is placed, and the placement of one
instruction that withFetchWord asks for (log entry 8). -/

namespace Sys2Proof.Machine

/-- A fibre register that is closed (08 R182). -/
def closedFibre : Fibre := ⟨⟨0, 0, 0, false, false, 0, 0, 0, 0⟩, ⟨0, 0, 0, false, false, 0, 0, 0, 0⟩, 0, 0⟩

/-- A troupe at its start (R28, R29, R95, R102). -/
def startTroupe (width : Nat) (wid0 : DWord) (fields : List Word) (nregs : Nat) (launched : Lanes) (params : List Word)
    (det : Bool) (seed tvec entry : DWord) : Troupe :=
  { width := width, wid0 := wid0, fields := fields, nregs := nregs, launched := launched, exited := 0
    v := [], sc := [], s := ssets 0 [] (keyed 0 params), p := [], fb := List.replicate 8 closedFibre
    watch := List.replicate 8 ⟨[], false⟩
    run := Troupe.freshRun, midRun := false, rnd := 0, det := det, seed := seed, amax := 0, sticky := 0, prog := 0
    tcause := 0, tpc := 0, tval := 0, tmask := 0, tvec := tvec
    frontier := if launched = 0 then [] else [⟨entry, 0, launched, .entry, 0, 0, 0⟩]
    held := none, rm := none, late := [], status := if launched = 0 then .retired else .ready
    retiredInsns := 0, launches := 0, waitw := 0, arenaBusy := false, trapped := 0, wrote := [], redo := false
    served := 0, kept := [], keptTag := []
    counters := ⟨0, 0, 0, 0, 0⟩ }

/-- A block at its placement (R28; 10 R221, R229; 12 R269): its memories hold zeros and no marks. -/
def startBlock (core : Nat) (troupes : List Troupe) (rgn : List DWord) (arenaSize tiles patSize : Nat) : Block :=
  { core := core, troupes := troupes, rgn := rgn, arenaSize := arenaSize, arena := [], apoison := [], marks := []
    stamps := [], landed := [], turns := [], tileCount := tiles, tiles := [], tilePoison := [], undef := 0, fixed := [], patSize := patSize, pat := []
    patPoison := [], pend := [], acts := [], actErr := [], fences := [], since := [], exited := false }

/-! ## One instruction in place -/

/-- Where the instruction lies: the virtual and physical address of its page, and the tables that map it. -/
def codeAt : Nat := 0x100000
def tableAt : Nat := 0x200000

/-- The word of a header with a length, for lanes that fall through (03 R68). -/
def plainHeader : Nat := 3 * 2 ^ 62 + 2 ^ 52 + 2 ^ 36

/-- The memory writes that map and hold an instruction of `len` words. -/
def codeCells (w len : Nat) : List Host.Cell :=
  keyed tableAt (bytesOf 8 (tableAt + 0x10000 + 1)) ++ keyed (tableAt + 0x10000) (bytesOf 8 (tableAt + 0x20000 + 1))
    ++ keyed (tableAt + 0x20000 + 8 * (codeAt / 2 ^ 18)) (bytesOf 8 (codeAt + 0xB))
    ++ keyed codeAt (bytesOf (8 * len) w) ++ keyed (codeAt + 8 * len) (bytesOf 8 plainHeader)

/-- How many words the instruction with the bits `w` has. -/
def wordCount (w : Nat) : Nat :=
  match decodeBytes (bytesOf 16 w) with
  | some (.instr _ n) => n
  | _ => 1

/-- A launch with an empty record. -/
def bareLaunch : Launch :=
  { bytes := List.replicate 256 0, arrival := 0, ctx := 0, hseq := 0, parent := none, grant := false, order := 0
    entry := 0, waits := [], rgn := List.replicate 16 0, tvecEnt := List.replicate 16 0, bindings := []
    reservedAll := true, state := 3, next := 1, done := 0, skipped := [], blocking := [], ended := false, traps := [], sticky := 0
    claims := [], widen := false, record := none }

/-- A cluster of one block with one troupe of sixteen lanes at the instruction. -/
def bareCluster (launch len : Nat) : Cluster :=
  let e : FEntry := ⟨BitVec.ofNat 64 codeAt, 0, lanesBelow 16, .body (BitVec.ofNat 64 (codeAt + 8 * len)), 0, 0, 0⟩
  let t := { startTroupe 16 0 [0, 0, 0, 0, 0, 0] 256 (lanesBelow 16) [] false 0 0 0 with frontier := [e] }
  { launch := launch, f3 := 0, f4 := 0, f5 := 0, ordinal := 0, die := 0, placed := 0, state := .resident, reason := 0, saved := 0
    blocks := [startBlock 0 [t] (List.replicate 16 0) 0 16 0x20000], tags := List.replicate 8 ⟨0, 0, [], []⟩ }

/-- The state in which the slot of core 0, quadrant 0 issues the instruction with the bits `w` next. -/
def State.withInstr (s : State) (w : Nat) : State :=
  let n := wordCount w
  let s1 := s.wrBytes (codeCells w n)
  { s1 with
    frames := sset FrameState.unverified s1.frames (codeAt / 2 ^ 18) .verified
    ctxs := [⟨0, tableAt, false, false, 0⟩]
    tlb := []
    launches := (s1.nextId, bareLaunch) :: s1.launches
    clusters := (s1.nextId, bareCluster s1.nextId n) :: s1.clusters
    slots := [(0, ⟨s1.nextId, 0, 0⟩)]
    nextId := s1.nextId + 1
    agenda := [.word 0 0] }

end Sys2Proof.Machine
end

