-- ==== Sys2Proof/Machine/Placement.lean ====
section
/-! DEFINITION. Clusters in the ringmaster (01 R14, R19, R28 to R32; 10 R221; 14 R336 to R339; 18 R398, R406 to R410): what
a block takes of a core, the order of placement, placement and resumption, pre-emption and the context save, and
the end of blocks and clusters. -/

namespace Sys2Proof.Machine

/-! ## What blocks take of a core (R14, R19, R30, R221) -/

/-- What a block takes: hardware troupes and registers by quadrant, arena bytes, tiles, pattern bytes. -/
structure Use where
  troupes : List Nat
  regs    : List Nat
  arena   : Nat
  tiles   : Nat
  pat     : Nat
  deriving DecidableEq, Repr

namespace Use

def zero : Use := ⟨[0, 0, 0, 0], [0, 0, 0, 0], 0, 0, 0⟩

def add (a b : Use) : Use :=
  ⟨List.zipWith (· + ·) a.troupes b.troupes, List.zipWith (· + ·) a.regs b.regs, a.arena + b.arena, a.tiles + b.tiles,
    a.pat + b.pat⟩

/-- A core can hold it all (R37). -/
def ok (a : Use) : Bool :=
  a.troupes.all (fun n => n ≤ quadrantTroupes) && a.regs.all (fun n => n ≤ quadrantRegs) && a.arena ≤ coreArena
    && a.tiles ≤ coreTiles && a.pat ≤ corePat

end Use

/-- The hardware troupes of a block on a quadrant that still hold a declared troupe (R30). -/
def liveOn (la : Launch) (b : Block) (q : Nat) : Nat :=
  let r := la.lrec
  let held (h : Nat) : Bool := ((b.troupes.drop (h * r.segs)).take r.segs).any (fun t => t.status ≠ .retired)
  ((List.range ((r.e1 + r.segs - 1) / r.segs)).filter (fun h => h % 4 = q && held h)).length * r.halves

/-- What a block takes: troupe slots and registers until its troupes retire, its memories until its exit point, or in
a deterministic launch until its cluster has retired (R30, R338). -/
def blockUse (la : Launch) (b : Block) : Use :=
  let r := la.lrec
  let n := [0, 1, 2, 3].map (liveOn la b)
  let mem := !b.exited || la.det
  ⟨n, n.map (· * r.troupeRegs), if mem then r.area else 0, if mem then r.tiles else 0, if mem then r.pat else 0⟩

/-- What a reduce block takes of its core (17 R383). -/
def reduceUse (q : Nat) : Use := ⟨[0, 1, 2, 3].map (fun i => bit (decide (i = q))), [0, 0, 0, 0], 16384, 0, 0⟩

namespace State

/-- The clusters that hold cores: all but the saved ones. -/
def holders (s : State) : List (Nat × Cluster) := s.clusters.filter (fun e => e.2.state ≠ .saved)

/-- What is taken of a core, apart from the clusters that `skip` names. -/
def coreUse (s : State) (skip : Nat → Bool) (core : Nat) : Use :=
  let blocks := s.holders.flatMap (fun e =>
    match s.launch? e.2.launch with
    | none => []
    | some la => if skip e.1 then [] else (e.2.blocks.filter (fun b => b.core = core)).map (blockUse la))
  let reduces := s.launches.flatMap (fun e => e.2.bindings.flatMap (fun b =>
    (b.dispatched.filter (fun d => d.2 / 4 = core)).map (fun d => reduceUse (d.2 % 4))))
  (blocks ++ reduces).foldl Use.add Use.zero

/-- The cores of a die (R37). -/
def dieCores (die : Nat) : List Nat := (List.range coresPerDie).map (fun i => die * coresPerDie + i)

/-- Distinct cores of a list for blocks with the given needs, in ascending core number and f2 order (R336). -/
def assign (s : State) (skip : Nat → Bool) : List Use → List Nat → Option (List Nat)
  | [], _ => some []
  | _ :: _, [] => none
  | n :: ns, c :: cs =>
    if ((s.coreUse skip c).add n).ok then (assign s skip ns cs).map (c :: ·) else assign s skip (n :: ns) cs

end State

/-! ## The order of clusters in a launch (R336, R337) -/

/-- The loop of R337 over the halvings of n. -/
def hilbertLoop (n : Nat) : Nat → Nat → Nat → Nat → Nat → Nat
  | 0, _, _, _, d => d
  | k + 1, s, x, y, d =>
    let rx := bit (decide (x / s % 2 = 1))
    let ry := bit (decide (y / s % 2 = 1))
    let d1 := d + s * s * (3 * rx ^^^ ry)
    let (x1, y1) := if ry = 0 then (if rx = 1 then (n - 1 - y, n - 1 - x) else (y, x)) else (x, y)
    hilbertLoop n k (s / 2) x1 y1 d1

/-- The least k with m ≤ 2^k. -/
def ceilLog2 (m : Nat) : Nat := if m ≤ 1 then 0 else Nat.log2 (m - 1) + 1

/-- hilbert(x, y, n) for n = 2^k. -/
def hilbert (k x y : Nat) : Nat := hilbertLoop (2 ^ k) k (2 ^ k / 2) x y 0

/-- Point `j` of e3 × e4 along the curve. -/
def hilbertPoint (e3 e4 j : Nat) : Nat × Nat :=
  let k := ceilLog2 (max e3 e4)
  let points := (List.range (e3 * e4)).map (fun i => (i % e3, i / e3))
  let d (p : Nat × Nat) : Nat := hilbert k p.1 p.2
  (points.find? (fun p => (points.filter (fun q => d q < d p)).length = j)).getD (0, 0)

/-- The coordinates (f3, f4, f5) of the cluster with ordinal `i`. -/
def clusterAt (r : LRec) (i : Nat) : Nat × Nat × Nat :=
  let n := r.e3 * r.e4
  if r.det then
    let p := hilbertPoint r.e3 r.e4 (i % n)
    (p.1, p.2, i / n)
  else (i % r.e3, i / r.e3 % r.e4, i / n)

/-! ## A cluster at its start (R11, R12, R28, R29) -/

/-- The launched lanes of troupe `t` of a block (R12). -/
def launchedLanes (r : LRec) (t : Nat) : Lanes :=
  if r.lanes = 0 then lanesBelow r.e0 else lanesBelow (min r.e0 (r.lanes - t * r.e0))

/-- WID of lane 0 of a troupe with fields f1 to f5 (R11). -/
def widBase (r : LRec) (fs : List Nat) : Nat :=
  let ws := [r.w0, r.w1, r.w2, r.w3, r.w4]
  (List.range 5).foldl (fun n i => n + fs.getD i 0 * 2 ^ ((ws.take (i + 1)).foldl (· + ·) 0)) 0

/-- Troupe f1 of block f2 of a cluster. -/
def freshTroupe (la : Launch) (f3 f4 f5 f2 f1 : Nat) : Troupe :=
  let r := la.lrec
  let fs := [f1, f2, f3, f4, f5]
  let t := startTroupe r.e0 (BitVec.ofNat 64 (widBase r fs)) (0 :: fs.map (BitVec.ofNat 32 ·)) r.regs (launchedLanes r f1)
    r.params r.det r.seed (BitVec.ofNat 64 r.tvec) (BitVec.ofNat 64 r.entry)
  if la.widen then { t with sticky := 2 } else t

/-- A cluster that has not run yet, on no cores. -/
def freshCluster (la : Launch) (id ordinal : Nat) : Cluster :=
  let r := la.lrec
  let (f3, f4, f5) := clusterAt r ordinal
  let block (f2 : Nat) : Block :=
    startBlock 0 ((List.range r.e1).map (freshTroupe la f3 f4 f5 f2)) la.rgn r.arena r.tiles r.pat
  { launch := id, f3 := f3, f4 := f4, f5 := f5, ordinal := ordinal, die := 0, placed := 0, state := .resident, reason := 0, saved := 0
    blocks := (List.range r.e2).map block, tags := List.replicate 8 ⟨0, 0, [], []⟩ }

/-! ## Candidates (R336, R339, R398) -/

/-- A cluster that may be placed: its launch, and its number when it has run before. -/
structure Candidate where
  id      : Nat
  la      : Launch
  saved   : Option Nat
  cluster : Cluster
  deriving Repr

namespace State

/-- A cluster among others in ascending ordinal. -/
def insertOrdinal (e : Nat × Cluster) : List (Nat × Cluster) → List (Nat × Cluster)
  | [] => [e]
  | f :: fs => if e.2.ordinal < f.2.ordinal then e :: f :: fs else f :: insertOrdinal e fs

/-- The saved clusters of a launch, in ascending ordinal. -/
def savedOf (s : State) (id : Nat) : List (Nat × Cluster) :=
  (s.clusters.filter (fun e => e.2.launch = id && e.2.state = .saved)).foldr insertOrdinal []

/-- The candidates of a launch: saved clusters first, then the next ordinal unless the launch has ended; in a deterministic
launch only the first of them (R336, R339, R398). Where the next ordinal does not fit, no later one does. -/
def launchCandidates (s : State) (id : Nat) (la : Launch) : List Candidate :=
  let saved := (s.savedOf id).map (fun e => (⟨id, la, some e.1, e.2⟩ : Candidate))
  let fresh := if la.ended || la.lrec.clusters ≤ la.next then [] else [⟨id, la, none, freshCluster la id la.next⟩]
  let all := saved ++ fresh
  if la.det then all.take 1 else all

/-- A launch whose clusters are candidates: its dependences have retired and its bindings are reserved. -/
def placing (la : Launch) : Bool := la.waits.isEmpty && la.state ≠ 0 && la.reservedAll

/-- The candidates of one class, in admission order (R336); a launch that may not run now has none (18 R411, R412). -/
def candidatesOf (s : State) (cls : Nat) : List Candidate :=
  (s.launches.filter (fun e => e.2.cls = cls && placing e.2 && s.mayRun e.1 e.2)).flatMap (fun e => s.launchCandidates e.1 e.2)

/-- Every candidate in the order in which they are considered (R336). -/
def candidates (s : State) : List Candidate := [3, 2, 1, 0].flatMap s.candidatesOf

end State

/-- Whether a candidate has been skipped for so long that it holds back every candidate behind it (R336). -/
def Candidate.blocks (k : Candidate) : Bool := k.la.blocking.contains k.cluster.ordinal

/-- The candidates that are considered, up to the first that holds back those behind it. -/
def considered (ks : List Candidate) : List Candidate :=
  ks.takeWhile (fun k => !k.blocks) ++ (ks.dropWhile (fun k => !k.blocks)).take 1

/-- What the blocks of a candidate need. -/
def Candidate.needs (k : Candidate) : List Use := (k.cluster.blocks.filter (fun b => !b.exited)).map (blockUse k.la)

namespace State

/-- The cores of a die on which a candidate fits. -/
def fitOn (s : State) (skip : Nat → Bool) (k : Candidate) (die : Nat) : Option (List Nat) :=
  s.assign skip k.needs (dieCores die)

/-- The lowest die that can hold a candidate, with its cores. -/
def fit (s : State) (k : Candidate) : Option (Nat × List Nat) :=
  (List.range dieTotal).findSome? (fun d => (s.fitOn (fun _ => false) k d).map (fun cs => (d, cs)))

/-! ## Placement and resumption (R28, R32, R336; 18 R406, R410) -/

/-- A troupe of a saved cluster as it resumes: the word of a pending fault is executed again for its lanes, before the troupe
takes part in arbitration (R410). -/
def resumeTroupe (t : Troupe) : Troupe :=
  match t.status with
  | .parked rep => { t with status := .ready, rm := some rep.lanes, waitw := 0, redo := true }
  | _ => { t with waitw := 0 }

/-- The blocks of a cluster on their cores; blocks that have exited need none. -/
def seatBlocks (resumes : Bool) : List Block → List Nat → List Block
  | [], _ => []
  | b :: bs, cs =>
    if b.exited then b :: seatBlocks resumes bs cs
    else { b with core := cs.headD 0, troupes := if resumes then b.troupes.map resumeTroupe else b.troupes }
      :: seatBlocks resumes bs cs.tail

/-- A candidate has been placed: it is skipped no longer. The ordinals after a first placement have been skipped with it. -/
def unskip (k : Candidate) (la : Launch) : Launch :=
  let n := k.cluster.ordinal
  let rest := la.skipped.filter (fun e => e.1 ≠ n)
  let since := (la.skipped.lookup n).toList
  { la with
    skipped := if k.saved.isSome || la.lrec.clusters ≤ n + 1 then rest else rest ++ since.map (fun c => (n + 1, c))
    blocking := la.blocking.filter (fun m => m ≠ n) }

/-- A candidate is placed. Its cores' L1 holds no line any more, so that its accesses see every write that happens before its
start or its resumption (11 R262; 14 R335). -/
def place (s0 : State) (k : Candidate) (die : Nat) (cores : List Nat) : State :=
  let s := cores.foldl flushInvalCore s0
  let cl := { k.cluster with
    die := die
    placed := s.nextId
    state := .resident
    blocks := seatBlocks k.saved.isSome k.cluster.blocks cores }
  let s1 := { s with nextId := s.nextId + 1 }
  match k.saved with
  | some c => (s1.setCluster c cl).modLaunch k.id (unskip k)
  | none =>
    { s1 with clusters := s1.clusters ++ [(s.nextId, cl)] }.modLaunch k.id (fun la =>
      { unskip k la with next := la.next + 1, state := max 2 la.state })

/-- The first candidate that fits, with those that are skipped before it (R336). -/
def choosePlace (s : State) : List Candidate → List Candidate × Option (Candidate × Nat × List Nat)
  | [] => ([], none)
  | k :: ks =>
    match s.fit k with
    | some (die, cores) => ([], some (k, die, cores))
    | none => let r := choosePlace s ks; (k :: r.1, r.2)

/-- Marks a candidate as skipped, from now on if it has not been before. -/
def skip (s : State) (k : Candidate) : State :=
  s.modLaunch k.id (fun la =>
    if la.skipped.any (fun e => e.1 = k.cluster.ordinal) then la
    else { la with skipped := la.skipped ++ [(k.cluster.ordinal, s.clk)] })

/-- The first candidate that fits is placed; those before it are skipped. -/
def placeFirst (s : State) (ks : List Candidate) : State :=
  let r := s.choosePlace (considered ks)
  match r.2 with
  | some (k, die, cores) => (r.1.foldl skip s).place k die cores
  | none => r.1.foldl skip s

/-! ## Reduce blocks that wait for a core (17 R383) -/

/-- Chunks of a launch's bindings whose reduce block waits to be dispatched. -/
def dueReduces (s : State) (e : Nat × Launch) : List (BindRef × Nat) :=
  (List.range e.2.bindings.length).flatMap (fun i =>
    match e.2.bindings[i]? with
    | none => []
    | some b =>
      if !b.live then []
      else ((List.range b.ent.nchunk).filter (fun c => c % b.peerCount = b.rankOf s.member && sget 0 b.arrive c = 0
        && !b.reduced.contains c && !b.dispatched.any (fun d => d.1 = c))).map (fun c => (⟨e.1, i⟩, c)))

/-- Whether some reduce block waits to be dispatched. -/
def reduceDue (s : State) : Bool := s.launches.any (fun e => !(s.dueReduces e).isEmpty)

/-- Whether a core has a free troupe slot on a quadrant, and room for a reduce block. -/
def reduceRoom (s : State) (skip : Nat → Bool) (core q : Nat) : Bool := ((s.coreUse skip core).add (reduceUse q)).ok

/-- The lowest core and quadrant that can take a reduce block. -/
def reduceSeat (s : State) : Option Nat := (List.range (4 * coreTotal)).find? (fun k => s.reduceRoom (fun _ => false) (k / 4) (k % 4))

/-- CLUSTER_PLACEMENT: a reduce block that waits for a core goes first; over the coolant limit nothing is placed (22 R449; log
entry 39). -/
def placeCluster (s : State) : State := if s.overLimit || s.reduceDue then s else s.placeFirst s.candidates

/-- PLACEMENT_SKIP_LIMIT. -/
def skipLimit (s : State) (id : Nat) : State :=
  s.modLaunch id (fun la => { la with
    blocking := (la.skipped.filter (fun e => e.2 + 2 ^ 20 ≤ s.clk)).map (·.1) })

/-! ## Pre-emption (R339; 18 R406) -/

/-- A troupe told to stop (R406). -/
def stopTroupeAt (t : Troupe) : Troupe :=
  match t.status with
  | .waiting .tbwait _ _ | .waiting .tbtest _ _ | .waiting .mwait _ _ | .stalled _ _ => { t with status := .ready }
  | .sleeping _ => { t with status := .ready }
  | _ => t

/-- Where inside a long instruction of `n` parts a stop falls, which is free: after part 0 it falls before the instruction. -/
def stopAfter (s : State) (r : TRef) (n : Nat) : Nat :=
  if n = 0 then 0 else (s.freeWord (2 ^ 38 + ((r.cluster * 16 + r.block) * 64 + r.troupe) % 2 ^ 37)).toNat % n

/-- The long instructions that a stop may fall inside: FBNEXT, LDG, STG and MLOOP (R32, R406). -/
def isLong (code : Nat) : Bool := code = 0x103 || code = 0x125 || code = 0x126 || code = 0x166

/-- What the latch that an op has pushed holds for some lanes: what the op has yielded there. -/
def pushed (t : Troupe) (q : Troupe) (ls : List Nat) : List (Nat × Word) :=
  match (q.run.latches[t.run.k % 4]?).getD none with
  | some y => ls.map (fun l => (l, (y.vals[l]?).getD 0))
  | none => []

/-- A stop inside a long instruction: the part before it has taken effect, PROG counts it, and the rest is still to be executed;
what a part with W has yielded is kept for the latch (03 R86; 04 R105; 08 R198; 11 R250; 12 R287). -/
def stopPart (code : Nat) (o : Op) (x : Env) (s : State) : State :=
  let t := x.t
  let left (m : Lanes) (prog : Nat) (s1 : State) : State := s1.modTroupe x.r (fun q =>
    { q with run := t.run, prog := BitVec.ofNat 32 prog, rm := some m })
  if code = 0x166 then
    let start := if t.rm.isSome then t.prog.toNat else 0
    let n := s.stopAfter x.r (o.dst.toNat / 16 + 1 - start)
    match (if n = 0 then .retry s else mloopFrom o x n start s) with
    | .done s1 => left (t.rm.getD t.active) (start + n) s1
    | _ => s
  else
    let sel := lanesOf t.width (t.selected o.guard)
    let n := s.stopAfter x.r sel.length
    let rest := maskOf (sel.drop n)
    let y : Env := { x with t := { t with rm := some (maskOf (sel.take n)) } }
    let before := (lanesOf t.width (t.selected o.guard ||| t.served)).filter (fun l => l < lowestLane rest)
    let prog := if code = 0x103 then t.servedBefore + n else rowCount o * before.length
    match (if n = 0 then .retry s else if code = 0x103 then fbnextBody o y s else if code = 0x125 then ldgBody o y s
      else stgBody o y s) with
    | .done s1 =>
      left rest prog (if o.w && code ≠ 0x126 then s1.modTroupe x.r (fun q => q.keep (pushed t q (sel.take n)) []) else s1)
    | _ => s

/-- A stop that falls inside the next word of a troupe that holds its slot, where that is a long instruction which nothing keeps
from executing; else it falls before the word (log entry 52). -/
def stopInside (s : State) (r : TRef) : State :=
  match s.troupe? r, s.block? r.cluster r.block, s.cluster? r.cluster with
  | some t, some b, some cl =>
    match s.ctxOfLaunch cl.launch, t.frontier with
    | some ctx, e :: _ =>
      match e.place with
      | .body fin =>
        match s.fetchInstr b.core ctx e.pc fin with
        | .ok (w, next) =>
          match decode w next with
          | .instr i len =>
            let c : Cur := ⟨r, e.pc, hiOf w, (next.map hiOf).getD 0, len, e.pc + BitVec.ofNat 64 (8 * len) = fin⟩
            match i.op?, { s with cur := some c }.env? with
            | some (code, o), some x =>
              if isLong code && t.status = .ready && s.mayIssue r.cluster && t.rm ≠ some 0 && (opTrap code o x).isNone
              then s.stopPart code o x else s
            | _, _ => s
          | _ => s
        | _ => s
      | _ => s
    | _, _ => s
  | _, _, _ => s

/-- Stops a resident cluster for a pre-emption: its troupes are at instruction boundaries, or inside long instructions. -/
def stopCluster (s0 : State) (c : Nat) : State :=
  let s := (s0.slots.filter (fun e => e.2.cluster = c)).foldl (fun s e => s.stopInside e.2) s0
  match s.cluster? c with
  | none => s0
  | some cl =>
    if cl.state ≠ .resident then s0
    else
      let parked := cl.blocks.any (fun b => b.troupes.any (fun t => t.status = .breakpoint))
      let stopBlock (b : Block) : Block := { b with troupes := b.troupes.map stopTroupeAt }
      { s.setCluster c { cl with
          state := .stopping
          reason := if parked then causeBreakpoint else 0x3A
          blocks := cl.blocks.map stopBlock } with
        slots := s.slots.filter (fun e => e.2.cluster ≠ c) }

/-- The order in which clusters are pre-empted: lowest class first, then the most recently placed. -/
def victimBefore (a b : Nat × Nat × Nat) : Bool := a.2.1 < b.2.1 || (a.2.1 = b.2.1 && b.2.2 ≤ a.2.2)

def insertVictim (v : Nat × Nat × Nat) : List (Nat × Nat × Nat) → List (Nat × Nat × Nat)
  | [] => [v]
  | w :: ws => if victimBefore v w then v :: w :: ws else w :: insertVictim v ws

/-- The resident clusters of a die of class below `cls`, in the order in which they are pre-empted. -/
def victims (s : State) (cls die : Nat) : List Nat :=
  let all := s.clusters.filterMap (fun e =>
    match s.launch? e.2.launch with
    | some la => if e.2.state = .resident && e.2.die = die && la.cls < cls then some (e.1, la.cls, e.2.placed) else none
    | none => none)
  (all.foldr insertVictim []).map (·.1)

/-- Whether a cluster is on its way to being saved. -/
def leaving (s : State) (c : Nat) : Bool := ((s.cluster? c).map (fun cl => decide (cl.state = .stopping))).getD false

/-- The clusters to pre-empt, of those in `vs`, until `fits` holds without them. -/
def untilFits (s : State) (fits : (Nat → Bool) → Bool) : List Nat → List Nat → Option (List Nat)
  | took, [] => if fits (fun c => s.leaving c || took.contains c) then some took else none
  | took, v :: vs => if fits (fun c => s.leaving c || took.contains c) then some took else untilFits s fits (took ++ [v]) vs

/-- The clusters that make room: none while those already leaving are enough, else those of the lowest die where the
removal of clusters below the class makes room (R339). -/
def makeRoom (s : State) (cls : Nat) (fits : Nat → (Nat → Bool) → Bool) : List Nat :=
  let tries := (List.range dieTotal).filterMap (fun d => s.untilFits (fits d) [] (s.victims cls d))
  if tries.any (·.isEmpty) then [] else tries.headD []

/-- The clusters that the head candidate of a class has pre-empted. -/
def victimsOf (s : State) (cls : Nat) : List Nat :=
  match s.candidatesOf cls with
  | [] => []
  | k :: _ => if (s.fit k).isSome then [] else s.makeRoom cls (fun d skip => (s.fitOn skip k d).isSome)

/-- The clusters that a reduce block has pre-empted (17 R383). -/
def victimsOfReduce (s : State) : List Nat :=
  if !s.reduceDue || s.reduceSeat.isSome then []
  else s.makeRoom 3 (fun d skip => (dieCores d).any (fun c => [0, 1, 2, 3].any (s.reduceRoom skip c)))

/-- The cluster that is pre-empted next for placement: of those that make room for one candidate, in their order (R339). -/
def nextVictim (s : State) : Option Nat :=
  if s.overLimit then none else (s.victimsOfReduce ++ [3, 2, 1].flatMap s.victimsOf).head?

/-! ## The context save (18 R407 to R409) -/

/-- Whether the issued copies and matched entries of a cluster have drained. -/
def drained (s : State) (c : Nat) (cl : Cluster) : Bool :=
  !s.copies.any (fun q => q.cluster = c) && cl.blocks.all (fun b => b.acts.all (fun a => a.queue.isEmpty))

/-- A troupe as it is saved: late results and SFU results written. -/
def saveTroupe (t : Troupe) : Troupe := { t.drainLate with arenaBusy := false }

end State

/-- H of R109: the largest live value of the troupe's frontier entries. -/
def Troupe.liveMax (t : Troupe) : Nat :=
  (t.frontier ++ ((t.held.map (·.frontier)).getD [])).foldl (fun m e => max m e.live) 0

/-- The v registers that a context save writes: those below H, and those written since placement (R109; log entry 75). -/
def Troupe.savedRegs (t : Troupe) : List Nat :=
  (List.range t.nregs).filter (fun r => r < t.liveMax || sget 0 t.wrote r ≠ 0)

/-- The bytes of a context save of one hardware troupe of `w` lanes that saves `n` v registers (R109). -/
def saveArea (w n : Nat) : Nat := n * (4 * w + 16) + 256 + w + 512 + 4 * (4 * w + 16) + 512

/-- The bytes of a troupe's context save: a troupe of 128 lanes is saved as its two hardware troupes (01 R23; 04 R109). -/
def Troupe.saveBytes (t : Troupe) : Nat :=
  if t.width = 128 then 2 * saveArea 64 t.savedRegs.length else saveArea t.width t.savedRegs.length

/-- The bytes of the troupe saves of a cluster. -/
def Cluster.saveBytes (cl : Cluster) : Nat :=
  cl.blocks.foldl (fun n b => (b.troupes.filter (fun t => t.status ≠ .retired)).foldl (fun n t => n + t.saveBytes) n) 0

namespace State

/-- The context save of a stopped cluster. -/
def saveContext (s : State) (c : Nat) : State :=
  match s.cluster? c with
  | none => s
  | some cl =>
    if cl.state ≠ .stopping || !s.drained c cl then s
    else
      let s1 := (uniq (cl.blocks.map (·.core))).foldl flushCore s
      s1.setCluster c { cl with
        state := .saved
        saved := cl.saveBytes
        blocks := cl.blocks.map (fun b => { b with troupes := b.troupes.map saveTroupe }) }

/-! ## Exit points and retirement (R28, R30, R338; 17 R379) -/

/-- The number of a block in its grid (15 R353). -/
def gridIndex (r : LRec) (cl : Cluster) (f2 : Nat) : Nat := f2 + r.e2 * (cl.f3 + r.e3 * (cl.f4 + r.e4 * cl.f5))

/-- The chunk of a binding that a block selects. -/
def chunkOf (r : LRec) (cl : Cluster) (f2 : Nat) (b : Binding) : Option Nat :=
  let c := gridIndex r cl f2 / 2 ^ b.ent.ms
  if c < b.ent.nchunk then some c else none

/-- A block's exit point counts down FIRE of its chunk in every binding (R379); the counters of an ended binding stand
still (R389). -/
def countDown (r : LRec) (cl : Cluster) (f2 : Nat) (b : Binding) : Binding :=
  match chunkOf r cl f2 b with
  | some c => if b.live then { b with fire := sset 0 b.fire c (sget 0 b.fire c - 1) } else b
  | none => b

/-- Whether a block is at its exit point (R30, R379). -/
def atExit (s : State) (c i : Nat) (b : Block) : Bool :=
  !b.exited && b.troupes.all (fun t => t.status = .retired) && !s.copies.any (fun q => q.cluster = c && q.block = i)
    && b.pend.isEmpty && b.acts.all (fun a => a.queue.isEmpty)

/-- BLOCK_EXIT_POINT: the block's .ca stores are written through first (17 R392). -/
def exitBlock (s : State) (c i : Nat) : State :=
  match s.cluster? c, s.block? c i with
  | some cl, some b =>
    if cl.state ≠ .resident || !s.atExit c i b then s
    else
      let s1 := ((s.flushCore b.core).setBlock c i { b with exited := true, acts := [], turns := [] }).modLaunch cl.launch
        (fun la => { la with bindings := la.bindings.map (countDown la.lrec cl i) })
      s1.modCluster c (fun cl => if cl.blocks.all (·.exited) then { cl with state := .finished } else cl)
  | _, _ => s

/-- Whether the chunks that a block selects, and that are due, have been read into their send slots (R379). -/
def firedAll (r : LRec) (cl : Cluster) (bs : List Binding) : Bool :=
  bs.all (fun b => !b.live || (List.range cl.blocks.length).all (fun f2 =>
    match chunkOf r cl f2 b with
    | some c => sget 0 b.fire c ≠ 0 || b.fired.contains c
    | none => true))

end State

/-! ## Meanings -/

/-- CLUSTER_PLACEMENT. -/
def execClusterPlacement (s : State) : Host.Outcome State Fault Refusal := .next s.placeCluster

/-- PLACEMENT_SKIP_LIMIT. -/
def execPlacementSkipLimit (launch : Nat) (s : State) : Host.Outcome State Fault Refusal := .next (s.skipLimit launch)

/-- PREEMPTION. -/
def execPreemption (cluster : Nat) (s : State) : Host.Outcome State Fault Refusal :=
  .next (if s.nextVictim = some cluster then s.stopCluster cluster else s)

/-- CONTEXT_SAVE. -/
def execContextSave (cluster : Nat) (s : State) : Host.Outcome State Fault Refusal := .next (s.saveContext cluster)

/-- BLOCK_EXIT_POINT. -/
def execBlockExitPoint (cluster block : Nat) (s : State) : Host.Outcome State Fault Refusal :=
  .next (s.exitBlock cluster block)

end Sys2Proof.Machine
end

