-- ==== Sys2Proof/Machine/Collective.lean ====
section
/-! DEFINITION. Collectives (17 R378 to R392): the staging pool, reservation, firing, notifies, the reduce block, completion and
errors; and the retirement of a cluster, which hands its fired chunks on (14 R338). -/

namespace Sys2Proof.Machine

/-! ## The staging pool (R380, R381) -/

/-- Bytes of a slot, and of its elements. -/
def slotBytes : Nat := 4224
def chunkBytes : Nat := 4096

/-- The address that the module gives a slot towards its peers (log entry 40). -/
def slotAddress (slot : Nat) : Nat := 768 * 2 ^ 30 + slot * slotBytes

namespace BEnt

/-- The element format of a wire format (R358). -/
def fmt (b : BEnt) : Fmt :=
  match b.wire with
  | 0 => .mxi8 | 1 => .e4m3 | 2 => .e5m2 | 3 => .bf16 | _ => .fp32

/-- Whether the wire format has blocks with scales; bytes of an element; EPC; bytes of a slot that are used (R377, R380). -/
def isMx (b : BEnt) : Bool := b.wire < 3
def width (b : BEnt) : Nat := if b.wire < 3 then 1 else if b.wire = 3 then 2 else 4
def epc (b : BEnt) : Nat := chunkBytes / b.width
def used (b : BEnt) : Nat := if b.isMx then slotBytes else chunkBytes

end BEnt

namespace State

/-- Writes bytes of a staging slot; a sector is clean again when every byte of it has been written (R212). -/
def writeSlot (s : State) (slot off : Nat) (bytes : List Byte) : State :=
  let at_ := slot * slotBytes + off
  { s with
    staging := ssets 0 s.staging (keyed at_ bytes)
    stagingPoison := (List.range bytes.length).foldl (fun p i => repairByte p (at_ + i)) s.stagingPoison }

/-- Bytes of a staging slot. -/
def readSlot (s : State) (slot n : Nat) : List Byte := sgets 0 s.staging (slot * slotBytes) n

/-- Whether a sector of a staging slot is poisoned: sectors 0 to 63 hold the elements, 64 and 65 the scale strip (R380). -/
def slotPoisoned (s : State) (slot i : Nat) : Bool := (sget none s.stagingPoison (slot * 66 + i)).isSome

/-- The poisoned sectors of a slot's elements, and whether its scale strip is poisoned. -/
def slotPoison (s : State) (slot : Nat) : BitVec 64 × Bool :=
  ((List.range 64).foldl (fun m i => if s.slotPoisoned slot i then m ||| BitVec.ofNat 64 (2 ^ i) else m) 0,
    s.slotPoisoned slot 64 || s.slotPoisoned slot 65)

/-! ## Bindings in the state -/

/-- A binding of an admitted launch. -/
def binding? (s : State) (r : BindRef) : Option Binding := (s.launch? r.launch).bind (fun la => la.bindings[r.index]?)

/-- Changes a binding. -/
def modBinding (s : State) (r : BindRef) (f : Binding → Binding) : State :=
  s.modLaunch r.launch (fun la => { la with bindings := la.bindings.modify r.index f })

/-- The references of the bindings of a launch. -/
def refsOf (e : Nat × Launch) : List BindRef := (List.range e.2.bindings.length).map (fun i => ⟨e.1, i⟩)

/-- The binding of a CID that is reserved on the module (R390). -/
def reservedFor (s : State) (cid : Nat) : Option BindRef :=
  (s.launches.flatMap refsOf).find? (fun r => ((s.binding? r).map (fun b => b.reserved && b.ent.cid = cid)).getD false)

/-- A binding ends on this module (R389): FAULT, and no further chunk is sent, reduced or written. -/
def endBinding (s : State) (r : BindRef) : State := s.modBinding r (fun b => { b with fault := true, dispatched := [] })

/-! ## Messages (R380, R382) -/

/-- A notify of a binding with no field of its kind set. -/
def plainNote (s : State) (b : Binding) (chunk : Nat) : Notify :=
  { cid := b.ent.cid, chunk := chunk, rank := b.rankOf s.member, wire := b.ent.wire, spois := false, epoch := b.epoch % 256
    reservedOk := true, pmap := 0, rxbase := 0, txbase := 0, amax := 0, sticky := 0, nchunk := 0, op := 0, rnd := 0
    fit := false, seedc := 0, pdig := List.replicate 48 0, bins := List.replicate 64 0 }

end State

/-- The 256 bytes of a notify of a KIND, as they are written to the receiver's doorbell (R382). -/
def bellBytes (kind : Nat) (n : Notify) : List Byte :=
  bytesOf 8 (n.cid + 2 ^ 16 * n.chunk + 2 ^ 29 * n.rank + 2 ^ 39 * kind + 2 ^ 41 * n.wire + 2 ^ 44 * bit n.spois + 2 ^ 45 * n.epoch)
    ++ bytesOf 8 n.pmap.toNat ++ bytesOf 8 n.rxbase.toNat ++ bytesOf 8 n.txbase.toNat ++ bytesOf 4 n.amax.toNat
    ++ bytesOf 4 n.sticky.toNat ++ bytesOf 8 (n.nchunk + 2 ^ 13 * n.op + 2 ^ 15 * n.rnd.toNat + 2 ^ 18 * bit n.fit)
    ++ bytesOf 8 n.seedc.toNat ++ n.pdig ++ List.replicate 24 0 ++ n.bins.flatMap (bytesOf 2)

/-- The KIND and the fields of a notify that 256 bytes hold (R382). -/
def bellNotify (bytes : List Byte) : Nat × Notify :=
  let f (hi lo : Nat) : Nat := recBits bytes hi lo
  let kind := f 40 39
  (kind, { cid := f 15 0, chunk := f 28 16, rank := f 38 29, wire := f 43 41, spois := f 44 44 = 1, epoch := f 52 45
           reservedOk := f 63 53 = 0 && f 383 339 = 0 && f 1023 832 = 0 && kind ≠ 3
           pmap := BitVec.ofNat 64 (f 127 64), rxbase := BitVec.ofNat 64 (f 191 128), txbase := BitVec.ofNat 64 (f 255 192)
           amax := BitVec.ofNat 32 (f 287 256), sticky := BitVec.ofNat 32 (f 319 288), nchunk := f 332 320, op := f 334 333
           rnd := BitVec.ofNat 3 (f 337 335), fit := f 338 338 = 1, seedc := BitVec.ofNat 64 (f 447 384)
           pdig := (bytes.drop 56).take 48, bins := (List.range 64).map (fun i => f (1039 + 16 * i) (1024 + 16 * i)) })

/-- The doorbell write of a message. -/
def FabricMsg.bell (m : FabricMsg) : List Byte := bellBytes m.kind m.note

namespace State

/-- PDIG of a binding. -/
def peerDigest (b : Binding) : List Byte := Sha.sha384 (b.peers.flatMap (bytesOf 2))

/-- The ready notify of a binding. -/
def readyNote (s : State) (b : Binding) : Notify :=
  { s.plainNote b 0 with
    rxbase := if b.ent.ownedChunks (b.rankOf s.member) = 0 then 0 else BitVec.ofNat 64 (slotAddress b.rxbase)
    txbase := BitVec.ofNat 64 (slotAddress b.txbase)
    nchunk := b.ent.nchunk
    op := b.ent.op
    rnd := b.ent.rnd
    fit := b.ent.fit
    seedc := b.ent.seedc
    pdig := peerDigest b }

/-- The ranks of the other peers. -/
def otherRanks (s : State) (b : Binding) : List Nat := (List.range b.peers.length).filter (fun r => r ≠ b.rankOf s.member)

/-- A message is sent: KIND 0 contribution, 1 result, 2 ready. -/
def send (s : State) (m : FabricMsg) : State := { s with outbox := s.outbox ++ [m] }

/-- The slot that a peer's ready notify gives (R379, R385). -/
def peerSlot (base : DWord) (slot : Nat) : Nat := base.toNat + slot * slotBytes

/-! ## Contributions (R379) -/

/-- A contribution is counted at its owner, with its poison (R378, R389). -/
def arrived (s : State) (r : BindRef) (c rank : Nat) (pmap : BitVec 64) (spois : Bool) : State :=
  s.modBinding r (fun b => { b with
    arrive := sset 0 b.arrive c (sget 0 b.arrive c - 1)
    pmaps := b.pmaps.filter (fun p => !(p.1 = c && p.2.1 = rank)) ++ [(c, rank, pmap, spois)]
    poison := b.poison || pmap ≠ 0 || spois })

/-- The poison of the module's own read of a chunk. -/
def ownPoison (b : Binding) (c rank : Nat) : BitVec 64 :=
  ((b.pmaps.find? (fun p => p.1 = c && p.2.1 = rank)).map (fun p => p.2.2.1)).getD 0

/-- A chunk in its send slot goes to its owner: into the module's own receive slot, over the fabric, or it waits for READY
of the owner (R379). -/
def contribute (s : State) (r : BindRef) (c : Nat) : State :=
  match s.binding? r with
  | none => s
  | some b =>
    let own := b.rankOf s.member
    let P := b.peerCount
    let o := c % P
    let bytes := s.readSlot (b.txbase + c) b.ent.used
    let (bad, strip) := s.slotPoison (b.txbase + c)
    let pmap := ownPoison b c own ||| bad
    let spois := b.ent.isMx && strip
    if o = own then (s.writeSlot (b.rxbase + c / P * P + own) 0 bytes).arrived r c own pmap spois
    else match b.ready.find? (fun p => p.rank = o) with
      | some p =>
        (s.send ⟨b.peers.getD o 0, 0, { s.plainNote b c with pmap := pmap, spois := spois }, peerSlot p.rx (c / P * P + own),
          bytes⟩).modBinding r (fun b => { b with
            sendWait := b.sendWait.filter (fun d => d ≠ c)
            poison := b.poison || pmap ≠ 0 || spois })
      | none => s.modBinding r (fun b => { b with sendWait := b.sendWait.filter (fun d => d ≠ c) ++ [c] })

/-- A fired chunk is handed to the fabric (R338). -/
def handOn (s : State) (r : BindRef) (c : Nat) : State :=
  (s.modBinding r (fun b => { b with handed := b.handed ++ [c] })).contribute r c

/-- The 64-byte sectors of chunk `c` that hold poison; a sideband error has poisoned the four sectors of its line, and each has
cleared with the scales of its blocks (R212, R382, R384; log entry 41). -/
def chunkPoison (s : State) (b : Binding) (c : Nat) : BitVec 64 :=
  (List.range 64).foldl (fun m i =>
    let k := s.pageKey b.pages (b.ent.out + chunkBytes * c + 64 * i)
    if s.poisoned k then m ||| BitVec.ofNat 64 (2 ^ i) else m) 0

/-- The bytes of chunk `c`: its elements, and for MX its 128 scale bytes. -/
def chunkImage (s : State) (b : Binding) (c : Nat) : List Byte :=
  let key (i : Nat) : Nat := s.pageKey b.pages (b.ent.out + chunkBytes * c + i)
  let data := (List.range chunkBytes).map (fun i => s.rdByte (key i))
  if b.ent.isMx then data ++ (List.range 128).map (fun k => s.rdSide (key (k / 8 * 256)) (k % 8)) else data

/-- CHUNK_FIRE: in a deterministic launch a chunk that blocks select is handed on when a cluster of theirs retires (R338). -/
def fireChunk (s : State) (r : BindRef) (c : Nat) : State :=
  match s.binding? r, s.launch? r.launch with
  | some b, some la =>
    if !b.live || b.ent.nchunk ≤ c || sget 0 b.fire c ≠ 0 || b.fired.contains c then s
    else
      let own := b.rankOf s.member
      let pmap := s.chunkPoison b c
      let s1 := (s.writeSlot (b.txbase + c) 0 (s.chunkImage b c)).modBinding r (fun b => { b with
        fired := b.fired ++ [c]
        poison := b.poison || pmap ≠ 0
        pmaps := b.pmaps ++ [(c, own, pmap, false)] })
      if la.det && selecting la.lrec.blocks b.ent.ms c ≠ 0 then s1 else s1.handOn r c
  | _, _ => s

/-! ## Ready notifies (R382) -/

/-- Whether an EPOCH is one that bindings of this CID have completed, when `n` of them have (R382). -/
def pastEpoch (n epoch : Nat) : Bool :=
  let back := (n + 256 - epoch % 256) % 256
  1 ≤ back && back ≤ min 254 n

/-- The checks of R382 that every notify meets at the binding of its CID and EPOCH. -/
def noteFits (s : State) (b : Binding) (n : Notify) : Bool :=
  n.reservedOk && n.wire = b.ent.wire && n.rank < b.peerCount && n.rank ≠ b.rankOf s.member && n.chunk < b.ent.nchunk

/-- The parameters that a ready notify has to agree on. -/
def readyFits (b : Binding) (n : Notify) : Bool :=
  n.nchunk = b.ent.nchunk && n.op = b.ent.op && n.rnd = b.ent.rnd && n.fit = b.ent.fit && n.seedc = b.ent.seedc
    && n.pdig = peerDigest b

/-- A result goes to send slot `c` of a peer whose ready notify is held, or waits for that notify (R382, R385). -/
def sendResult (s : State) (r : BindRef) (x : ResultWait) : State :=
  match s.binding? r with
  | none => s
  | some b =>
    match b.ready.find? (fun p => p.rank = x.rank) with
    | some p => s.send ⟨b.peers.getD x.rank 0, 1, x.note, peerSlot p.tx x.note.chunk, x.bytes⟩
    | none => s.modBinding r (fun b => { b with resWait := b.resWait ++ [x] })

/-- A ready notify of the reserved binding's own EPOCH: READY of the sender, and the chunks and results that waited for it. -/
def takeReady (s : State) (r : BindRef) (n : Notify) : State :=
  match s.binding? r with
  | none => s
  | some b =>
    if !b.live then s
    else if !(s.noteFits b n && readyFits b n) then s.endBinding r
    else
      let s1 := s.modBinding r (fun b => { b with
        ready := b.ready.filter (fun p => p.rank ≠ n.rank) ++ [⟨n.rank, n.rxbase, n.txbase⟩]
        resWait := b.resWait.filter (fun x => x.rank ≠ n.rank) })
      let s2 := (b.sendWait.filter (fun c => c % b.peerCount = n.rank)).foldl (fun s c => s.contribute r c) s1
      (b.resWait.filter (fun x => x.rank = n.rank)).foldl (fun s x => s.sendResult r x) s2

/-- READY_NOTIFY: a notify of a binding that is about to be reserved is held, one that will be refused too: the binding ends when
it is reserved and takes the notify up. -/
def readyArrives (s : State) (n : Notify) : State :=
  let done := sget 0 s.epochs n.cid
  match s.reservedFor n.cid with
  | none => if n.epoch = done % 256 || n.epoch = (done + 1) % 256 then { s with heldNotes := s.heldNotes ++ [n] } else s
  | some r =>
    match s.binding? r with
    | none => s
    | some b =>
      if n.epoch = b.epoch % 256 then s.takeReady r n
      else if n.epoch = (b.epoch + 1) % 256 then { s with heldNotes := s.heldNotes ++ [n] }
      else if pastEpoch b.epoch n.epoch || !b.live then s
      else s.endBinding r

/-! ## Reservation (R390) -/

/-- The first run of `n` free staging slots (log entry 40). -/
def freeRun (s : State) (n : Nat) : Option Nat :=
  let free (a : Nat) : Bool := a + n ≤ stagingSlots && s.stagingUse.all (fun u => a + n ≤ u.1 || u.1 + u.2 ≤ a)
  ((0 :: s.stagingUse.map (fun u => u.1 + u.2)).filter free).foldl (fun b a => match b with
    | some x => some (min x a)
    | none => some a) none

/-- Takes a run of slots; an empty one takes nothing. -/
def takeRun (s : State) (n : Nat) : Option (Nat × State) :=
  if n = 0 then some (0, s) else (s.freeRun n).map (fun a => (a, { s with stagingUse := s.stagingUse ++ [(a, n)] }))

/-- Reserves the slots of a binding (R381). -/
def reserveOne (s : State) (r : BindRef) : Option State :=
  match s.binding? r with
  | none => none
  | some b =>
    let own := b.rankOf s.member
    match s.takeRun b.ent.nchunk with
    | none => none
    | some (tx, s1) =>
      match s1.takeRun (b.peerCount * b.ent.ownedChunks own) with
      | none => none
      | some (rx, s2) =>
        some (s2.modBinding r (fun b => { b with
          reserved := true
          txbase := tx
          rxbase := rx
          epoch := sget 0 s.epochs b.ent.cid
          ready := [⟨own, BitVec.ofNat 64 (slotAddress rx), BitVec.ofNat 64 (slotAddress tx)⟩] }))

/-- Reserves the bindings of a list, all or none. -/
def reserveMany : List BindRef → State → Option State
  | [], s => some s
  | r :: rs, s =>
    match s.reserveOne r with
    | some s1 => reserveMany rs s1
    | none => none

/-- CID of a binding reference. -/
def cidOf (s : State) (r : BindRef) : Nat := ((s.binding? r).map (fun b => b.ent.cid)).getD 0

/-- A reference among others in ascending CID. -/
def insertCid (s : State) (r : BindRef) : List BindRef → List BindRef
  | [] => [r]
  | q :: qs => if s.cidOf r < s.cidOf q then r :: q :: qs else q :: insertCid s r qs

/-- The bindings of a launch in ascending CID. -/
def byCid (s : State) (e : Nat × Launch) : List BindRef := (refsOf e).foldr s.insertCid []

/-- Whether a launch waits to reserve, and no binding of its CIDs is reserved on the module. -/
def mayReserve (s : State) (e : Nat × Launch) : Bool :=
  e.2.waits.isEmpty && e.2.state ≠ 0 && !e.2.reservedAll
    && (refsOf e).all (fun r => (s.reservedFor (s.cidOf r)).isNone)

/-- The lowest CID of a launch. -/
def lowestCid (s : State) (e : Nat × Launch) : Nat := ((s.byCid e).map s.cidOf).headD 0

/-- Reserved bindings on the module: each has a reduce slot. -/
def reservedCount (s : State) : Nat := (s.launches.flatMap (fun e => e.2.bindings.filter (·.reserved))).length

/-- The ready notifies of a binding, and the held ones that it takes up. -/
def announce (s : State) (r : BindRef) : State :=
  match s.binding? r with
  | none => s
  | some b =>
    let s1 := (s.otherRanks b).foldl (fun s k => s.send ⟨b.peers.getD k 0, 2, s.readyNote b, 0, []⟩) s
    let mine (n : Notify) : Bool := n.cid = b.ent.cid && n.epoch = b.epoch % 256
    let s2 : State := { s1 with heldNotes := s1.heldNotes.filter (fun n => !mine n) }
    (s.heldNotes.filter mine).foldl (fun s n => s.takeReady r n) s2

/-- The reservation of every binding of a launch, where the slots that it needs are free. -/
def reserveAll (s : State) (e : Nat × Launch) : Option State :=
  if !s.mayReserve e || reduceSlots < s.reservedCount + e.2.bindings.length then none else reserveMany (s.byCid e) s

/-- BINDING_RESERVATION: of the launches whose reservations can be made, the one whose lowest CID is lowest goes first. One whose
reservation cannot be made holds nothing back, so that peer groups that overlap cannot deadlock (R390, R391; log entry 90). -/
def reserve (s : State) (id : Nat) : State :=
  match s.launch? id with
  | none => s
  | some la =>
    let e := (id, la)
    if s.launches.all (fun f => f.1 = id || s.lowestCid e ≤ s.lowestCid f || (s.reserveAll f).isNone) then
      match s.reserveAll e with
      | none => s
      | some s1 => (s.byCid e).foldl announce (s1.modLaunch id (fun la => { la with reservedAll := true }))
    else s

/-! ## Contribution notifies (R382, R383) -/

/-- The reserved binding of a notify other than ready; none when the notify is refused and ends nothing more. -/
def noteTarget (s : State) (n : Notify) : Option (BindRef × Binding) :=
  match s.reservedFor n.cid with
  | none => none
  | some r =>
    match s.binding? r with
    | some b => if b.live && !(n.epoch ≠ b.epoch % 256 && pastEpoch b.epoch n.epoch) then some (r, b) else none
    | none => none

/-- CONTRIBUTION_NOTIFY: the data stand in the receive slot already (R380). -/
def contributionArrives (s : State) (n : Notify) : State :=
  match s.noteTarget n with
  | none => s
  | some (r, b) =>
    if n.epoch = b.epoch % 256 && s.noteFits b n && n.chunk % b.peerCount = b.rankOf s.member
    then s.arrived r n.chunk n.rank n.pmap n.spois
    else s.endBinding r

/-- REDUCE_DISPATCH: onto the lowest core and quadrant with room (log entry 42). -/
def dispatchReduce (s : State) (r : BindRef) (c : Nat) : State :=
  match s.launch? r.launch, s.reduceSeat with
  | some la, some seat =>
    if (s.dueReduces (r.launch, la)).contains (r, c) then s.modBinding r (fun b => { b with dispatched := b.dispatched ++ [(c, seat)] })
    else s
  | _, _ => s

/-! ## The reduce block (R384 to R387) -/

/-- Element `j` of a contribution as an FP32 code. -/
def slotElem (b : BEnt) (data : List Byte) (pmap : BitVec 64) (spois : Bool) (j : Nat) : Nat :=
  let w := b.width
  if spois || pmap.getLsbD (j * w / 64) then nanc 6 .fp32
  else
    let code := ofBytes ((data.drop (j * w)).take w)
    if b.isMx then
      let scale := (data.getD (chunkBytes + j / 32) 0).toNat
      match dq b.fmt code scale with
      | .nan => nanc (dqCause scale) .fp32
      | .inf n => signed .fp32 n Fmt.fp32.infMag
      | .fin n m e => (rndF .fp32 Rnd.rne n m e).1
    else if b.wire = 3 then (convF .bf16 .fp32 Rnd.rne code).1
    else code

/-- The contributions of chunk `c` in ascending rank order: bytes, PMAP, SPOIS. -/
def contributions (s : State) (b : Binding) (c : Nat) : List (List Byte × BitVec 64 × Bool) :=
  (List.range b.peerCount).map (fun k =>
    let slot := b.rxbase + c / b.peerCount * b.peerCount + k
    let poison := ((b.pmaps.find? (fun p => p.1 = c && p.2.1 = k)).map (fun p => p.2.2)).getD (0, false)
    let (bad, strip) := s.slotPoison slot
    (s.readSlot slot b.ent.used, poison.1 ||| bad, poison.2 || (b.ent.isMx && strip)))

/-- y(j) of R384. -/
def reduceElem (b : BEnt) (cs : List (List Byte × BitVec 64 × Bool)) (j : Nat) : Nat :=
  match cs.map (fun c => slotElem b c.1 c.2.1 c.2.2 j) with
  | [] => 0
  | x :: xs => xs.foldl (fun a x => if b.op = 0 then addF .fp32 Rnd.rne a x else maxF .fp32 a x) x

/-- The seed of a binding (R385). -/
def seedOf (la : Launch) (b : Binding) : DWord := if b.ent.seedc = 0 then la.lrec.seed else b.ent.seedc

/-- What a reduce block makes of a chunk: its slot, AMAX, STICKY and BINS. -/
structure Reduced where
  bytes  : List Byte
  amax   : Word
  sticky : Word
  bins   : List Nat

/-- The bin of a value (R386). -/
def binOf (v : FVal) : Nat :=
  match v with
  | .nan => 1
  | .inf _ => 2
  | .fin _ m e => if m = 0 then 0 else 3 + (max 0 (min 60 (floorLog2 m e + 40))).toNat

/-- The wire form of the results `ys` of chunk `c` (R385), with STICKY.OVF. -/
def wireForm (b : BEnt) (seed : DWord) (c : Nat) (ys : List Nat) : List Byte × Bool :=
  let rnd (j : Nat) : Rnd := Rnd.at (rmode b.rnd 0) seed ((c * b.epc + j) % 2 ^ 64)
  let vs := (List.range ys.length).zipWith (fun j y => (decodeF .fp32 y, rnd j)) ys
  if b.isMx then
    let qs := (List.range (b.epc / 32)).map (fun k => quantBlock b.fmt b.fit ((vs.drop (32 * k)).take 32))
    (qs.flatMap (fun q => q.codes.map (BitVec.ofNat 8 ·)) ++ qs.map (fun q => BitVec.ofNat 8 q.scale), qs.any (·.ovf))
  else if b.wire = 3 then
    let cs := (List.range ys.length).zipWith (fun j y => convF .fp32 .bf16 (rnd j) y) ys
    (cs.flatMap (fun x => bytesOf 2 x.1), cs.any (·.2))
  else (ys.flatMap (bytesOf 4), false)

/-- The reduction of chunk `c`. -/
def reduceChunk (s : State) (la : Launch) (b : Binding) (c : Nat) : Reduced :=
  let cs := s.contributions b c
  let ys := (List.range b.ent.epc).map (reduceElem b.ent cs)
  let vs := ys.map (decodeF .fp32)
  let (bytes, ovf) := wireForm b.ent (seedOf la b) c ys
  let bins := vs.map binOf
  ⟨bytes, vs.foldl amaxStep 0, BitVec.ofNat 32 (bit ovf), (List.range 64).map (fun i => (bins.filter (fun k => k = i)).length)⟩

/-- A result chunk is written into the output range; each MX block with its sideband byte (R385, R210). -/
def writeChunk (s : State) (b : Binding) (c : Nat) (bytes : List Byte) : State :=
  let va := b.ent.out + chunkBytes * c
  if b.ent.isMx then
    (List.range 128).foldl (fun s k =>
      let base := s.pageKey b.pages (va + k / 8 * 256)
      s.wrBlock b.ent.fmt base (k % 8) (keyed (base + k % 8 * 32) ((bytes.drop (32 * k)).take 32)) (bytes.getD (chunkBytes + k) 0)) s
  else s.wrBytes ((List.range chunkBytes).zipWith (fun i x => (s.pageKey b.pages (va + i), x)) bytes)

/-- AMAX of a binding after a chunk's (R387). -/
def mergeAmax (a x : Word) : Word :=
  ((a ||| x) &&& 0x80000000) ||| (if (a &&& 0x7FFFFFFF).toNat < (x &&& 0x7FFFFFFF).toNat then x &&& 0x7FFFFFFF else a &&& 0x7FFFFFFF)

/-- A result chunk is written and counted (R378, R385 to R387). -/
def takeResult (s : State) (r : BindRef) (c : Nat) (x : Reduced) : State :=
  match s.binding? r with
  | none => s
  | some b =>
    (s.writeChunk b c x.bytes).modBinding r (fun b => { b with
      results := b.results - 1
      written := b.written ++ [c]
      hist := (List.range 64).map (fun i => (b.hist.getD i 0 + x.bins.getD i 0) % 2 ^ 32)
      amax := mergeAmax b.amax x.amax
      sticky := b.sticky ||| x.sticky })

/-- REDUCE_RESULT: the result is written here and sent to every other peer. -/
def finishReduce (s : State) (r : BindRef) (c : Nat) : State :=
  match s.binding? r, s.launch? r.launch with
  | some b, some la =>
    if !b.live || !b.dispatched.any (fun d => d.1 = c) then s
    else
      let x := s.reduceChunk la b c
      let s1 := (s.takeResult r c x).modBinding r (fun b => { b with
        dispatched := b.dispatched.filter (fun d => d.1 ≠ c)
        reduced := b.reduced ++ [c]
        poison := b.poison || (s.contributions b c).any (fun q => q.2.1 ≠ 0 || q.2.2) })
      let note : Notify := { s.plainNote b c with amax := x.amax, sticky := x.sticky, bins := x.bins }
      (s.otherRanks b).foldl (fun s k => s.sendResult r ⟨k, note, x.bytes⟩) s1
  | _, _ => s

/-- Sectors of chunk `c` that a poisoned send slot has been copied into are poisoned with it (R212). -/
def spreadPoison (s : State) (b : Binding) (c : Nat) : State :=
  let (bad, strip) := s.slotPoison (b.txbase + c)
  CopyJob.poisonKeys s (((List.range 64).filter (fun i => bad.getLsbD i || (b.ent.isMx && strip))).map (fun i =>
    s.pageKey b.pages (b.ent.out + chunkBytes * c + 64 * i)))

/-- RESULT_NOTIFY: the data stand in send slot `c` already. -/
def resultArrives (s : State) (n : Notify) : State :=
  match s.noteTarget n with
  | none => s
  | some (r, b) =>
    if n.epoch = b.epoch % 256 && s.noteFits b n && n.chunk % b.peerCount = n.rank then
      (s.takeResult r n.chunk ⟨s.readSlot (b.txbase + n.chunk) b.ent.used, n.amax, n.sticky, n.bins⟩).spreadPoison b n.chunk
    else s.endBinding r

/-! ## Completion and errors (R388, R389) -/

/-- BINDING_COMPLETE: it counts as a completed binding of its CID. Results that still wait for a peer's ready notify are sent
first (R382; log entry 43). -/
def completeBinding (s : State) (r : BindRef) : State :=
  match s.binding? r with
  | none => s
  | some b =>
    if !b.reserved || b.complete || ((b.results ≠ 0 || !b.resWait.isEmpty) && !b.fault) then s
    else
      let s1 := s.modBinding r (fun b => { b with complete := true, dispatched := [] })
      { s1 with epochs := sset 0 s1.epochs b.ent.cid (sget 0 s1.epochs b.ent.cid + 1) }

/-- FABRIC_WRITE_FAILURE. -/
def failBinding (s : State) (r : BindRef) : State :=
  match s.binding? r with
  | some b => if b.live then s.endBinding r else s
  | none => s

/-! ## The retirement of a cluster (R338) -/

/-- The fired chunks that the blocks of a cluster select and that are not handed on yet. -/
def toHand (la : Launch) (cl : Cluster) (b : Binding) : List Nat :=
  (uniq ((List.range cl.blocks.length).filterMap (fun f2 => chunkOf la.lrec cl f2 b))).filter (fun c =>
    b.fired.contains c && !b.handed.contains c)

/-- The chunks of a retiring cluster are handed to the fabric, binding by binding. -/
def handChunks (s : State) (id : Nat) (la : Launch) (cl : Cluster) : State :=
  (refsOf (id, la)).foldl (fun s r =>
    match s.binding? r with
    | some b => if b.live then (toHand la cl b).foldl (fun s c => s.handOn r c) s else s
    | none => s) s

/-- Instructions that the troupes of a cluster have retired. -/
def clusterRetired (cl : Cluster) : Nat := cl.blocks.foldl (fun n b => b.troupes.foldl (fun n t => n + t.retiredInsns) n) 0

/-- CLUSTER_RETIREMENT: in curve order in a deterministic launch. -/
def retireCluster (s : State) (c : Nat) : State :=
  match s.cluster? c with
  | none => s
  | some cl =>
    match s.launch? cl.launch with
    | none => s
    | some la =>
      if cl.state ≠ .finished || !firedAll la.lrec cl la.bindings || (la.det && cl.ordinal ≠ la.done) then s
      else
        let done := la.done + 1
        ((s.handChunks cl.launch la cl).removeClusters (fun k _ => k = c)).modLaunch cl.launch (fun la =>
          { la with
            done := done
            record := la.record.map (fun r => { r with gone := r.gone + clusterRetired cl })
            sticky := la.sticky ||| clusterSticky cl
            state := if la.lrec.clusters ≤ done then 3 else la.state })

end State

/-! ## Meanings -/

/-- BINDING_RESERVATION. -/
def execBindingReservation (launch : Nat) (s : State) : Host.Outcome State Fault Refusal := .next (s.reserve launch)

/-- CLUSTER_RETIREMENT. -/
def execClusterRetirement (cluster : Nat) (s : State) : Host.Outcome State Fault Refusal := .next (s.retireCluster cluster)

/-- CHUNK_FIRE. -/
def execChunkFire (b : BindRef) (chunk : Nat) (s : State) : Host.Outcome State Fault Refusal := .next (s.fireChunk b chunk)

/-- READY_NOTIFY. -/
def execReadyNotify (n : Notify) (s : State) : Host.Outcome State Fault Refusal := .next (s.readyArrives n)

/-- CONTRIBUTION_NOTIFY. -/
def execContributionNotify (n : Notify) (s : State) : Host.Outcome State Fault Refusal := .next (s.contributionArrives n)

/-- RESULT_NOTIFY. -/
def execResultNotify (n : Notify) (s : State) : Host.Outcome State Fault Refusal := .next (s.resultArrives n)

/-- REDUCE_DISPATCH. -/
def execReduceDispatch (b : BindRef) (chunk : Nat) (s : State) : Host.Outcome State Fault Refusal :=
  .next (s.dispatchReduce b chunk)

/-- REDUCE_RESULT. -/
def execReduceResult (b : BindRef) (chunk : Nat) (s : State) : Host.Outcome State Fault Refusal :=
  .next (s.finishReduce b chunk)

/-- BINDING_COMPLETE. -/
def execBindingComplete (b : BindRef) (s : State) : Host.Outcome State Fault Refusal := .next (s.completeBinding b)

/-- FABRIC_WRITE_FAILURE. -/
def execFabricWriteFailure (b : BindRef) (s : State) : Host.Outcome State Fault Refusal := .next (s.failBinding b)

end Sys2Proof.Machine
end

