-- ==== Sys2Proof/Machine/Compare.lean ====
section
/-! DEFINITION. The compare and predicate class 0x3 (05 R135, R136). -/

namespace Sys2Proof.Machine

/-- Writes predicate `p` in the selected lanes with the values of `val`. -/
def Troupe.setP (t : Troupe) (o : Op) (p : Nat) (val : Lanes) : Troupe := t.writeP p (t.selected o.guard) val

/-- CMP (R135): a < b into p(d), a = b into p(d + 1), in the lanes that the guard selected before either was written. -/
def cmpBody (o : Op) (x : Env) (s : State) : Res :=
  let ty := tyOf 0x060 o
  let t := x.t
  let a (l : Nat) : Int := ev ty (t.operand ty o o.a l)
  let b (l : Nat) : Int := ev ty (t.operand ty o o.b l)
  let lt := maskWhere t.width (fun l => decide (a l < b l))
  let eq := maskWhere t.width (fun l => decide (a l = b l))
  let sel := t.selected o.guard
  .done (s.setTroupe x.r ((t.writeP o.dst.toNat sel lt).writeP (o.dst.toNat + 1) sel eq))

/-- A predicate op whose value is `f` of its predicate operands (R136). -/
def predBody (o : Op) (f : Lanes → Lanes → Lanes) (x : Env) (s : State) : Res :=
  .done (s.setTroupe x.r (x.t.setP o o.dst.toNat (f (x.t.predSrc o.a) (x.t.predSrc o.b))))

/-- PMOV (R136): bit 0 of an immediate, or pa. -/
def pmovBody (o : Op) (x : Env) (s : State) : Res :=
  let v : Lanes := if o.b.isImm then (if o.b.imm11.getLsbD 0 then lanesBelow x.t.width else 0) else x.t.predSrc o.a
  .done (s.setTroupe x.r (x.t.setP o o.dst.toNat v))

/-! ## Meanings -/

def execCmp (o : Op) (s : State) : Host.Outcome State Fault Refusal := issueOp 0x060 (.cmp o) o (cmpBody o) s
def execPand (o : Op) (s : State) : Host.Outcome State Fault Refusal :=
  issueOp 0x061 (.pand o) o (predBody o (fun a b => a &&& b)) s
def execPor (o : Op) (s : State) : Host.Outcome State Fault Refusal :=
  issueOp 0x062 (.por o) o (predBody o (fun a b => a ||| b)) s
def execPxor (o : Op) (s : State) : Host.Outcome State Fault Refusal :=
  issueOp 0x063 (.pxor o) o (predBody o (fun a b => a ^^^ b)) s
def execPnot (o : Op) (s : State) : Host.Outcome State Fault Refusal :=
  issueOp 0x064 (.pnot o) o (predBody o (fun a _ => ~~~a)) s
def execPmov (o : Op) (s : State) : Host.Outcome State Fault Refusal := issueOp 0x065 (.pmov o) o (pmovBody o) s

end Sys2Proof.Machine
end

