-- ==== Sys2Proof/Machine/Control.lean ====
section
/-! DEFINITION. The control class 0x0 (05 R110 to R119): branches, calls and returns, EXIT, YIELD and NOP. -/

namespace Sys2Proof.Machine

/-- The address that a relative target names (R111). -/
def relTarget (x : Env) (o : Op) : DWord :=
  let off : DWord := match o.ext with
    | some e => e.value.signExtend 64
    | none => o.b.imm11.signExtend 64
  x.c.pc + off * 8

/-- The lanes of `sel` grouped by the address in their own pair (R114 to R116). -/
def pairMoves (t : Troupe) (b : Src) (sel : Lanes) (need : Need) : List Move :=
  let at_ (l : Nat) : DWord := t.rawPair b l
  (uniq ((lanesOf t.width sel).map at_)).map
    (fun a => ⟨maskWhere t.width (fun l => hasLane sel l && at_ l = a), a, need⟩)

/-- The moves of `g` to `b` (R114): one for an s pair, by address for a v pair. -/
def registerMoves (t : Troupe) (b : Src) (sel : Lanes) (need : Need) : List Move :=
  match b.cls with
  | .s => [⟨sel, t.rawPair b 0, need⟩]
  | _ => pairMoves t b sel need

/-- The moves whose target R90 accepts, with their headers. -/
def goodMoves (cs : List (Move × Target)) : List (Move × DWord) :=
  cs.filterMap (fun c => match c.2 with
    | .ok w => some (c.1, w)
    | _ => none)

/-- The traps of the moves whose target R90 refuses. -/
def badMoves (cs : List (Move × Target)) : List TrapX :=
  cs.filterMap (fun c => match c.2 with
    | .bad x => some x
    | _ => none)

/-- Counts the frontier entries that moved to the spill area (R25; 16 R375). -/
def Troupe.countSpills (t : Troupe) (before : Nat) : Troupe :=
  let n := spilled t.frontier.length - spilled before
  { t with counters := { t.counters with spills := (t.counters.spills + n) % 2 ^ 64 } }

/-- Sends lanes to their targets (R113): `pre` acts on the troupe for the lanes whose target is good, before the move. -/
def transfer (x : Env) (s : State) (pre : Lanes → Troupe → Troupe) (moves : List Move) : Res :=
  let cs := (moves.filter (fun m => m.mask ≠ 0)).map (fun m => (m, s.checkTarget x.core x.ctx m))
  match cs.findSome? (fun c => match c.2 with
    | .pending va => some va
    | _ => none) with
  | some va => .again s va
  | none =>
    let ok := goodMoves cs
    let gone := ok.foldl (fun g m => g ||| m.1.mask) 0
    let t := pre gone x.t
    let s1 := s.setTroupe x.r
      ({ t with frontier := moveLanes t.frontier ok }.countSpills t.frontier.length)
    match worstMove (badMoves cs) with
    | none => .moved s1
    | some tr => .trap s1 tr

/-- The lanes of the entry that an op does not select go to the fall-through address (R112, R400). -/
def fallMove (x : Env) (sel : Lanes) : Move := ⟨x.t.active &&& ~~~sel, x.c.next, .any⟩

/-- BRA (R114). -/
def braBody (o : Op) (x : Env) (s : State) : Res :=
  let g := x.t.selected o.guard
  transfer x s (fun _ t => t) [⟨g, relTarget x o, .any⟩, fallMove x g]

/-- The lanes that BRC sends to its target (R114): `mode` 0 per lane, 1 .any, 2 .all. -/
def brcTaken (mode : Nat) (g c : Lanes) : Lanes :=
  if mode = 0 then g &&& c
  else if mode = 1 then (if g &&& c ≠ 0 then g else 0)
  else if g ≠ 0 && g &&& ~~~c = 0 then g else 0

/-- BRC (R114). -/
def brcBody (o : Op) (x : Env) (s : State) : Res :=
  let g := brcTaken o.c.toNat (x.t.selected o.guard) (x.t.predSrc o.a)
  transfer x s (fun _ t => t) [⟨g, relTarget x o, .any⟩, fallMove x g]

/-- BRX (R114): the target needs flag X. -/
def brxBody (o : Op) (x : Env) (s : State) : Res :=
  let g := x.t.selected o.guard
  transfer x s (fun _ t => t) (registerMoves x.t o.b g .flagX ++ [fallMove x g])

/-- CALL (R115): the link is written for the lanes whose target passes, and for no lane that falls through. -/
def callBody (o : Op) (x : Env) (s : State) : Res :=
  let g := x.t.selected o.guard
  let d := o.dst.toNat
  let link (ok : Lanes) (t : Troupe) : Troupe :=
    let on := ok &&& g
    (t.writeV (t.cellsV d on (fun _ => x.c.next.extractLsb' 0 32) ++ t.cellsV (d + 1) on (fun _ => x.c.next.extractLsb' 32 32))).noteV
      (Troupe.written d 2 on [])
  let taken := if o.b.isImm then [⟨g, relTarget x o, .flagC⟩] else registerMoves x.t o.b g .flagC
  transfer x s link (taken ++ [fallMove x g])

/-- RET (R116). -/
def retBody (o : Op) (x : Env) (s : State) : Res :=
  let g := x.t.selected o.guard
  transfer x s (fun _ t => t) (pairMoves x.t o.b g .any ++ [fallMove x g])

/-- The pending loads of exited lanes are discarded, and no other result (R117). Tag bytes belong to no lane: those of a pending
LDB or LDSC arrive even where every lane of their block has exited (log entry 88). -/
def dropExited (g : Lanes) (late : List Late) : List Late :=
  late.map (fun p => if !p.load then p else { p with v := p.v.filter (fun c => !hasLane g (c.1 % 128)) })

/-- The lanes that EXIT ends (R117). -/
def Troupe.exitLanes (t : Troupe) (g : Lanes) : Troupe :=
  { t with
    exited := t.exited ||| g
    late := dropExited g t.late
    frontier := match t.frontier with
      | e :: es => { e with mask := e.mask &&& ~~~g } :: es
      | [] => [] }

/-- EXIT; with the troupe's last lane it leaves its act (12 R274, R275). Where it is the last word of its block and the header
after it fails, the lanes of G have exited and the trap is that of the lanes of N alone (R90). -/
def exitBody (o : Op) (x : Env) (s : State) : Res :=
  let t := x.t.exitLanes (x.t.selected o.guard)
  let s1 := s.setTroupe x.r t
  match s.fallCheck x (fallLanes 0x005 o x) with
  | .bad tr => .trap s1 tr
  | _ => .done (if t.live = 0 then s1.modBlock x.r.cluster x.r.block (fun b => b.troupeExits x.r.troupe) else s1)

/-- The issuing entry yields to every other entry (R27): each that does not yet owe a run to an earlier YIELD owes one to
this. -/
def Troupe.yieldEntry (t : Troupe) : Troupe :=
  let n := nextYield t.frontier
  { t with frontier := match t.frontier with
      | e :: es => { e with yielded := n, owes := 0 } :: es.map (fun f => if f.owes = 0 then { f with owes := n } else f)
      | [] => [] }

/-- YIELD (R118). -/
def yieldBody (o : Op) (x : Env) (s : State) : Res :=
  .done (if x.t.selected o.guard = 0 then s else s.setTroupe x.r x.t.yieldEntry)

/-- NOP (R119). -/
def nopBody (_ : Op) (_ : Env) (s : State) : Res := .done s

/-! ## Meanings -/

def execBra (o : Op) (s : State) : Host.Outcome State Fault Refusal := issueOp 0x000 (.bra o) o (braBody o) s
def execBrc (o : Op) (s : State) : Host.Outcome State Fault Refusal := issueOp 0x001 (.brc o) o (brcBody o) s
def execBrx (o : Op) (s : State) : Host.Outcome State Fault Refusal := issueOp 0x002 (.brx o) o (brxBody o) s
def execCall (o : Op) (s : State) : Host.Outcome State Fault Refusal := issueOp 0x003 (.call o) o (callBody o) s
def execRet (o : Op) (s : State) : Host.Outcome State Fault Refusal := issueOp 0x004 (.ret o) o (retBody o) s
def execExit (o : Op) (s : State) : Host.Outcome State Fault Refusal := issueOp 0x005 (.exit o) o (exitBody o) s
def execYieldRun (o : Op) (s : State) : Host.Outcome State Fault Refusal := issueOp 0x006 (.yieldRun o) o (yieldBody o) s
def execNop (o : Op) (s : State) : Host.Outcome State Fault Refusal := issueOp 0x007 (.nop o) o (nopBody o) s

end Sys2Proof.Machine
end

