-- ==== Sys2Proof/Machine/CrossLane.lean ====
section
/-! DEFINITION. The cross-lane class 0x7 (07 R166 to R177). -/

namespace Sys2Proof.Machine

/-- The v results of a cross-lane op: late results (R177). -/
def Troupe.laneResult (t : Troupe) (o : Op) (wide : Bool) (f : Nat → Nat) : Troupe :=
  t.produceLateV false o.w o.dst.toNat (t.selected o.guard) (resultRegs wide (tabulate t.width f)) []

/-- A moved value (R169, R170): A of the source lane when it is a selected lane of the troupe, the reader's own otherwise. -/
def movedValue (w : Nat) (sel : Lanes) (a : Nat → Nat) (l : Nat) (src : Int) : Nat :=
  if 0 ≤ src && src < w && hasLane sel src.toNat then a src.toNat else a l

/-- SHFL's source lane (R170). -/
def shflLane (m l b : Nat) : Int :=
  match m with
  | 0 => b
  | 1 => (l : Int) - b
  | 2 => (l : Int) + b
  | _ => ((l ^^^ b : Nat) : Int)

def shflBody (o : Op) (x : Env) (s : State) : Res :=
  let t := x.t
  let sel := t.selected o.guard
  let a := tabulate t.width (fun l => t.operand 6 o o.a l)
  .done (s.setTroupe x.r (t.laneResult o false (fun l =>
    movedValue t.width sel a l (shflLane (fnVariant o.c % 4) l (t.operand 6 o o.b l)))))

/-- PERM's source lane (R171). -/
def permLane (m w n l : Nat) : Nat :=
  match m with
  | 0 => (l + n) % w
  | 1 => w - 1 - l
  | 2 => if l % 2 = 0 then l / 2 else w / 2 + (l - 1) / 2
  | _ => if l < w / 2 then 2 * l else 2 * (l - w / 2) + 1

def permBody (o : Op) (x : Env) (s : State) : Res :=
  let t := x.t
  let sel := t.selected o.guard
  let m := fnVariant o.c % 4
  let n := if m = 0 then t.operand 6 o o.b 0 % t.width else 0
  let a := tabulate t.width (fun l => t.operand 6 o o.a l)
  .done (s.setTroupe x.r (t.laneResult o false (fun l => movedValue t.width sel a l (permLane m t.width n l))))

/-- VOTE (R172) of the predicate `c` over the selected lanes. -/
def voteValue (m : Nat) (sel c : Lanes) : Bool :=
  match m with
  | 0 => sel &&& c ≠ 0
  | 1 => sel &&& ~~~c = 0
  | _ => sel &&& c = 0 || sel &&& ~~~c = 0

def voteBody (o : Op) (x : Env) (s : State) : Res :=
  let v := voteValue (fnVariant o.c) (x.t.selected o.guard) (x.t.predSrc o.a)
  .done (s.setTroupe x.r (x.t.setP o o.dst.toNat (if v then lanesBelow x.t.width else 0)))

/-- BALLOT (R172). -/
def ballotBody (o : Op) (x : Env) (s : State) : Res :=
  let sel := x.t.selected o.guard
  let m := sel &&& x.t.predSrc o.a
  let half : DWord := if fnVariant o.c = 1 then m.extractLsb' 64 64 else m.extractLsb' 0 64
  .done (s.setTroupe x.r (x.t.produceLateS false false o.w (sel ≠ 0) o.dst.toNat
    [half.extractLsb' 0 32, half.extractLsb' 32 32]))

/-- The selected lanes whose value equals that of lane `l`. -/
def sameValue (w : Nat) (sel : Lanes) (a : Nat → Nat) (l : Nat) : Lanes := maskWhere w (fun i => hasLane sel i && a i = a l)

/-- MATCH (R173). -/
def matchBody (o : Op) (x : Env) (s : State) : Res :=
  let t := x.t
  let sel := t.selected o.guard
  let a := tabulate t.width (fun l => t.operand 6 o o.a l)
  if fnVariant o.c = 1 then
    let v := sameValue t.width sel a (lowestLane sel) = sel
    .done (s.setTroupe x.r (t.setP o o.dst.toNat (if v then lanesBelow t.width else 0)))
  else
    .done (s.setTroupe x.r (t.laneResult o true (fun l =>
      if hasLane sel l then ((sameValue t.width sel a l).extractLsb' (64 * (l / 64)) 64).toNat else 0)))

/-- CONFL (R173): the leader, then the rank. -/
def conflBody (o : Op) (x : Env) (s : State) : Res :=
  let t := x.t
  let sel := t.selected o.guard
  let a := tabulate t.width (fun l => t.operand 6 o o.a l)
  .done (s.setTroupe x.r (t.laneResult o true (fun l =>
    if hasLane sel l then
      let m := lanesOf t.width (sameValue t.width sel a l)
      m.headD 0 + 2 ^ 32 * (m.filter (fun i => i < l)).length
    else 0)))

/-! ## SCAN and VRED -/

/-- The identity of a combination (R174). -/
def scanIdentity (ty op : Nat) : Nat :=
  match op with
  | 0 => 0
  | 1 => if ty = 5 then 0x7FFFFFFF else if ty = 6 then 0xFFFFFFFF else 0x7F800000
  | 2 => if ty = 5 then 0x80000000 else if ty = 6 then 0 else 0xFF800000
  | 3 => 0xFFFFFFFF
  | _ => 0

/-- An integer combination of two values. -/
def scanStep (ty op a b : Nat) : Nat :=
  match op with
  | 0 => (a + b) % 2 ^ 32
  | 1 => minElem ty a b
  | 2 => maxElem ty a b
  | 3 => a &&& b
  | 4 => a ||| b
  | _ => a ^^^ b

/-- The combination of the values of some lanes, in lane order (R174, R175). -/
def combine (ty op : Nat) (r : Rnd) : List Nat → Nat
  | [] => scanIdentity ty op
  | x :: xs =>
    if ty = 11 then
      match op with
      | 0 => sumF .fp32 r (x :: xs)
      | 1 => xs.foldl (minF .fp32) (quietIfNan x)
      | _ => xs.foldl (maxF .fp32) (quietIfNan x)
    else xs.foldl (scanStep ty op) x
where
  /-- A NaN code quieted (R58). -/
  quietIfNan (c : Nat) : Nat := if isNanF .fp32 c then quiet .fp32 c else c

/-- The selected lanes whose key equals that of lane `l` (R176). -/
def keyLanes (t : Troupe) (o : Op) (ty : Nat) (sel : Lanes) (l : Nat) : List Nat :=
  if fnVariant o.c / 16 = 1 then
    lanesOf t.width (sameValue t.width sel (tabulate t.width (fun i => t.operand ty o o.b i)) l)
  else lanesOf t.width sel

/-- SCAN (R174): `ex` leaves the writing lane out. -/
def scanBody (o : Op) (x : Env) (s : State) : Res :=
  let t := x.t
  let ty := tyOf 0x0E3 o
  let sel := t.selected o.guard
  let ex := fnVariant o.c / 8 % 2 = 1
  let a := tabulate t.width (fun l => t.operand ty o o.a l)
  let f (l : Nat) : Nat :=
    if hasLane sel l then
      combine ty (fnVariant o.c % 8) (t.rounding (fnRnd o.c) (t.wid l).toNat)
        (((keyLanes t o ty sel l).filter (fun i => i < l || (i = l && !ex))).map a)
    else 0
  .done (s.setTroupe x.r (t.laneResult o false f))

/-- VRED (R174). -/
def vredBody (o : Op) (x : Env) (s : State) : Res :=
  let t := x.t
  let ty := tyOf 0x0E4 o
  let sel := t.selected o.guard
  let a := tabulate t.width (fun l => t.operand ty o o.a l)
  let f (l : Nat) : Nat :=
    if hasLane sel l then
      let g := keyLanes t o ty sel l
      combine ty (fnVariant o.c % 8) (t.rounding (fnRnd o.c) (t.wid (g.headD 0)).toNat) (g.map a)
    else 0
  .done (s.setTroupe x.r (t.laneResult o false f))

/-! ## Meanings -/

def execShfl (o : Op) (s : State) : Host.Outcome State Fault Refusal := issueOp 0x0E0 (.shfl o) o (shflBody o) s
def execVote (o : Op) (s : State) : Host.Outcome State Fault Refusal := issueOp 0x0E1 (.vote o) o (voteBody o) s
def execBallot (o : Op) (s : State) : Host.Outcome State Fault Refusal := issueOp 0x0E2 (.ballot o) o (ballotBody o) s
def execScan (o : Op) (s : State) : Host.Outcome State Fault Refusal := issueOp 0x0E3 (.scan o) o (scanBody o) s
def execVred (o : Op) (s : State) : Host.Outcome State Fault Refusal := issueOp 0x0E4 (.vred o) o (vredBody o) s
def execConfl (o : Op) (s : State) : Host.Outcome State Fault Refusal := issueOp 0x0E5 (.confl o) o (conflBody o) s
def execMatchLanes (o : Op) (s : State) : Host.Outcome State Fault Refusal :=
  issueOp 0x0E6 (.matchLanes o) o (matchBody o) s
def execPerm (o : Op) (s : State) : Host.Outcome State Fault Refusal := issueOp 0x0E7 (.perm o) o (permBody o) s

end Sys2Proof.Machine
end

