-- ==== Sys2Proof/Machine/Recording.lean ====
section
/-! DEFINITION. Recording and replay (18 R411, R412). The log is held as the moves made since a checkpoint: with the checkpoint
they determine the run, and with it every order that R411 names; each takes its place in the host's log buffer (log entry
44). -/

namespace Sys2Proof.Machine

namespace State

/-- Instructions that a launch has retired since it was recorded first. -/
def retiredBy (s : State) (id : Nat) (la : Launch) : Nat :=
  s.clusters.foldl (fun n e => if e.2.launch = id then n + clusterRetired e.2 else n) ((la.record.map (·.gone)).getD 0)

/-- The clusters of a launch. -/
def clustersOf (s : State) (id : Nat) : List (Nat × Cluster) := s.clusters.filter (fun e => e.2.launch = id)

/-- The troupes of a launch stop at their instruction boundaries without leaving their cores (R406, R411). -/
def holdLaunch (s : State) (id : Nat) (f : Troupe → Troupe) : State :=
  let mine (c : Nat) : Bool := ((s.cluster? c).map (fun cl => decide (cl.launch = id))).getD false
  let hold (cl : Cluster) : Cluster :=
    if cl.launch = id && cl.state = .resident then { cl with blocks := cl.blocks.map (fun b => { b with troupes := b.troupes.map f }) }
    else cl
  { s with
    slots := s.slots.filter (fun e => !mine e.2.cluster)
    clusters := s.clusters.map (fun e => (e.1, hold e.2)) }

/-- The cores on which a launch has blocks. -/
def coresOf (s : State) (id : Nat) : List Nat := uniq ((s.clustersOf id).flatMap (fun e => e.2.blocks.map (·.core)))

/-- The counts and queues of the module. -/
def setting (s : State) : Setting := ⟨s.clk, s.seq, s.free, s.nextId, s.pagerSeq, s.ack, s.arrivals, s.lq⟩

/-- The module with other counts and queues. -/
def withSetting (s : State) (x : Setting) : State :=
  { s with clk := x.clk, seq := x.seq, free := x.free, nextId := x.nextId, pagerSeq := x.pagerSeq, ack := x.ack
           arrivals := x.arrivals, lq := x.lq }

/-- The bytes of memory that differ between two states. -/
def changed (s t : State) : List Nat :=
  uniq (((s.mem ++ t.mem).map (·.1)).filter (fun k => s.rdByte k ≠ t.rdByte k))

/-- The last checkpoint of a launch, for each launch: those to which a move is added, with the bytes it changed. -/
def addMove (m : LogMove) (concerned : List Nat) : List Checkpoint → List Checkpoint
  | [] => []
  | k :: ks =>
    let rest := addMove m concerned ks
    if concerned.contains k.launch && !rest.any (fun j => j.launch = k.launch) then
      { k with moves := k.moves ++ [m], touched := m.wrote.foldl (fun t a => sset false t a true) k.touched } :: rest
    else k :: rest

/-- The context save of every cluster of a launch, which resume in place, as at a placement with empty L1 caches. -/
def saveInPlace (s : State) (id : Nat) : State :=
  (s.coresOf id).foldl flushInvalCore (s.holdLaunch id (fun t => resumeTroupe (saveTroupe (stopTroupeAt t))))

/-- RECORD_CHECKPOINT: the save, which is a move of the launch itself: in a replay from an earlier checkpoint it is made again. -/
def checkpoint (s : State) (id : Nat) : State :=
  match (s.launch? id).bind (fun la => la.record.map (fun r => (la, r))) with
  | none => s
  | some (la, r) =>
    let n := s.retiredBy id la
    let s1 := s.saveInPlace id
    match s.replay with
    | some p => if p.launch = id then s1 else s
    | none =>
      if r.full || n < r.since + r.interval || !(s.clustersOf id).all (fun e => s.drained e.1 e.2) then s
      else
        let s2 := s1.modLaunch id (fun la => { la with record := some { r with since := n } })
        { s2 with checkpoints := addMove ⟨.ev (.recordCheckpoint id), s.setting, s.changed s1⟩ [id] s2.checkpoints
          ++ [⟨id, (s2.launch? id).getD la, s2.clustersOf id, s2.mem, s2.side,
            s2.poison, s2.sidePoison, s2.frames, s2.claims, s2.staging, s2.debugged la.ctx, s2.clk, s2.seq, s2.free, [], []⟩] }

/-- Bytes of an entry of the log, and whether a log buffer has no room for another (log entry 44). -/
def logEntryBytes : Nat := 16
def noLogRoom (r : Recording) : Bool := r.size < r.used + logEntryBytes

/-- LOG_BUFFER_FULL: the launch parks until the host supplies space (R411). -/
def logFull (s : State) (id : Nat) : State :=
  match s.launch? id with
  | none => s
  | some la =>
    match la.record with
    | none => s
    | some r =>
      if r.full || !noLogRoom r then s else
      (s.holdLaunch id stopTroupeAt).modLaunch id (fun la => { la with record := some { r with full := true } })

/-! ## The log -/

/-- The troupe that is parked with a report of this number, its report and launch; a saved cluster takes no answer (R409). -/
def parkedWith (s : State) (report : Word) : Option (TRef × Report × Nat) :=
  s.clusters.findSome? (fun e =>
    if e.2.state = .saved then none
    else (List.range e.2.blocks.length).findSome? (fun i =>
      ((e.2.blocks[i]?).map (·.troupes)).getD [] |>.zipIdx.findSome? (fun t =>
        match t.1.status with
        | .parked rep => if rep.seq = report then some (⟨e.1, i, t.2⟩, rep, e.2.launch) else none
        | _ => none)))

/-- The cluster that an event is about. -/
def eventCluster (s : State) (i : Instr) : Option Nat :=
  match i with
  | .lateResult r | .sfuResult r | .sfuEntryFree r | .missStatusEntryFree r | .mfenceRelease r | .batchQueueSlotFree r
  | .mwaitRelease r | .copyQueueEntryFree r | .tbwaitRelease r | .barwRelease r | .sleepExpiry r | .launchQueueRoom r
  | .debuggerResume r _ => some r.cluster
  | .matrixStep a | .sparseStep a | .acczPerform a | .accstPerform a | .patldPerform a => some a.cluster
  | .turnSwap c _ _ | .preemption c | .contextSave c | .blockExitPoint c _ | .clusterRetirement c
  | .uncorrectableError (.arenaWord c _ _) | .uncorrectableError (.tileElement c _ _ _ _)
  | .uncorrectableError (.patternByte c _ _) => some c
  | .copyUnitSettled core copy _ | .copyRemoteFault core copy _ =>
    (s.copies.find? (fun q => q.core = core && q.id = copy)).map (·.cluster)
  | .issueSlotGrant core q => (bestBid (s.bids core q)).map (·.r.cluster)
  | .pagerResolved _ rep | .pagerDeliver _ rep => (s.parkedWith rep).map (·.1.cluster)
  | _ => none

/-- The launch whose cluster a placement would place. -/
def placedLaunch (s : State) : Option Nat :=
  if s.overLimit || s.reduceDue then none else ((s.choosePlace (considered s.candidates)).2).map (·.1.id)

/-- Whether a staging slot belongs to a binding of a launch. -/
def ownsSlot (s : State) (la : Launch) (slot : Nat) : Bool :=
  la.bindings.any (fun b => b.reserved && ((b.txbase ≤ slot && slot < b.txbase + b.ent.nchunk)
    || (b.rxbase ≤ slot && slot < b.rxbase + b.peerCount * b.ent.ownedChunks (b.rankOf s.member))))

/-- Whether a move is one of a launch: a word of its troupes, an event of its clusters, bindings or cores, a placement of its
clusters, or an answer of its pager, its debugger or its host. -/
def moveOf (s : State) (id : Nat) (a : Act) : Bool :=
  let mine (c : Nat) : Bool := ((s.cluster? c).map (fun cl => decide (cl.launch = id))).getD false
  match a with
  | .word core q => ((s.issuerAt core q).map (fun r => mine r.cluster)).getD false
  | .ev i =>
    ((s.eventCluster i).map mine).getD false || match s.launch? id with
      | none => false
      | some la =>
        match i with
        | .lineFill core _ => (s.coresOf id).contains core
        | .clusterPlacement => s.placedLaunch = some id
        | .chunkFire b _ | .reduceDispatch b _ | .reduceResult b _ | .bindingComplete b | .fabricWriteFailure b => b.launch = id
        | .readyNotify n | .contributionNotify n | .resultNotify n => ((s.reservedFor n.cid).map (fun r => decide (r.launch = id))).getD false
        | .remoteModuleAccess (.slotStore slot _ _) => s.ownsSlot la slot
        | .preempt _ arrival => la.arrival = arrival
        | .debugAttach h | .debugDetach h => h.ctx = la.ctx
        | _ => false

/-- The troupe that a move is named by (R411): the one that issues, or that an event is about; for an engine's work the troupe
that issued it, for a turn the first that has arrived. -/
def moveTroupe (s : State) (a : Act) : Option TRef :=
  match a with
  | .word core q => s.issuerAt core q
  | .ev (.lateResult r) | .ev (.sfuResult r) | .ev (.sfuEntryFree r) | .ev (.missStatusEntryFree r) | .ev (.mfenceRelease r)
  | .ev (.batchQueueSlotFree r) | .ev (.mwaitRelease r) | .ev (.copyQueueEntryFree r) | .ev (.tbwaitRelease r)
  | .ev (.barwRelease r) | .ev (.sleepExpiry r) | .ev (.launchQueueRoom r) | .ev (.debuggerResume r _) => some r
  | .ev (.matrixStep k) | .ev (.sparseStep k) | .ev (.acczPerform k) | .ev (.accstPerform k) | .ev (.patldPerform k) =>
    ((s.block? k.cluster k.block).bind (fun b => (b.acts[k.act]?).bind (fun a => a.members.head?))).map
      (fun m => ⟨k.cluster, k.block, m.troupe⟩)
  | .ev (.copyUnitSettled core id _) | .ev (.copyRemoteFault core id _) =>
    (s.copies.find? (fun q => q.core = core && q.id = id)).map (fun q => ⟨q.cluster, q.block, q.troupe⟩)
  | .ev (.turnSwap c i k) =>
    ((s.block? c i).bind (fun b => (b.turns[k]?).bind (fun u => (troupesOf u.arrived).head?))).map (fun t => ⟨c, i, t⟩)
  | .ev (.issueSlotGrant core q) => (bestBid (s.bids core q)).map (·.r)
  | .ev (.pagerResolved _ rep) | .ev (.pagerDeliver _ rep) => (s.parkedWith rep).map (·.1)
  | .ev _ => none

/-- The entry of a move in the log buffer: its troupe and that troupe's retired count, or for an event of no troupe a mark and
the place in the order of issue (log entry 44). -/
def logEntry (s : State) (a : Act) : List Byte :=
  match s.moveTroupe a with
  | some r => bytesOf 8 (r.cluster * 2 ^ 16 + r.block * 2 ^ 8 + r.troupe) ++ bytesOf 8 (((s.troupe? r).map (·.retiredInsns)).getD 0)
  | none => bytesOf 8 (2 ^ 64 - 1) ++ bytesOf 8 s.seq

/-- A launch's log takes entries: what the host's buffer has no room for waits until there is space. -/
def logInto (bytes : List Byte) (s : State) (id : Nat) : State :=
  match (s.launch? id).bind (·.record) with
  | none => s
  | some r =>
    let n := min bytes.length ((r.size - r.used) / logEntryBytes * logEntryBytes)
    (if n = 0 then s else s.wrList (hostBase + r.addr + r.used) (bytes.take n)).modLaunch id (fun la =>
      { la with record := some { r with used := r.used + n, unsent := r.unsent ++ bytes.drop n } })

/-- The coherence order of the writes to a unit of memory since a checkpoint (R411): the moves that changed one of its `n` bytes
at key `k`, in the order in which they were made. -/
def coherenceOf (c : Checkpoint) (k n : Nat) : List LogMove := c.moves.filter (fun m => m.wrote.any (fun a => k ≤ a && a < k + n))

/-- Logs a move that was made in `s`. -/
def logMove (s : State) (a : Act) (t : State) : State :=
  if t.checkpoints.isEmpty || s.replay.isSome then t
  else
    let ids := (uniq (t.checkpoints.map (·.launch))).filter (fun id => s.moveOf id a)
    if ids.isEmpty then t
    else ids.foldl (logInto (s.logEntry a)) { t with checkpoints := addMove ⟨a, s.setting, s.changed t⟩ ids t.checkpoints }

/-! ## Replay (R412) -/

/-- Claim queues of a launch as one list has them, and the others as another has them. -/
def ownClaims (id : Nat) (own other : List Claim) : List Claim :=
  List.zipWith (fun a b => if a.owners.contains id || b.owners.contains id then a else b) own other

/-- A debugger of a context attached or not, as a checkpoint found it. -/
def withDebugger (s : State) (ctx : Nat) (on : Bool) : List Ctx :=
  s.ctxs.map (fun c => if c.num = ctx then { c with debugger := on } else c)

/-- REPLAY: the checkpoint is restored, and what comes next are the moves logged since, those after later checkpoints too; no
other launch issues meanwhile. -/
def replayFrom (s : State) (id k : Nat) (upTo : Option (TRef × Nat)) : State :=
  let mine := s.checkpoints.filter (fun c => c.launch = id)
  let moves := (mine.drop k).flatMap (·.moves)
  let touched := (mine.drop k).foldl (fun t c => c.touched.foldl (fun t e => sset false t e.1 e.2) t) []
  match mine[k]? with
  | none => s
  | some c =>
    if (s.launch? id).isNone || s.replay.isSome then s
    else
      let others := s.clusters.filter (fun e => e.2.launch ≠ id)
      let s1 := (s.coresOf id ++ uniq (c.clusters.flatMap (fun e => e.2.blocks.map (·.core)))).foldl flushInvalCore s
      let s2 : State := { s1 with
        clusters := others ++ c.clusters
        launches := aset s1.launches id { c.la with record := ((s1.launch? id).bind (·.record)) }
        ctxs := s1.withDebugger c.la.ctx c.debugger
        slots := []
        copies := s1.copies.filter (fun q => others.any (fun e => e.1 = q.cluster)) }
      if moves.isEmpty then { s2 with
        mem := touched.foldl (fun m e => sset emptyByte m e.1 (sget emptyByte c.mem e.1)) s2.mem
        claims := ownClaims id c.claims s2.claims }
      else { s2 with
        mem := c.mem
        side := c.side
        poison := c.poison
        sidePoison := c.sidePoison
        frames := c.frames
        claims := ownClaims id c.claims s2.claims
        staging := c.staging
        clk := c.clk
        seq := c.seq
        free := c.free
        replay := some ⟨id, moves, upTo, touched, s1.mem, s1.side, s1.poison, s1.sidePoison, s1.frames, s1.claims, s1.staging,
          s1.setting⟩ }

/-- What stands outside the launch is not written again (R412): host and peer memory, messages, responses and the launch
queues. -/
def keepOutside (s t : State) : State :=
  { t with
    mem := (t.mem.filter (fun e => e.1 < 2 ^ 52)) ++ (s.mem.filter (fun e => 2 ^ 52 ≤ e.1))
    responses := s.responses
    link := s.link
    devSeq := s.devSeq
    outbox := s.outbox }

/-- Whether a replay has reached the retired count at which it stops. -/
def replayDone (p : Replay) (t : State) : Bool :=
  p.todo.length ≤ 1 || match p.upTo with
    | some (r, n) => ((t.troupe? r).map (fun q => decide (n ≤ q.retiredInsns))).getD false
    | none => false

/-- A sparse map that has `own` at the keys that `mine` names and `other` elsewhere. -/
def blend {α : Type} [DecidableEq α] (dflt : α) (mine : Nat → Bool) (own other : List (Nat × α)) : List (Nat × α) :=
  (own.filter (fun e => mine e.1)).foldl (fun m e => sset dflt m e.1 e.2) (other.filter (fun e => !mine e.1))

/-- The end of a replay: the bytes that are the launch's stand as the replay left them, with the sidebands and poison of their
lines, and everything else as it was before (R412). -/
def endReplay (p : Replay) (t : State) : State :=
  let line (k : Nat) : Bool := p.touched.any (fun e => e.1 / 256 = k)
  let owns (k : Nat) : Bool := ((t.launch? p.launch).map (fun la => t.ownsSlot la (k / slotBytes))).getD false
  let x := p.found
  { t.withSetting { x with clk := max t.clk x.clk, seq := max t.seq x.seq, free := max t.free x.free
                           nextId := max t.nextId x.nextId } with
    mem := p.touched.foldl (fun m e => sset emptyByte m e.1 (t.rdByte e.1)) p.mem
    side := blend 0 (fun k => line (k / 16)) t.side p.side
    poison := blend none (fun k => line (k / 4)) t.poison p.poison
    sidePoison := blend false (fun k => line (k / 4)) t.sidePoison p.sidePoison
    frames := p.frames
    claims := ownClaims p.launch t.claims p.claims
    staging := blend 0 owns t.staging p.staging
    replay := none }

/-- What a replay does after each of its moves, made in `s`: after the last, the module goes on with its own counts. -/
def afterReplay (s t : State) : State :=
  match s.replay with
  | none => t
  | some p =>
    let t1 := s.keepOutside t
    if replayDone p t1 then endReplay p t1 else { t1 with replay := some { p with todo := p.todo.tail } }

end State

/-! ## Meanings -/

/-- RECORD_CHECKPOINT. -/
def execRecordCheckpoint (launch : Nat) (s : State) : Host.Outcome State Fault Refusal := .next (s.checkpoint launch)

/-- LOG_BUFFER_FULL. -/
def execLogBufferFull (launch : Nat) (s : State) : Host.Outcome State Fault Refusal := .next (s.logFull launch)

/-- REPLAY. -/
def execReplay (launch checkpoint : Nat) (upTo : Option (TRef × Nat)) (s : State) : Host.Outcome State Fault Refusal :=
  .next (s.replayFrom launch checkpoint upTo)

end Sys2Proof.Machine
end

