-- ==== Sys2Proof/Machine/Objects.lean ====
section
/-! DEFINITION. The loading of ZCO objects (22 R439 to R444): parts in order, the signed header, the chain of digests, the
translation of functions into their frames, and the code cache. -/

namespace Sys2Proof.Machine

/-! ## Frames and the code cache (R443, R444) -/

/-- Entries of the code cache. -/
def codeCacheLimit : Nat := 4096

namespace State

/-- Marks frames. -/
def markFrames (s : State) (f : FrameState) (ks : List Nat) : State :=
  { s with frames := ks.foldl (fun m k => sset FrameState.unverified m k f) s.frames }

/-- Evicts the entries that `sel` names: their frames count as not written by a verified load. -/
def evict (s : State) (sel : CodeEntry → Bool) : State :=
  { s.markFrames .unverified ((s.codeCache.filter sel).flatMap (·.frames)) with codeCache := s.codeCache.filter (fun e => !sel e) }

/-- Records an object in the cache; a full one loses its oldest entry. An object that has an entry already, since another load of
it was complete first, adds its frames to that entry. -/
def cacheObject (s : State) (e : CodeEntry) : State :=
  if s.codeCache.any (fun x => x.key = e.key) then
    { s with codeCache := s.codeCache.map (fun x => if x.key = e.key then { x with frames := x.frames ++ e.frames } else x) }
  else
    let s1 : State := if s.codeCache.length < codeCacheLimit then s else
      match s.codeCache with
      | x :: _ => s.evict (fun y => y.key = x.key)
      | [] => s
    { s1 with codeCache := s1.codeCache ++ [e] }

/-- The frame that receives the code at an address of a context: a mapped page with X = 1 (R440). -/
def codeKey (s : State) (ctx va : Nat) : Option Nat :=
  match s.translate coreTotal ctx .fetch va (pageChoice va) with
  | .ok (_, k) => some k
  | .error _ => none

/-! ## Translation (R439, R442) -/

/-- Functions that are not translated: those without a scalar section, and those with a relocation of the reserved kinds 2
and 3 (R442; log entry 45). -/
def badFunc (o : Obj) (f : Obj.Func) : Bool := f.slen = 0 || (o.relocs f).any (fun r => 2 ≤ r.kind)

/-- Whether the sections of a function lie in the verified image. -/
def funcReady (o : Obj) (f : Obj.Func) : Bool := f.soff + f.slen ≤ o.verified && f.roff + f.rlen ≤ o.verified

/-- The pieces of 256 KiB of an object's code. -/
def codePieces (o : Obj) : List Nat := List.range ((o.codeLen + 2 ^ 18 - 1) / 2 ^ 18)

/-- The frame of a piece of an object's code. -/
def pieceFrame (s : State) (o : Obj) (i : Nat) : Option Nat := (s.codeKey o.ctx (o.codeva + i * 2 ^ 18)).map (· / 2 ^ 18)

/-- The frames of an object's code. -/
def codeFrames (s : State) (o : Obj) : List Nat := (codePieces o).filterMap (s.pieceFrame o)

/-- The functions with code in a piece. -/
def inPiece (o : Obj) (i j : Nat) : Bool :=
  let a := o.codeOff j
  a < (i + 1) * 2 ^ 18 && i * 2 ^ 18 < a + (o.func j).slen

/-- What a piece's frame becomes from `old` (R444): pending while a function with code in it is still to come, then verified; a
frame into which the load writes nothing stays as it was, and waits no longer once the load is complete. From the second segment
on only a pending frame changes: one that a store has written since stays as it is. -/
def pieceState (o : Obj) (i : Nat) (old : FrameState) : FrameState :=
  let fs := (List.range o.funcs.length).filter (fun j => inPiece o i j && !badFunc o (o.func j))
  let fresh : Bool := o.seg ≤ 1 || old = .pending
  if !o.loaded && fs.any (fun j => !o.done.contains j) then (if fresh then .pending else old)
  else if fs.any o.done.contains then (if fresh then .verified else old)
  else if old = .pending && !fs.isEmpty then .unverified
  else old

/-- The code of function `i` is written to its place. -/
def writeFunc (s : State) (o : Obj) (i : Nat) : State :=
  let bytes := (o.code (o.func i)).flatMap (fun w => bytesOf 8 w.toNat)
  let at_ := o.codeva + o.codeOff i
  s.wrBytes ((List.range bytes.length).zipWith (fun k b => (((s.codeKey o.ctx (at_ + k)).getD 0), b)) bytes)

/-- Replaces an object. -/
def setObject (s : State) (o : Obj) : State :=
  { s with objects := s.objects.map (fun p => if p.handle = o.handle && p.ctx = o.ctx then o else p) }

/-- Drops an object. -/
def dropObject (s : State) (o : Obj) : State :=
  { s with objects := s.objects.filter (fun p => !(p.handle = o.handle && p.ctx = o.ctx)) }

/-- The functions that can be translated now. -/
def dueFuncs (o : Obj) : List Nat :=
  (List.range o.funcs.length).filter (fun i => !o.done.contains i && !badFunc o (o.func i) && funcReady o (o.func i))

/-- Translates what can be translated, and marks the frames of the object's pieces (R444). -/
def translateFuncs (s : State) (o : Obj) : State :=
  let due := dueFuncs o
  let s1 := due.foldl (fun s i => s.writeFunc o i) s
  let o1 := { o with done := o.done ++ due }
  ((codePieces o1).foldl (fun t i =>
    match s.pieceFrame o1 i with
    | some k => t.markFrames (pieceState o1 i (sget FrameState.unverified s.frames k)) [k]
    | none => t) s1).setObject o1

/-- The frames into which a load that has failed wrote count as not written by a verified load; those of a cached object belong to
its entry (R443, R444). -/
def loseFrames (s : State) (o : Obj) : State := if o.cached || o.done.isEmpty && o.segEnds.isEmpty then s else s.markFrames .unverified (s.codeFrames o)

/-! ## Segments (R439, R440) -/

/-- The body of the segment that has just been completed. -/
def segBody (o : Obj) : List Byte := if o.seg = 0 then o.buf.drop headerBytes else o.buf

/-- Whether the segment expected is the last one. -/
def lastSeg (o : Obj) : Bool := o.nseg ≤ o.seg + 1

/-- A load ends with a STATUS code: the object is dropped. -/
def endLoad (s : State) (o : Obj) (seq : Word) (code : Nat) : State := ((s.loseFrames o).dropObject o).status o.ctx seq code

/-- A segment is complete (R439): its digest is checked against the one carried before it; then its body joins the image,
and functions are translated. -/
def finishSegment (s : State) (o : Obj) (seq : Word) : State :=
  let body := segBody o
  if o.header.isEmpty then s.endLoad o seq 1
  else if Sha.sha384 body ≠ o.digest then ((s.loseFrames o).dropObject o).discard o.ctx
  else if !lastSeg o && body.length < 48 then s.endLoad o seq 1
  else
    let keep := if lastSeg o then body else body.take (body.length - 48)
    let o1 := { o with
      seg := o.seg + 1
      buf := []
      digest := if lastSeg o then [] else body.drop (body.length - 48)
      image := o.image ++ keep
      segEnds := o.segEnds ++ [o.image.length + keep.length]
      loaded := lastSeg o }
    if o1.funcs.isEmpty || !o1.funcs.all Obj.Func.ok || (!o1.cached && (codePieces o1).any (fun i => (s.pieceFrame o1 i).isNone)) then s.endLoad o seq 1
    else
      let s1 := if o1.cached then s.setObject o1 else s.translateFuncs o1
      let refused := if o.seg = 0 then (o1.funcs.filter (fun f => f.slen = 0)).length else 0
      let s2 := (List.range refused).foldl (fun s _ => s.status o.ctx seq 18) s1
      if lastSeg o && !o1.cached then s2.cacheObject ⟨o1.key, o1.svn, true, s2.codeFrames o1⟩ else s2

/-- The header has come whole (R439, R441): signatures and SVN are checked, then a malformed one is refused. -/
def takeHeader (s : State) (o : Obj) : Except Nat Obj :=
  let o1 := { o with header := o.buf.take headerBytes }
  if !(Config.ecdsaAccepts o1.signed o1.sigE && Config.lmsAccepts o1.signed o1.sigL) then .error 16
  else if o1.svn < s.fuse then .error 17
  else if !o1.headerOk then .error 1
  else .ok { o1 with digest := o1.dig0, cached := s.codeCache.any (fun e => e.key = o1.key) }

/-- More bytes of the segment expected. -/
def feed (s : State) (o : Obj) (data : List Byte) (last : Bool) (seq : Word) : State :=
  let o1 := { o with buf := o.buf ++ data }
  let r := if o.seg = 0 && o.header.isEmpty && headerBytes ≤ o1.buf.length then s.takeHeader o1 else .ok o1
  match r with
  | .error code =>
    let key := Sha.sha384 ((o1.buf.take headerBytes).take 256)
    (if code = 1 then s else s.evict (fun e => e.key = key)).endLoad o seq code
  | .ok o2 => if last then (s.setObject o2).finishSegment o2 seq else s.setObject o2

/-- An object that a first part opens. -/
def openObject (ctx : Nat) (p : ObjectPart) : Obj :=
  { handle := p.handle, ctx := ctx, codeva := p.codeva, seg := 0, buf := [], digest := [], header := [], image := []
    segEnds := [], done := [], cached := false, loaded := false }

/-- OBJECT_LOAD as an accepted command: parts come in order (R440). -/
def loadPart (s : State) (ctx : Nat) (seq : Word) (p : ObjectPart) : State :=
  match s.objects.find? (fun o => o.handle = p.handle && o.ctx = ctx) with
  | none =>
    if p.seg ≠ 0 || p.off ≠ 0 || p.codeva % 2 ^ 18 ≠ 0 || 2 ^ 57 ≤ p.codeva then s.status ctx seq 1
    else
      let o := openObject ctx p
      { s with objects := s.objects ++ [o] }.feed o p.data p.last seq
  | some o =>
    if o.loaded || p.seg ≠ o.seg || p.off ≠ o.buf.length || p.codeva ≠ 0 then s.status ctx seq 1
    else s.feed o p.data p.last seq

end State

end Sys2Proof.Machine
end

