-- ==== Sys2Proof/Machine/HostCommands.lean ====
section
/-! DEFINITION. Host commands over the Ceano link (22 R430 to R434, R446, R447; 18 R396, R403, R406, R411): acceptance in
sequence, and the effect of each kind. -/

namespace Sys2Proof.Machine

namespace State

/-! ## Acceptance (R430, R431) -/

/-- A command that the link can take next: in sequence, its header well formed, and no LAUNCH held before it. -/
def takes (s : State) (h : Cmd) : Bool := h.seq = s.ack + 1 && h.ctx < 256 && h.len ≤ 64 && s.heldLaunch.isNone

/-- A command that comes next in sequence behind a held LAUNCH, and behind those that wait already (R431). -/
def behind (s : State) (h : Cmd) : Bool :=
  let n := bit s.heldLaunch.isSome + s.waiting.length
  n ≠ 0 && h.seq = s.ack + 1 + BitVec.ofNat 32 n && h.ctx < 256 && h.len ≤ 64

/-- A command `i` that is not accepted now: it waits behind a held LAUNCH, or is dropped. -/
def turnAway (s : State) (i : Instr) (h : Cmd) : State :=
  if s.behind h then { s with waiting := s.waiting ++ [(h.seq, i)] } else s

/-- A command is accepted. -/
def accept (s : State) (h : Cmd) : State :=
  { s with
    ack := h.seq
    waiting := s.waiting.filter (fun w => w.1 ≠ h.seq)
    ctxs := s.ctxs.map (fun c => if c.num = h.ctx then { c with last := h.seq } else c) }

/-- The command `i` with a payload of `len` units; `needs` says that its kind requires the context to exist. Another length or a
missing context is accepted and answered with STATUS code 1 (R434). -/
def command (s : State) (i : Instr) (h : Cmd) (len : Nat) (needs : Bool) (f : State → State) : State :=
  if !s.takes h then s.turnAway i h
  else
    let s1 := s.accept h
    if h.len ≠ len || (needs && (s1.ctx? h.ctx).isNone) then s1.status h.ctx h.seq 1 else f s1

/-! ## LAUNCH (R329, R431, R434, R449) -/

/-- The units of a LAUNCH command: a queue number at byte 0, the record at byte 64. -/
def launchUnits : Nat := 5

/-- Whether a LAUNCH command must be held: its queue is full, or the coolant is over its limit. -/
def holdsLaunch (s : State) (n : Nat) : Bool := s.overLimit || hostQueueDepth ≤ (s.queue n).length

/-- A LAUNCH command that names a queue bound to its context. -/
def launchOk (s : State) (h : Cmd) (n : Nat) : Bool :=
  h.len = launchUnits && n < 12 && (s.ctx? h.ctx).isSome && (s.bound[n]?).getD none = some h.ctx

/-- An accepted LAUNCH command takes effect: the record enters its queue. -/
def hostEnqueue (s : State) (h : Cmd) (n : Nat) (record : List Byte) : State :=
  (s.accept h).enqueue n (record.take 256) h.ctx h.seq none (recBits record 94 94 = 1)

/-- A LAUNCH command that is not held: a queue that is not bound to its context is answered with STATUS code 1. -/
def takeLaunch (s : State) (h : Cmd) (n : Nat) (record : List Byte) : State :=
  if s.launchOk h n then s.hostEnqueue h n record else (s.accept h).status h.ctx h.seq 1

/-- Whether a LAUNCH command has to wait: over the coolant limit every one, else one whose queue is full (R431, R449). -/
def mustHold (s : State) (h : Cmd) (n : Nat) : Bool := s.overLimit || (s.launchOk h n && s.holdsLaunch n)

/-- HOST_LAUNCH: one that must be held, though it had waited itself, waits no more among the others. -/
def hostLaunch (s : State) (h : Cmd) (n : Nat) (record : List Byte) : State :=
  if !s.takes h then s.turnAway (.hostLaunch h n record) h
  else if s.mustHold h n then { s with heldLaunch := some (h, n, record), waiting := s.waiting.filter (fun w => w.1 ≠ h.seq) }
  else s.takeLaunch h n record

/-- HELD_LAUNCH_ACCEPT. -/
def acceptHeld (s : State) : State :=
  match s.heldLaunch with
  | none => s
  | some (h, n, record) => if s.mustHold h n then s else { s with heldLaunch := none }.takeLaunch h n record

/-! ## Contexts and queues (R434) -/

/-- CTX_CREATE: the level-1 table is PA [51:16]. -/
def createCtx (s : State) (h : Cmd) (l1 : Nat) (pager : Bool) : State :=
  if (s.ctx? h.ctx).isSome then s.status h.ctx h.seq 1
  else { s with ctxs := s.ctxs ++ [⟨h.ctx, bitsOf l1 51 16 * 2 ^ 16, pager, false, h.seq⟩] }

/-- Whether a context has launches, queued or admitted. -/
def hasLaunches (s : State) (ctx : Nat) : Bool := s.launches.any (fun e => e.2.ctx = ctx) || !(s.queuedOf ctx).isEmpty

/-- CTX_DESTROY: a load of the context that is not complete ends with it. -/
def destroyCtx (s : State) (h : Cmd) : State :=
  if s.hasLaunches h.ctx then s.status h.ctx h.seq 2
  else
    let s1 := (s.objects.filter (fun o => o.ctx = h.ctx && !o.loaded)).foldl loseFrames s
    { s1 with
      ctxs := s1.ctxs.filter (fun c => c.num ≠ h.ctx)
      bound := s1.bound.map (fun b => if b = some h.ctx then none else b)
      tlb := s1.tlb.filter (fun e => e.ctx ≠ h.ctx)
      objects := s1.objects.filter (fun o => o.ctx ≠ h.ctx) }

/-- BIND_QUEUE. -/
def bindQueue (s : State) (h : Cmd) (n : Nat) : State :=
  if 12 ≤ n then s.status h.ctx h.seq 1 else { s with bound := s.bound.set n (some h.ctx) }

/-! ## The pager's answers (18 R396) -/

/-- RESOLVED: the word is executed again for the lanes of the report. -/
def pagerResolve (s : State) (report : Word) : State :=
  match s.parkedWith report with
  | some (r, rep, _) => s.modTroupe r (fun t => { t with status := .ready, rm := some rep.lanes, waitw := 0 })
  | none => s

/-- DELIVER: the troupe enters its handler with PAGE_FAULT. -/
def pagerDeliver (s : State) (report : Word) : State :=
  match s.parkedWith report with
  | some (r, rep, l) =>
    match s.troupe? r with
    | some t =>
      let pc := match t.frontier with
        | e :: _ => e.pc
        | [] => 0
      (s.setTroupe r { t with status := .ready, waitw := 0 }).takeTrap r l pc
        (trapAt causePageFault (MemFault.tval ⟨causePageFault, rep.level, rep.va.toNat, false⟩) rep.lanes)
    | none => s
  | none => s

/-- ABORT: the context's work is discarded (22 R437). -/
def pagerAbort (s : State) (report : Word) : State :=
  match s.parkedWith report with
  | some (_, _, l) => ((s.ctxOfLaunch l).map s.discard).getD s
  | none => s

/-! ## Pre-emption and debugging (18 R403, R406) -/

/-- PREEMPT: the resident clusters of the launch with an arrival number. -/
def preemptLaunch (s : State) (arrival : Word) : State :=
  let ids := (s.launches.filter (fun e => e.2.arrival = arrival)).map (·.1)
  ((s.clusters.filter (fun e => ids.contains e.2.launch)).map (·.1)).foldl stopCluster s

/-- DEBUG: a debugger is attached to a context or detached from it. -/
def setDebugger (s : State) (ctx : Nat) (on : Bool) : State :=
  { s with ctxs := s.ctxs.map (fun c => if c.num = ctx then { c with debugger := on } else c) }

/-! ## Recording (18 R411) -/

/-- RECORD: the launches of the context without the deterministic flag are recorded (log entry 44); space in the log buffer
takes the entries that have waited for it, and lets a parked launch go on. -/
def startRecording (s : State) (ctx interval addr size : Nat) : State :=
  let ids := (s.launches.filter (fun e => e.2.ctx = ctx && !e.2.det)).map (·.1)
  let start (s : State) (id : Nat) : State :=
    s.modLaunch id (fun la => { la with record := some (match la.record with
      | some r => { r with interval := interval, addr := addr, size := size, used := 0, full := false, unsent := [] }
      | none => ⟨interval, addr, size, 0, s.retiredBy id la, 0, false, []⟩) })
  ids.foldl (fun t id =>
    let late := (((s.launch? id).bind (·.record)).map (·.unsent)).getD []
    logInto late (start t id) id) s

/-! ## READ_STATE (15 R355, R357) -/

/-- The dependence entry of a launch. -/
def dependenceEntry (la : Launch) : List Byte :=
  let x := 1 + 2 * la.state + 8 * la.cls + 32 * bit la.det + 2 ^ 8 * la.ctx + 2 ^ 16 * la.arrival.toNat
  let waits := la.waits.foldl (fun m j => m ||| 2 ^ j) 0
  bytesOf 8 x ++ bytesOf 8 waits

/-- Registers of a block's busiest quadrant (R357). -/
def busiest (r : LRec) : Nat := (r.hwTroupes / r.halves + 3) / 4 * r.halves * r.troupeRegs

/-- The cluster shape entry of a launch. -/
def shapeEntry (la : Launch) : List Byte :=
  let r := la.lrec
  bytesOf 24 (r.e2 + 2 ^ 5 * r.hwTroupes + 2 ^ 12 * busiest r + 2 ^ 30 * (r.areaBytes / 8) + 2 ^ 49 * r.tiles + 2 ^ 54 * (r.pat / 64)
    + 2 ^ 66 * la.next + 2 ^ 107 * la.done)

/-- The snapshot of a dependence entry: zeros when it is free. -/
def snapshot (s : State) (entry : Nat) : List Byte :=
  match s.launches.find? (fun e => e.2.entry = entry) with
  | some e => dependenceEntry e.2 ++ shapeEntry e.2
  | none => List.replicate 40 0

/-- The counters of a core (16 R375). -/
def coreCounters (s : State) (core : Nat) : List Byte :=
  (List.range 7).flatMap (fun i => bytesOf 8 (sget 0 s.coreCount (core * 32 + 0x10 + i)))

/-- The counters of a troupe (16 R375): in a deterministic launch all but RETIRED read 0. -/
def troupeCounters (t : Troupe) : List Byte :=
  let c := t.counters
  (c.retired :: [c.runs, c.hold, c.readyw, c.spills].map (fun n => if t.det then 0 else n)).flatMap (bytesOf 8)

/-- READ_STATE: the answer follows code 0 in a STATUS response (log entry 35). -/
def readState (s : State) (h : Cmd) (sel : Selector) : State :=
  let answer (bytes : List Byte) : State := s.respond respStatus h.ctx (bytesOf 4 h.seq.toNat ++ bytesOf 4 0 ++ bytes)
  match sel with
  | .dependence entry => if entry < 64 then answer (s.snapshot entry) else s.status h.ctx h.seq 1
  | .counters core => if core < coreTotal then answer (s.coreCounters core) else s.status h.ctx h.seq 1
  | .troupeCounters r =>
    match s.troupe? r with
    | some t => answer (troupeCounters t)
    | none => s.status h.ctx h.seq 1

/-! ## RESEND (R432) -/

/-- Sends the kept responses from number `n` onward again; one that was sent and is no longer kept is answered with GAP. -/
def resend (s : State) (n : Word) : State :=
  let age := (s.devSeq - n).toNat
  if 1 ≤ age && age ≤ s.responses.length then
    let again := (s.responses.drop (s.responses.length - age)).map (fun r => { r with ack := s.ack })
    { s with link := s.link ++ again }
  else if s.link.any (fun r => r.seq = n) then s.respond respGap 0 []
  else s

/-! ## ATTEST and FW_UPDATE (R446, R447) -/

/-- The fields of an attestation report before its signatures. -/
def report (s : State) (nonce : List Byte) : List Byte := s.measure ++ nonce ++ bytesOf 4 s.fuse ++ bytesOf 4 s.member

/-- ATTEST. -/
def attest (s : State) (ctx : Nat) (nonce : List Byte) : State :=
  let m := s.report nonce
  s.respond respAttest ctx (m ++ Config.ecdsaSign m ++ Config.lmsSign m)

/-- FW_UPDATE: an image whose signatures verify, with an SVN not below the fuse counter, is installed; code of lower SVN
is evicted (R443). -/
def updateFirmware (s : State) (svn : Nat) (image sigE sigL : List Byte) : State :=
  let m := bytesOf 4 svn ++ image
  if Config.ecdsaAccepts m sigE && Config.lmsAccepts m sigL && s.fuse ≤ svn then
    { s with fuse := svn, firmware := image }.evict (fun e => e.svn < svn)
  else s

/-- The bytes of an image segment, and whether its signatures have their lengths: with the last one come the SVN and the two
signatures (R439, R447; log entry 80). -/
def partBytes (svn : Option Nat) (image : List Byte) : Nat := image.length + (if svn.isSome then 4 + 96 + 2668 else 0)
def partOk (svn : Option Nat) (sigE sigL : List Byte) : Bool :=
  match svn with
  | some v => v < 2 ^ 32 && sigE.length = 96 && sigL.length = 2668
  | none => sigE.isEmpty && sigL.isEmpty

/-- An image segment: the segments up to the last make the image. -/
def takePart (s : State) (svn : Option Nat) (image sigE sigL : List Byte) : State :=
  match svn with
  | none => { s with fwParts := s.fwParts ++ image }
  | some v => { s with fwParts := [] }.updateFirmware v (s.fwParts ++ image) sigE sigL

end State

/-! ## Meanings -/

/-- HOST_LAUNCH. -/
def execHostLaunch (h : Cmd) (queue : Nat) (record : List Byte) (s : State) : Host.Outcome State Fault Refusal :=
  .next (s.hostLaunch h queue record)

/-- HELD_LAUNCH_ACCEPT. -/
def execHeldLaunchAccept (s : State) : Host.Outcome State Fault Refusal := .next s.acceptHeld

/-- CTX_CREATE. -/
def execCtxCreate (h : Cmd) (l1 : Nat) (pager : Bool) (s : State) : Host.Outcome State Fault Refusal :=
  .next (s.command (.ctxCreate h l1 pager) h 1 false (fun s => s.createCtx h l1 pager))

/-- CTX_DESTROY. -/
def execCtxDestroy (h : Cmd) (s : State) : Host.Outcome State Fault Refusal :=
  .next (s.command (.ctxDestroy h) h 0 true (fun s => s.destroyCtx h))

/-- BIND_QUEUE. -/
def execBindQueue (h : Cmd) (queue : Nat) (s : State) : Host.Outcome State Fault Refusal :=
  .next (s.command (.bindQueue h queue) h 1 true (fun s => s.bindQueue h queue))

/-- INVALIDATE: STATUS follows its completion (R220). -/
def execInvalidate (h : Cmd) (s : State) : Host.Outcome State Fault Refusal :=
  .next (s.command (.invalidate h) h 0 true (fun s => { s with invals := s.invals ++ [⟨h.ctx, h.seq⟩] }))

/-- PAGER_RESOLVED. -/
def execPagerResolved (h : Cmd) (report : Word) (s : State) : Host.Outcome State Fault Refusal :=
  .next (s.command (.pagerResolved h report) h 1 false (fun s => s.pagerResolve report))

/-- PAGER_DELIVER. -/
def execPagerDeliver (h : Cmd) (report : Word) (s : State) : Host.Outcome State Fault Refusal :=
  .next (s.command (.pagerDeliver h report) h 1 false (fun s => s.pagerDeliver report))

/-- PAGER_ABORT. -/
def execPagerAbort (h : Cmd) (report : Word) (s : State) : Host.Outcome State Fault Refusal :=
  .next (s.command (.pagerAbort h report) h 1 false (fun s => s.pagerAbort report))

/-- PREEMPT. -/
def execPreempt (h : Cmd) (arrival : Word) (s : State) : Host.Outcome State Fault Refusal :=
  .next (s.command (.preempt h arrival) h 1 false (fun s => s.preemptLaunch arrival))

/-- DEBUG_ATTACH. -/
def execDebugAttach (h : Cmd) (s : State) : Host.Outcome State Fault Refusal :=
  .next (s.command (.debugAttach h) h 1 true (fun s => s.setDebugger h.ctx true))

/-- DEBUG_DETACH. -/
def execDebugDetach (h : Cmd) (s : State) : Host.Outcome State Fault Refusal :=
  .next (s.command (.debugDetach h) h 1 true (fun s => s.setDebugger h.ctx false))

/-- RECORD. -/
def execRecordCmd (h : Cmd) (interval addr size : Nat) (s : State) : Host.Outcome State Fault Refusal :=
  .next (s.command (.recordCmd h interval addr size) h 1 true (fun s => s.startRecording h.ctx interval addr size))

/-- READ_STATE. -/
def execReadState (h : Cmd) (sel : Selector) (s : State) : Host.Outcome State Fault Refusal :=
  .next (s.command (.readState h sel) h 1 false (fun s => s.readState h sel))

/-- OBJECT_LOAD: 64 bytes that place its data, and at most 4,032 bytes of data. A nonzero reserved bit of the 64 bytes is answered
with STATUS code 1 (log entry 76). -/
def execObjectLoad (h : Cmd) (part : ObjectPart) (s : State) : Host.Outcome State Fault Refusal :=
  .next (s.command (.objectLoad h part) h (1 + (part.data.length + 63) / 64) true (fun s =>
    if part.reservedOk && part.data.length ≤ 4032 then s.loadPart h.ctx h.seq part else s.status h.ctx h.seq 1))

/-- ATTEST: a nonce of 48 bytes. -/
def execAttest (h : Cmd) (nonce : List Byte) (s : State) : Host.Outcome State Fault Refusal :=
  .next (s.command (.attest h nonce) h 1 false (fun s => if nonce.length = 48 then s.attest h.ctx nonce else s.status h.ctx h.seq 1))

/-- RESEND. -/
def execResend (h : Cmd) (n : Word) (s : State) : Host.Outcome State Fault Refusal :=
  .next (s.command (.resend h n) h 1 false (fun s => s.resend n))

/-- FW_UPDATE. -/
def execFwUpdate (h : Cmd) (svn : Option Nat) (image sigE sigL : List Byte) (s : State) : Host.Outcome State Fault Refusal :=
  .next (s.command (.fwUpdate h svn image sigE sigL) h ((State.partBytes svn image + 63) / 64) false (fun s =>
    if State.partOk svn sigE sigL then s.takePart svn image sigE sigL else s.status h.ctx h.seq 1))

/-- RESERVED_COMMAND: accepted and answered with STATUS code 1. -/
def execReservedCommand (h : Cmd) (s : State) : Host.Outcome State Fault Refusal :=
  .next (s.command (.reservedCommand h) h h.len false (fun s => s.status h.ctx h.seq 1))

/-- OUT_OF_SEQUENCE_COMMAND: dropped without effect, and ACK does not change (R431). -/
def execOutOfSequenceCommand (_ : Cmd) (s : State) : Host.Outcome State Fault Refusal := .next s

end Sys2Proof.Machine
end

