-- ==== Sys2Proof/Machine/Environment.lean ====
section
/-! DEFINITION. The module and its surroundings (22 R445, R448, R449; 09 R201, R202, R212; 10 R223; 11 R257; 12 R270; 17 R380;
18 R403): module reset, degraded operation, uncorrectable errors, the debugger, and accesses from the host and from
other modules. -/

namespace Sys2Proof.Machine

/-! ## Module reset (R445) -/

/-- The measurement after a firmware stage. -/
def extendMeasure (m stage : List Byte) : List Byte := Sha.sha384 (m ++ Sha.sha384 stage)

/-- The kinds of change that an EVENT response reports (R448; log entry 35). -/
inductive Change where
  | clock (mhz : Nat)
  | channel (n : Nat)
  | slice (core n : Nat)

/-- The payload of an EVENT that reports a change. -/
def Change.payload : Change → List Byte
  | .clock m => bytesOf 4 1 ++ bytesOf 4 m
  | .channel n => bytesOf 4 2 ++ bytesOf 4 n
  | .slice c n => bytesOf 4 3 ++ bytesOf 4 (4 * c + n)

namespace State

/-- EVENT of a change. -/
def event (s : State) (x : Change) : State := s.respond respEvent 0 x.payload

/-- The firmware stages that a module reset runs: those that the event names, then the image that FW_UPDATE has installed (R447;
log entry 80). -/
def bootStages (s : State) (stages : List (List Byte)) : List (List Byte) :=
  stages ++ (if s.firmware.isEmpty then [] else [s.firmware])

/-- MODULE_RESET: what lies outside the module stays, and so do the fuse counter and the firmware; every other field takes
its reset value. Local memory holds nothing written (log entry 2). -/
def moduleReset (s : State) (member : Nat) (stages : List (List Byte)) (bad : List (Nat × Nat)) : State :=
  let s1 := { State.reset with
    member := member
    domain := uniq (member :: s.domain.filter (fun m => m ≠ s.member))
    mem := s.mem.filter (fun e => 2 ^ 52 ≤ e.1)
    fuse := s.fuse
    firmware := s.firmware
    measure := (s.bootStages stages).foldl extendMeasure State.reset.measure
    badSlices := bad
    free := s.free }
  bad.foldl (fun s e => s.event (.slice e.1 e.2)) s1

/-! ## Degraded operation (R448, R449) -/

/-- CLOCK_STEP_DOWN. -/
def stepDown (s : State) (mhz : Nat) : State :=
  if (mhz = 1200 || mhz = 800) && mhz < s.clockMhz then { s with clockMhz := mhz }.event (.clock mhz) else s

/-- CLOCK_STEP_UP: the clock returns when power and coolant are below their limits, which the coolant is not above the limit of
COOLANT_OVER_LIMIT (R448, R449). -/
def stepUp (s : State) : State := if s.clockMhz < 1600 && !s.overLimit then { s with clockMhz := 1600 }.event (.clock 1600) else s

/-- HBM_CHANNEL_FENCE: the lines move to other channels; no address and no result changes (09 R202). -/
def fenceChannel (s : State) (n : Nat) : State :=
  if s.channels.contains n then s else { s with channels := s.channels ++ [n] }.event (.channel n)

/-- COOLANT_OVER_LIMIT: every cluster is pre-empted, and LAUNCH commands are no longer accepted. -/
def overheat (s : State) : State := { (s.clusters.map (·.1)).foldl stopCluster s with overLimit := true }

/-! ## Uncorrectable errors (09 R212; 10 R223; 12 R270; R407, R437) -/

/-- The tables that the pointers of a table name. -/
def tablesOf (s : State) (t : Nat) : List Nat :=
  (List.range 8192).filterMap (fun i =>
    let e := s.tableEntry (t + 8 * i)
    if bitsOf e 0 0 = 1 && bitsOf e 1 1 = 0 then some (nextTable e) else none)

/-- Whether a line lies in a page table of a context (R213, R214): a table of one of the three levels. -/
def inTables (s : State) (c : Ctx) (line : Nat) : Bool :=
  let within (t : Nat) : Bool := t / 2 ^ 16 = line / 2 ^ 8
  within c.l1 || (s.tablesOf c.l1).any (fun t => within t || (s.tablesOf t).any within)

/-- The contexts whose page tables an uncorrectable error in a line strikes lose their work (R437). -/
def strikeTables (s : State) (line : Nat) : State :=
  ((s.ctxs.filter (fun c => s.inTables c line)).map (·.num)).foldl discard s

/-- The channel of a physical address is fenced after an uncorrectable error in HBM4E (R448). -/
def fenceAt (s : State) (pa : Nat) : State := s.fenceChannel (Config.hbmChannel (pa % 2 ^ 52 / 2 ^ 10))

/-- The .ca stores of a line that L1 still holds are written through, as an eviction may do at any moment (R206): with an error
in the line they count as written before it (R212; log entry 12). -/
def sendStores (s : State) (line : Nat) : State := s.writeThrough (fun _ k => k / 256 = line)

/-- UNCORRECTABLE_ERROR. One in a cache fences no channel; one in a saved context fences the channel of HBM4E that holds it, which
the manual does not place (log entry 81). -/
def strike (s0 : State) (site : ErrorSite) : State :=
  let s := match site with
    | .sector pa | .cached pa => s0.sendStores (pa / 256)
    | .sideband line => s0.sendStores line
    | _ => s0
  match site with
  | .sector pa => ((s.poisonSector pa).fenceAt pa).strikeTables (pa / 256)
  | .sideband line => ((s.poisonLine (256 * line)).fenceAt (256 * line)).strikeTables line
  | .cached pa => (s.poisonSector pa).strikeTables (pa / 256)
  | .stagingByte slot off =>
    { s with stagingPoison := sset none s.stagingPoison ((slot * slotBytes + off) / 64) (some 0) }.fenceAt (slotAddress slot + off)
  | .arenaWord c b off => s.modBlock c b (fun x => { x with apoison := sset false x.apoison (off / 8) true })
  | .tileElement c b tile row col =>
    s.modBlock c b (fun x => { x with tilePoison := sset false x.tilePoison (tileKey tile row col) true })
  | .patternByte c b off => s.modBlock c b (fun x => { x with patPoison := sset false x.patPoison off true })
  | .contextState ctx => (s.fenceAt (s.freeWord (2 ^ 36)).toNat).discard ctx

/-! ## The debugger (18 R403) -/

/-- A frontier that a debugger writes: an entry at the PC of an old one stays in its place, any other stands at a block header
(01 R24). -/
def debugFrontier (old : List FEntry) (es : List (DWord × Nat × Lanes)) : List FEntry :=
  es.map (fun e => match old.find? (fun f => f.pc = e.1) with
    | some f => { f with prio := e.2.1, mask := e.2.2 }
    | none => ⟨e.1, e.2.1, e.2.2, .header, 0, 0, 0⟩)

/-- Whether a written frontier is one of the troupe's (R24): its PCs differ, no mask is empty, and each live lane is in one. -/
def debugFrontierOk (live : Lanes) (es : List (DWord × Nat × Lanes)) : Bool :=
  (es.map (·.1)).Nodup && es.all (fun e => e.2.2 ≠ 0)
    && (List.range 128).all (fun l => (es.filter (fun e => hasLane e.2.2 l)).length = bit (hasLane live l))

/-- What a debugger writes into a troupe's context (04 R109; 18 R408). Writes outside the troupe's registers and lanes are ignored
(log entry 59). -/
def debugWrite (w : DebugWrite) (t : Troupe) : Troupe :=
  let vs := w.vregs.filter (fun x => x.1 < t.nregs && x.2.1 < t.width)
  let tags := w.tags.filter (fun x => x.1 < t.nregs && 4 * x.2.1 < t.width)
  let t1 := ((t.writeV (vs.map (fun x => (x.1 * 128 + x.2.1, x.2.2)))).writeTags (tags.map (fun x => (x.1 * 32 + x.2.1, x.2.2)))).noteV
    (vs.map (·.1) ++ tags.map (·.1))
  let t2 := (w.sregs.filter (fun x => x.1 < 64)).foldl (fun t x => t.writeS x.1 x.2) t1
  let t3 := (w.preds.filter (fun x => x.1 < 7)).foldl (fun t x => t.writeP x.1 (lanesBelow t.width) x.2) t2
  let t4 := (w.fibres.filter (fun x => x.1 < 8 && fibreImageOk x.2)).foldl 
    (fun t x => (t.setFibre x.1 (fibreOf x.2)).setWatch x.1 ⟨[], false⟩) t3
  let latch (l : List (Option Latch)) (x : Nat × Option (List Word × List Byte × Bool)) : List (Option Latch) :=
    l.set x.1 (x.2.map (fun v => ⟨v.1, v.2.1, v.2.2⟩))
  { t4 with
    run := { t4.run with
      latches := (w.latches.filter (fun x => x.1 < 4)).foldl latch t4.run.latches
      k := w.k.getD t4.run.k }
    rnd := w.rnd.getD t4.rnd
    seed := w.seed.getD t4.seed
    amax := w.amax.getD t4.amax
    sticky := w.sticky.getD t4.sticky
    prog := w.prog.getD t4.prog
    tmask := w.tmask.getD t4.tmask
    tcause := w.tcause.getD t4.tcause
    tpc := w.tpc.getD t4.tpc
    tval := w.tval.getD t4.tval
    frontier := match w.frontier with
      | some es => if debugFrontierOk t4.live es then debugFrontier t4.frontier es else t4.frontier
      | none => t4.frontier }

/-- DEBUGGER_RESUME: the troupe goes on at the next word. -/
def debuggerResume (s : State) (r : TRef) (w : DebugWrite) : State :=
  match s.issuer? r, (s.cluster? r.cluster).bind (fun cl => s.ctxOfLaunch cl.launch) with
  | some t, some ctx =>
    if t.status = .breakpoint && s.debugged ctx then s.setTroupe r { debugWrite w t with status := .ready, waitw := 0 } else s
  | _, _ => s

/-! ## Accesses from outside (09 R201; 11 R257; 17 R380) -/

/-- Stores at physical addresses of the module's own memory. -/
def storeLocal (s : State) (pa : Nat) (bytes : List Byte) : State := if pa + bytes.length ≤ frameLimit then s.wrList pa bytes else s

/-- HOST_ACCESS: a load changes nothing; the staging pool is not the host's to write. -/
def hostAccess (s : State) (m : MemAccess) : State :=
  match m with
  | .load _ _ => s
  | .store pa bytes => s.storeLocal pa bytes
  | .slotStore _ _ _ => s

/-- REMOTE_MODULE_ACCESS: a request of another member, or the slot data of a collective. -/
def remoteAccess (s : State) (m : MemAccess) : State :=
  match m with
  | .load _ _ => s
  | .store pa bytes => s.storeLocal pa bytes
  | .slotStore slot off bytes =>
    if slot < stagingSlots && off + bytes.length ≤ slotBytes then s.writeSlot slot off bytes else s

end State

/-! ## Meanings -/

/-- MODULE_RESET. -/
def execModuleReset (member : Nat) (stages : List (List Byte)) (badSlices : List (Nat × Nat)) (s : State) :
    Host.Outcome State Fault Refusal := .next (s.moduleReset member stages badSlices)

/-- CLOCK_STEP_DOWN. -/
def execClockStepDown (mhz : Nat) (s : State) : Host.Outcome State Fault Refusal := .next (s.stepDown mhz)

/-- CLOCK_STEP_UP. -/
def execClockStepUp (s : State) : Host.Outcome State Fault Refusal := .next s.stepUp

/-- HBM_CHANNEL_FENCE. -/
def execHbmChannelFence (channel : Nat) (s : State) : Host.Outcome State Fault Refusal := .next (s.fenceChannel channel)

/-- COOLANT_OVER_LIMIT. -/
def execCoolantOverLimit (s : State) : Host.Outcome State Fault Refusal := .next s.overheat

/-- UNCORRECTABLE_ERROR. -/
def execUncorrectableError (site : ErrorSite) (s : State) : Host.Outcome State Fault Refusal := .next (s.strike site)

/-- INLET_WITHIN_LIMITS. -/
def execInletWithinLimits (s : State) : Host.Outcome State Fault Refusal := .next { s with overLimit := false }

/-- DEBUGGER_RESUME. -/
def execDebuggerResume (r : TRef) (writes : DebugWrite) (s : State) : Host.Outcome State Fault Refusal :=
  .next (s.debuggerResume r writes)

/-- HOST_ACCESS. -/
def execHostAccess (m : MemAccess) (s : State) : Host.Outcome State Fault Refusal := .next (s.hostAccess m)

/-- REMOTE_MODULE_ACCESS. -/
def execRemoteModuleAccess (m : MemAccess) (s : State) : Host.Outcome State Fault Refusal := .next (s.remoteAccess m)

end Sys2Proof.Machine
end

