-- ==== Sys2Proof/Machine/Logical.lean ====
section
/-! DEFINITION. The logical and bit-field class 0x2 (05 R130 to R134). -/

namespace Sys2Proof.Machine

/-! ## Element results -/

/-- SAR (R131). -/
def sarElem (w a b : Nat) : Nat :=
  let top := a / 2 ^ (w - 1) % 2 = 1
  if w ≤ b then (if top then 2 ^ w - 1 else 0)
  else a / 2 ^ b + (if top then 2 ^ w - 2 ^ (w - b) else 0)

/-- ROT (R131): left by s mod w. -/
def rotElem (w a b : Nat) : Nat := let s := b % w; a * 2 ^ s % 2 ^ w + a / 2 ^ (w - s)

/-- CLZ: the leading zeros of a w-bit value. -/
def clzElem (w a : Nat) : Nat := if a = 0 then w else w - 1 - Nat.log2 a

/-- POPC: the one bits among the low `w`. -/
def popElem : Nat → Nat → Nat
  | 0, _ => 0
  | w + 1, a => a % 2 + popElem w (a / 2)

/-- BREV: the low `w` bits in reverse order. -/
def brevElem : Nat → Nat → Nat
  | 0, _ => 0
  | w + 1, a => a % 2 * 2 ^ w + brevElem w (a / 2)

/-- The position and length of a bit-field control (R132). -/
def bfPos (c : Nat) : Nat := c % 256
def bfLen (c : Nat) : Nat := c / 256 % 256

/-- BFX (R132). -/
def bfxElem (ty w a c : Nat) : Nat :=
  if bfLen c = 0 || w ≤ bfPos c then 0
  else
    let len := min (bfLen c) (w - bfPos c)
    let f := a / 2 ^ bfPos c % 2 ^ len
    if typeSigned ty then wrap w (toSigned len f) else f

/-- BFI (R132). -/
def bfiElem (w a b c : Nat) : Nat :=
  if bfLen c = 0 || w ≤ bfPos c then a
  else
    let len := min (bfLen c) (w - bfPos c)
    let p := 2 ^ bfPos c
    a % p + b % 2 ^ len * p + a / (p * 2 ^ len) * (p * 2 ^ len)

/-- The 32-bit control of BFX or BFI, whatever the width of type `ty` (R132); an 11-bit immediate is sign-extended for a
signed type (R62, R121). -/
def bfControl (ty : Nat) (o : Op) (x : Src) (t : Troupe) (l : Nat) : Nat :=
  t.operand (if typeSigned ty then 5 else 6) o x l

/-- SEL (R134). -/
def selBody (o : Op) (x : Env) (s : State) : Res :=
  let ty := tyOf 0x04D o
  let c := x.t.predSrc o.srcC
  let f (l : Nat) : Nat := if hasLane c l then x.t.operand ty o o.a l else x.t.operand ty o o.b l
  .done (s.setTroupe x.r (x.t.result false (type64 ty) o f))

/-! ## Meanings -/

def execAnd (o : Op) (s : State) : Host.Outcome State Fault Refusal :=
  issueOp 0x040 (.and o) o (elemOp 0x040 o (fun _ _ a b _ => a &&& b)) s
def execOr (o : Op) (s : State) : Host.Outcome State Fault Refusal :=
  issueOp 0x041 (.or o) o (elemOp 0x041 o (fun _ _ a b _ => a ||| b)) s
def execXor (o : Op) (s : State) : Host.Outcome State Fault Refusal :=
  issueOp 0x042 (.xor o) o (elemOp 0x042 o (fun _ _ a b _ => a ^^^ b)) s
def execNot (o : Op) (s : State) : Host.Outcome State Fault Refusal :=
  issueOp 0x043 (.not o) o (elemOp 0x043 o (fun _ w a _ _ => 2 ^ w - 1 - a)) s
def execShl (o : Op) (s : State) : Host.Outcome State Fault Refusal :=
  issueOp 0x044 (.shl o) o (elemOp 0x044 o (fun _ w a b _ => if w ≤ b then 0 else a * 2 ^ b)) s
def execShr (o : Op) (s : State) : Host.Outcome State Fault Refusal :=
  issueOp 0x045 (.shr o) o (elemOp 0x045 o (fun _ w a b _ => if w ≤ b then 0 else a / 2 ^ b)) s
def execSar (o : Op) (s : State) : Host.Outcome State Fault Refusal :=
  issueOp 0x046 (.sar o) o (elemOp 0x046 o (fun _ w a b _ => sarElem w a b)) s
def execRot (o : Op) (s : State) : Host.Outcome State Fault Refusal :=
  issueOp 0x047 (.rot o) o (elemOp 0x047 o (fun _ w a b _ => rotElem w a b)) s
def execClz (o : Op) (s : State) : Host.Outcome State Fault Refusal :=
  issueOp 0x048 (.clz o) o (elemOp 0x048 o (fun _ w a _ _ => clzElem w a)) s
def execPopc (o : Op) (s : State) : Host.Outcome State Fault Refusal :=
  issueOp 0x049 (.popc o) o (elemOp 0x049 o (fun _ w a _ _ => popElem w a)) s
def execBrev (o : Op) (s : State) : Host.Outcome State Fault Refusal :=
  issueOp 0x04A (.brev o) o (elemOp 0x04A o (fun _ w a _ _ => brevElem w a)) s
def execBfx (o : Op) (s : State) : Host.Outcome State Fault Refusal :=
  issueOp 0x04B (.bfx o) o
    (laneOp 0x04B o (fun t ty l => bfxElem ty (typeBits ty) (t.operand ty o o.a l) (bfControl ty o o.b t l))) s
def execBfi (o : Op) (s : State) : Host.Outcome State Fault Refusal :=
  issueOp 0x04C (.bfi o) o
    (laneOp 0x04C o (fun t ty l =>
      bfiElem (typeBits ty) (t.operand ty o o.a l) (t.operand ty o o.b l) (bfControl ty o o.srcC t l))) s
def execSel (o : Op) (s : State) : Host.Outcome State Fault Refusal := issueOp 0x04D (.sel o) o (selBody o) s

end Sys2Proof.Machine
end

