-- ==== Sys2Proof/Machine/PairOps.lean ====
section
/-! DEFINITION. Pair words (03 R82 to R84): two compact ops that read before either writes. -/

namespace Sys2Proof.Machine

/-- The result of a compact op on the register values of a lane (R83), with the rounding of that lane. -/
def compactFn (op : CompactOp) (r : Rnd) (r0 r1 : Rnd) (a b : Nat) : Nat :=
  match op with
  | .add => (a + b) % 2 ^ 32
  | .sub => (a + 2 ^ 32 - b) % 2 ^ 32
  | .mul => a * b % 2 ^ 32
  | .min => minElem 5 a b
  | .max => maxElem 5 a b
  | .minN => minElem 6 a b
  | .maxN => maxElem 6 a b
  | .and => a &&& b
  | .or => a ||| b
  | .xor => a ^^^ b
  | .shl => if 32 ≤ b then 0 else a * 2 ^ b % 2 ^ 32
  | .shr => if 32 ≤ b then 0 else a / 2 ^ b
  | .sar => sarElem 32 a b
  | .mov => a
  | .fadd => addF .fp32 r a b
  | .fsub => subF .fp32 r a b
  | .fmul => mulF .fp32 r a b
  | .fmin => minF .fp32 a b
  | .fmax => maxF .fp32 a b
  | .hadd2 => joinElems 16 [addF .fp16 r0 (elemOf 16 a 0) (elemOf 16 b 0), addF .fp16 r1 (elemOf 16 a 1) (elemOf 16 b 1)]

/-- The value of a compact op in a lane. -/
def compactValue (t : Troupe) (x : Compact) (l : Nat) : Nat :=
  compactFn x.op (t.rounding 7 (t.elemIndex l 1 0)) (t.rounding 7 (t.elemIndex l 2 0)) (t.rounding 7 (t.elemIndex l 2 1))
    (t.readV x.a.toNat l).toNat (t.readV x.b.toNat l).toNat

/-- The tag that MOV copies (R99, R128). -/
def compactTag (t : Troupe) (x : Compact) (sel : Lanes) : List (Nat × Byte) :=
  match x.op with
  | .mov => if sel = 0 then [] else (List.range Troupe.tagBytes).map (fun b => (b, t.readTag x.a.toNat b))
  | _ => []

/-- One more than the highest v register that a pair names. -/
def pairNeed (p : Pair) : Nat :=
  max (max (p.x.dst.toNat) (p.y.dst.toNat)) (((p.x.sources ++ p.y.sources).map (·.toNat)).foldl max 0) + 1

/-- Both ops of a pair: X then Y, each from the values before the pair (R84, R86). -/
def pairBody (p : Pair) (x : Env) (s : State) : Res :=
  let t := x.t
  let sel := t.selected ⟨false, 7⟩
  let vx := tabulate t.width (compactValue t p.x)
  let vy := tabulate t.width (compactValue t p.y)
  let t1 := t.produceV false p.x.dst.toNat sel (resultRegs false vx) (compactTag t p.x sel)
  let t2 := t1.produceV false p.y.dst.toNat sel (resultRegs false vy) (compactTag t p.y sel)
  .done (s.setTroupe x.r t2)

/-- The checks that come before a pair takes effect (R84, R88, R89). -/
def pairTrap (p : Pair) (x : Env) : Option TrapX :=
  if runLimit < x.t.run.words + x.c.len then some (overlong x)
  else if x.t.nregs < pairNeed p then some (trapAt causeIllegalOp (x.c.hi.setWidth 64) x.t.active) else none

/-- A pair word in its environment. Under an empty resume mask it is not checked and acts for no lane (18 R400; log entry 70). -/
def runPair (p : Pair) (x : Env) (s : State) : State :=
  match (if x.t.rm = some 0 then none else pairTrap p x) with
  | some tr => s.takeTrap x.r x.cl.launch x.c.pc tr
  | none => settle p.e 2 (.pairWord p) x s (s.fallCheck x x.t.active) (pairBody p x s)

def execPairWord (p : Pair) (s : State) : Host.Outcome State Fault Refusal :=
  match s.env? with
  | none => .fault .noIssuer
  | some x => .next (runPair p x s)

end Sys2Proof.Machine
end

