-- ==== Sys2Proof/Machine/Quiescent.lean ====
section
/-! DEFINITION. The end of a launch by a trap (18 R397, R398): when it is quiescent, and the trap that its completion record
reports. -/

namespace Sys2Proof.Machine

/-- The state that a meaning answers, or the state it was asked in. -/
def answered (o : Host.Outcome State Fault Refusal) (s : State) : State :=
  match o with
  | .next t => t
  | _ => s

namespace State

/-- The events that may release a troupe from its wait. -/
def releasesOf (s : State) (r : TRef) (k : WaitKind) : List Instr :=
  match k with
  | .turn => (List.range (((s.block? r.cluster r.block).map (fun b => b.turns.length)).getD 0)).map (.turnSwap r.cluster r.block ·)
  | .barw _ => [.barwRelease r]
  | .tbwait | .tbtest => [.tbwaitRelease r]
  | .mwait => [.mwaitRelease r]

/-- What an event that may release a wait does. -/
def release (s : State) (i : Instr) : State :=
  match i with
  | .turnSwap c b k => answered (execTurnSwap c b k s) s
  | .barwRelease r => answered (execBarwRelease r s) s
  | .tbwaitRelease r => answered (execTbwaitRelease r s) s
  | .mwaitRelease r => answered (execMwaitRelease r s) s
  | _ => s

/-- Whether a troupe waits. -/
def waits (s : State) (r : TRef) : Bool :=
  match (s.troupe? r).map Troupe.status with
  | some (.waiting _ _ _) => true
  | _ => false

/-- The event that releases a waiting troupe now, if there is one. -/
def releaseNow (s : State) (r : TRef) : Option Instr :=
  match (s.troupe? r).map Troupe.status with
  | some (.waiting k _ _) => (s.releasesOf r k).find? (fun i => !(s.release i).waits r)
  | _ => none

/-- Whether a troupe may still go on: it is ready, holds a slot, sleeps or is parked, or its wait is over. One whose code is still
being verified is not ready (22 R444). -/
def mayGoOn (s : State) (r : TRef) : Bool :=
  match (s.troupe? r).map Troupe.status with
  | some .stopped | some .retired | some (.verifying _) | none => false
  | some (.waiting _ _ _) => (s.releaseNow r).isSome
  | some _ => true

/-- Whether a collective step of a launch is in progress: a chunk that is due to fire, or a reduce block. -/
def collectiveStep (s : State) (id : Nat) (la : Launch) : Bool :=
  la.bindings.any (fun b => b.live && ((List.range b.ent.nchunk).any (fun c => sget 0 b.fire c = 0 && !b.fired.contains c)
    || !b.dispatched.isEmpty)) || !(s.dueReduces (id, la)).isEmpty

/-- Quiescence (R398). -/
def quiescent (s : State) (id : Nat) (la : Launch) : Bool :=
  let mine := s.clustersOf id
  mine.all (fun e => (e.2.state = .resident || e.2.state = .finished)
      && !s.copies.any (fun q => q.cluster = e.1) && e.2.blocks.all (fun b => b.acts.all (fun a => a.queue.isEmpty))
      && (troupesIn e.1 e.2).all (fun r => !s.mayGoOn r))
    && !s.collectiveStep id la

/-- The trap of lowest WID. -/
def reportedTrap : List TrapReport → Option TrapReport
  | [] => none
  | t :: ts =>
    match reportedTrap ts with
    | some u => some (if t.wid.toNat ≤ u.wid.toNat then t else u)
    | none => some t

/-- LAUNCH_QUIESCENT: the status is that of the trap which ended the launch (log entry 46). -/
def stopQuiescent (s : State) (id : Nat) : State :=
  match s.launch? id with
  | none => s
  | some la =>
    match la.traps with
    | [] => s
    | t :: _ => if la.ended && s.quiescent id la then s.endLaunch id t.status (reportedTrap la.traps) else s

end State

/-- LAUNCH_QUIESCENT. -/
def execLaunchQuiescent (launch : Nat) (s : State) : Host.Outcome State Fault Refusal := .next (s.stopQuiescent launch)

end Sys2Proof.Machine
end

