-- ==== Sys2Proof/Machine/Dispatch.lean ====
section
/-! DEFINITION. The dispatch of an instruction, or of a step of another agent, to its meaning: one arm per row of the
opcode table, in its order. -/

namespace Sys2Proof.Machine

def exec (i : Instr) (s : State) : Host.Outcome State Fault Refusal :=
  match i with
  | .bra o => Sys2Proof.Machine.execBra o s
  | .brc o => Sys2Proof.Machine.execBrc o s
  | .brx o => Sys2Proof.Machine.execBrx o s
  | .call o => Sys2Proof.Machine.execCall o s
  | .ret o => Sys2Proof.Machine.execRet o s
  | .exit o => Sys2Proof.Machine.execExit o s
  | .yieldRun o => Sys2Proof.Machine.execYieldRun o s
  | .nop o => Sys2Proof.Machine.execNop o s
  | .add o => Sys2Proof.Machine.execAdd o s
  | .sub o => Sys2Proof.Machine.execSub o s
  | .addc o => Sys2Proof.Machine.execAddc o s
  | .mul o => Sys2Proof.Machine.execMul o s
  | .mulh o => Sys2Proof.Machine.execMulh o s
  | .mad o => Sys2Proof.Machine.execMad o s
  | .idiv o => Sys2Proof.Machine.execIdiv o s
  | .irem o => Sys2Proof.Machine.execIrem o s
  | .min o => Sys2Proof.Machine.execMin o s
  | .max o => Sys2Proof.Machine.execMax o s
  | .abs o => Sys2Proof.Machine.execAbs o s
  | .neg o => Sys2Proof.Machine.execNeg o s
  | .lea o => Sys2Proof.Machine.execLea o s
  | .mov o => Sys2Proof.Machine.execMov o s
  | .movi o => Sys2Proof.Machine.execMovi o s
  | .i2i o => Sys2Proof.Machine.execI2i o s
  | .and o => Sys2Proof.Machine.execAnd o s
  | .or o => Sys2Proof.Machine.execOr o s
  | .xor o => Sys2Proof.Machine.execXor o s
  | .not o => Sys2Proof.Machine.execNot o s
  | .shl o => Sys2Proof.Machine.execShl o s
  | .shr o => Sys2Proof.Machine.execShr o s
  | .sar o => Sys2Proof.Machine.execSar o s
  | .rot o => Sys2Proof.Machine.execRot o s
  | .clz o => Sys2Proof.Machine.execClz o s
  | .popc o => Sys2Proof.Machine.execPopc o s
  | .brev o => Sys2Proof.Machine.execBrev o s
  | .bfx o => Sys2Proof.Machine.execBfx o s
  | .bfi o => Sys2Proof.Machine.execBfi o s
  | .sel o => Sys2Proof.Machine.execSel o s
  | .cmp o => Sys2Proof.Machine.execCmp o s
  | .pand o => Sys2Proof.Machine.execPand o s
  | .por o => Sys2Proof.Machine.execPor o s
  | .pxor o => Sys2Proof.Machine.execPxor o s
  | .pnot o => Sys2Proof.Machine.execPnot o s
  | .pmov o => Sys2Proof.Machine.execPmov o s
  | .fadd o => Sys2Proof.Machine.execFadd o s
  | .fsub o => Sys2Proof.Machine.execFsub o s
  | .fmul o => Sys2Proof.Machine.execFmul o s
  | .fma o => Sys2Proof.Machine.execFma o s
  | .fmin o => Sys2Proof.Machine.execFmin o s
  | .fmax o => Sys2Proof.Machine.execFmax o s
  | .fabs o => Sys2Proof.Machine.execFabs o s
  | .fneg o => Sys2Proof.Machine.execFneg o s
  | .fcmp o => Sys2Proof.Machine.execFcmp o s
  | .fclass o => Sys2Proof.Machine.execFclass o s
  | .frnd o => Sys2Proof.Machine.execFrnd o s
  | .fcvt o => Sys2Proof.Machine.execFcvt o s
  | .f2i o => Sys2Proof.Machine.execF2i o s
  | .i2f o => Sys2Proof.Machine.execI2f o s
  | .hfma2 o => Sys2Proof.Machine.execHfma2 o s
  | .hadd2 o => Sys2Proof.Machine.execHadd2 o s
  | .bfma2 o => Sys2Proof.Machine.execBfma2 o s
  | .bmax o => Sys2Proof.Machine.execBmax o s
  | .bscale o => Sys2Proof.Machine.execBscale o s
  | .bquant o => Sys2Proof.Machine.execBquant o s
  | .bdeq o => Sys2Proof.Machine.execBdeq o s
  | .brescale o => Sys2Proof.Machine.execBrescale o s
  | .dot4 o => Sys2Proof.Machine.execDot4 o s
  | .dot8 o => Sys2Proof.Machine.execDot8 o s
  | .dot2h o => Sys2Proof.Machine.execDot2h o s
  | .amaxrd o => Sys2Proof.Machine.execAmaxrd o s
  | .amaxclr o => Sys2Proof.Machine.execAmaxclr o s
  | .exb o => Sys2Proof.Machine.execExb o s
  | .lg2 o => Sys2Proof.Machine.execLg2 o s
  | .rcp o => Sys2Proof.Machine.execRcp o s
  | .rsq o => Sys2Proof.Machine.execRsq o s
  | .sqt o => Sys2Proof.Machine.execSqt o s
  | .sin o => Sys2Proof.Machine.execSin o s
  | .cos o => Sys2Proof.Machine.execCos o s
  | .tanh o => Sys2Proof.Machine.execTanh o s
  | .shfl o => Sys2Proof.Machine.execShfl o s
  | .vote o => Sys2Proof.Machine.execVote o s
  | .ballot o => Sys2Proof.Machine.execBallot o s
  | .scan o => Sys2Proof.Machine.execScan o s
  | .vred o => Sys2Proof.Machine.execVred o s
  | .confl o => Sys2Proof.Machine.execConfl o s
  | .matchLanes o => Sys2Proof.Machine.execMatchLanes o s
  | .perm o => Sys2Proof.Machine.execPerm o s
  | .fbopen o => Sys2Proof.Machine.execFbopen o s
  | .fbisect o => Sys2Proof.Machine.execFbisect o s
  | .fbunion o => Sys2Proof.Machine.execFbunion o s
  | .fbnext o => Sys2Proof.Machine.execFbnext o s
  | .fbskip o => Sys2Proof.Machine.execFbskip o s
  | .fbpos o => Sys2Proof.Machine.execFbpos o s
  | .fbend o => Sys2Proof.Machine.execFbend o s
  | .fbclose o => Sys2Proof.Machine.execFbclose o s
  | .fbsave o => Sys2Proof.Machine.execFbsave o s
  | .fbrstr o => Sys2Proof.Machine.execFbrstr o s
  | .ld o => Sys2Proof.Machine.execLd o s
  | .st o => Sys2Proof.Machine.execSt o s
  | .ldb o => Sys2Proof.Machine.execLdb o s
  | .stb o => Sys2Proof.Machine.execStb o s
  | .ldsc o => Sys2Proof.Machine.execLdsc o s
  | .ldg o => Sys2Proof.Machine.execLdg o s
  | .stg o => Sys2Proof.Machine.execStg o s
  | .atom o => Sys2Proof.Machine.execAtom o s
  | .red o => Sys2Proof.Machine.execRed o s
  | .fence o => Sys2Proof.Machine.execFence o s
  | .pref o => Sys2Proof.Machine.execPref o s
  | .cctl o => Sys2Proof.Machine.execCctl o s
  | .lda o => Sys2Proof.Machine.execLda o s
  | .sta o => Sys2Proof.Machine.execSta o s
  | .ldab o => Sys2Proof.Machine.execLdab o s
  | .stab o => Sys2Proof.Machine.execStab o s
  | .atoma o => Sys2Proof.Machine.execAtoma o s
  | .turn o => Sys2Proof.Machine.execTurn o s
  | .rgq o => Sys2Proof.Machine.execRgq o s
  | .mconv o => Sys2Proof.Machine.execMconv o s
  | .mdisb o => Sys2Proof.Machine.execMdisb o s
  | .mfence o => Sys2Proof.Machine.execMfence o s
  | .mma o => Sys2Proof.Machine.execMma o s
  | .mmaSp o => Sys2Proof.Machine.execMmaSp o s
  | .mmaG o => Sys2Proof.Machine.execMmaG o s
  | .mloop o => Sys2Proof.Machine.execMloop o s
  | .accz o => Sys2Proof.Machine.execAccz o s
  | .accld o => Sys2Proof.Machine.execAccld o s
  | .accst o => Sys2Proof.Machine.execAccst o s
  | .patld o => Sys2Proof.Machine.execPatld o s
  | .copy o => Sys2Proof.Machine.execCopy o s
  | .copyg o => Sys2Proof.Machine.execCopyg o s
  | .copys o => Sys2Proof.Machine.execCopys o s
  | .mcommit o => Sys2Proof.Machine.execMcommit o s
  | .mwait o => Sys2Proof.Machine.execMwait o s
  | .tclaim o => Sys2Proof.Machine.execTclaim o s
  | .launch o => Sys2Proof.Machine.execLaunch o s
  | .sleep o => Sys2Proof.Machine.execSleep o s
  | .tbinit o => Sys2Proof.Machine.execTbinit o s
  | .tbexpect o => Sys2Proof.Machine.execTbexpect o s
  | .tbarrive o => Sys2Proof.Machine.execTbarrive o s
  | .tbwait o => Sys2Proof.Machine.execTbwait o s
  | .tbtest o => Sys2Proof.Machine.execTbtest o s
  | .bara o => Sys2Proof.Machine.execBara o s
  | .barw o => Sys2Proof.Machine.execBarw o s
  | .cntrd o => Sys2Proof.Machine.execCntrd o s
  | .trap o => Sys2Proof.Machine.execTrap o s
  | .rett o => Sys2Proof.Machine.execRett o s
  | .bkpt o => Sys2Proof.Machine.execBkpt o s
  | .sread o => Sys2Proof.Machine.execSread o s
  | .swrite o => Sys2Proof.Machine.execSwrite o s
  | .pairWord p => Sys2Proof.Machine.execPairWord p s
  | .issueSlotGrant core quadrant => Sys2Proof.Machine.execIssueSlotGrant core quadrant s
  | .lateResult r => Sys2Proof.Machine.execLateResult r s
  | .sfuResult r => Sys2Proof.Machine.execSfuResult r s
  | .sfuEntryFree r => Sys2Proof.Machine.execSfuEntryFree r s
  | .missStatusEntryFree r => Sys2Proof.Machine.execMissStatusEntryFree r s
  | .lineFill core sector => Sys2Proof.Machine.execLineFill core sector s
  | .tableWalk core ctx va => Sys2Proof.Machine.execTableWalk core ctx va s
  | .invalidationComplete ctx => Sys2Proof.Machine.execInvalidationComplete ctx s
  | .mfenceRelease r => Sys2Proof.Machine.execMfenceRelease r s
  | .turnSwap cluster block index => Sys2Proof.Machine.execTurnSwap cluster block index s
  | .matrixStep a => Sys2Proof.Machine.execMatrixStep a s
  | .sparseStep a => Sys2Proof.Machine.execSparseStep a s
  | .acczPerform a => Sys2Proof.Machine.execAcczPerform a s
  | .accstPerform a => Sys2Proof.Machine.execAccstPerform a s
  | .patldPerform a => Sys2Proof.Machine.execPatldPerform a s
  | .batchQueueSlotFree r => Sys2Proof.Machine.execBatchQueueSlotFree r s
  | .mwaitRelease r => Sys2Proof.Machine.execMwaitRelease r s
  | .copyQueueEntryFree r => Sys2Proof.Machine.execCopyQueueEntryFree r s
  | .copyUnitSettled core copy unit => Sys2Proof.Machine.execCopyUnitSettled core copy unit s
  | .copyRemoteFault core copy row => Sys2Proof.Machine.execCopyRemoteFault core copy row s
  | .tbwaitRelease r => Sys2Proof.Machine.execTbwaitRelease r s
  | .barwRelease r => Sys2Proof.Machine.execBarwRelease r s
  | .sleepExpiry r => Sys2Proof.Machine.execSleepExpiry r s
  | .launchQueueRoom r => Sys2Proof.Machine.execLaunchQueueRoom r s
  | .launchAdmission => Sys2Proof.Machine.execLaunchAdmission s
  | .bindingReservation launch => Sys2Proof.Machine.execBindingReservation launch s
  | .clusterPlacement => Sys2Proof.Machine.execClusterPlacement s
  | .placementSkipLimit launch => Sys2Proof.Machine.execPlacementSkipLimit launch s
  | .preemption cluster => Sys2Proof.Machine.execPreemption cluster s
  | .contextSave cluster => Sys2Proof.Machine.execContextSave cluster s
  | .blockExitPoint cluster block => Sys2Proof.Machine.execBlockExitPoint cluster block s
  | .clusterRetirement cluster => Sys2Proof.Machine.execClusterRetirement cluster s
  | .launchRetirement launch => Sys2Proof.Machine.execLaunchRetirement launch s
  | .launchQuiescent launch => Sys2Proof.Machine.execLaunchQuiescent launch s
  | .chunkFire b chunk => Sys2Proof.Machine.execChunkFire b chunk s
  | .readyNotify n => Sys2Proof.Machine.execReadyNotify n s
  | .contributionNotify n => Sys2Proof.Machine.execContributionNotify n s
  | .resultNotify n => Sys2Proof.Machine.execResultNotify n s
  | .reduceDispatch b chunk => Sys2Proof.Machine.execReduceDispatch b chunk s
  | .reduceResult b chunk => Sys2Proof.Machine.execReduceResult b chunk s
  | .bindingComplete b => Sys2Proof.Machine.execBindingComplete b s
  | .fabricWriteFailure b => Sys2Proof.Machine.execFabricWriteFailure b s
  | .recordCheckpoint launch => Sys2Proof.Machine.execRecordCheckpoint launch s
  | .logBufferFull launch => Sys2Proof.Machine.execLogBufferFull launch s
  | .hostLaunch h queue record => Sys2Proof.Machine.execHostLaunch h queue record s
  | .heldLaunchAccept => Sys2Proof.Machine.execHeldLaunchAccept s
  | .ctxCreate h l1 pager => Sys2Proof.Machine.execCtxCreate h l1 pager s
  | .ctxDestroy h => Sys2Proof.Machine.execCtxDestroy h s
  | .bindQueue h queue => Sys2Proof.Machine.execBindQueue h queue s
  | .invalidate h => Sys2Proof.Machine.execInvalidate h s
  | .pagerResolved h report => Sys2Proof.Machine.execPagerResolved h report s
  | .pagerDeliver h report => Sys2Proof.Machine.execPagerDeliver h report s
  | .pagerAbort h report => Sys2Proof.Machine.execPagerAbort h report s
  | .preempt h arrival => Sys2Proof.Machine.execPreempt h arrival s
  | .debugAttach h => Sys2Proof.Machine.execDebugAttach h s
  | .debugDetach h => Sys2Proof.Machine.execDebugDetach h s
  | .recordCmd h interval addr size => Sys2Proof.Machine.execRecordCmd h interval addr size s
  | .readState h sel => Sys2Proof.Machine.execReadState h sel s
  | .objectLoad h part => Sys2Proof.Machine.execObjectLoad h part s
  | .attest h nonce => Sys2Proof.Machine.execAttest h nonce s
  | .resend h n => Sys2Proof.Machine.execResend h n s
  | .fwUpdate h svn image sigE sigL => Sys2Proof.Machine.execFwUpdate h svn image sigE sigL s
  | .reservedCommand h => Sys2Proof.Machine.execReservedCommand h s
  | .outOfSequenceCommand h => Sys2Proof.Machine.execOutOfSequenceCommand h s
  | .moduleReset member stages badSlices => Sys2Proof.Machine.execModuleReset member stages badSlices s
  | .clockStepDown mhz => Sys2Proof.Machine.execClockStepDown mhz s
  | .clockStepUp => Sys2Proof.Machine.execClockStepUp s
  | .hbmChannelFence channel => Sys2Proof.Machine.execHbmChannelFence channel s
  | .coolantOverLimit => Sys2Proof.Machine.execCoolantOverLimit s
  | .uncorrectableError site => Sys2Proof.Machine.execUncorrectableError site s
  | .inletWithinLimits => Sys2Proof.Machine.execInletWithinLimits s
  | .debuggerResume r writes => Sys2Proof.Machine.execDebuggerResume r writes s
  | .replay launch checkpoint upTo => Sys2Proof.Machine.execReplay launch checkpoint upTo s
  | .hostAccess m => Sys2Proof.Machine.execHostAccess m s
  | .remoteModuleAccess m => Sys2Proof.Machine.execRemoteModuleAccess m s

end Sys2Proof.Machine
end

