-- ==== Sys2Proof/Machine/Schedule.lean ====
section
/-! DEFINITION. Which agent moves next (log entry 4): the moves that the state's agenda lists, and when it lists none, the
model's own choice: the first event that is due, then a word of a slot, the slots taking turns. -/

namespace Sys2Proof.Machine

namespace State

/-- The first that some function finds in a list. -/
def firstOf {α : Type} (xs : List α) (f : α → Option Instr) : Option Instr := xs.findSome? f

/-- An event, when it is due. -/
def due (b : Bool) (i : Instr) : Option Instr := if b then some i else none

/-- Whether an event changes what a troupe does. -/
def moves (s : State) (r : TRef) (o : Host.Outcome State Fault Refusal) : Bool :=
  decide (((answered o s).troupe? r).map Troupe.status ≠ (s.troupe? r).map Troupe.status)

/-! ## Events of troupes -/

/-- What a stalled troupe waits for, when it is there. -/
def stallOver (s : State) (r : TRef) : Option Instr :=
  if s.moves r (execMfenceRelease r s) then some (.mfenceRelease r)
  else if s.moves r (execSfuEntryFree r s) then some (.sfuEntryFree r)
  else if s.moves r (execMissStatusEntryFree r s) then some (.missStatusEntryFree r)
  else if s.moves r (execBatchQueueSlotFree r s) then some (.batchQueueSlotFree r)
  else if s.moves r (execCopyQueueEntryFree r s) then some (.copyQueueEntryFree r)
  else due (s.moves r (execLaunchQueueRoom r s)) (.launchQueueRoom r)

/-- The event of a troupe that is due. -/
def troupeEvent (s : State) (r : TRef) : Option Instr :=
  match s.troupe? r with
  | none => none
  | some t =>
    match t.late with
    | p :: _ => some (if p.sfu then .sfuResult r else .lateResult r)
    | [] =>
      if !s.mayIssue r.cluster then none
      else match t.status with
        | .waiting _ _ _ => s.releaseNow r
        | .stalled _ _ => s.stallOver r
        | .sleeping u => due (u ≤ s.clk) (.sleepExpiry r)
        | _ => none

/-! ## Events of engines -/

/-- The event that performs an act's next entry. -/
def entryEvent (a : ActRef) (i : Instr) : Option Instr :=
  if isDense i then some (.matrixStep a)
  else if isSparse i then some (.sparseStep a)
  else if isAccz i then some (.acczPerform a)
  else if isAccst i then some (.accstPerform a)
  else if isPatld i then some (.patldPerform a)
  else none

/-- The entry of an act that is due. -/
def actEvent (s : State) (a : ActRef) : Option Instr := (s.job? a).bind (fun j => entryEvent a j.head.i)

/-- The acts of a cluster. -/
def actsIn (c : Nat) (cl : Cluster) : List ActRef :=
  (List.range cl.blocks.length).flatMap (fun i =>
    (List.range (((cl.blocks[i]?).map (fun b => b.acts.length)).getD 0)).map (fun a => ⟨c, i, a⟩))

/-- The unit of a copy that is settled next. -/
def copyEvent (s : State) (q : CopyReq) : Option Instr :=
  match s.copyJob? q.core q.id with
  | none => none
  | some j => ((List.range q.total).find? j.unitReady).map (fun u => .copyUnitSettled q.core q.id u)

/-! ## Events of the ringmaster -/

/-- The event of a cluster that is due. -/
def clusterEvent (s : State) (c : Nat) (cl : Cluster) : Option Instr :=
  match cl.state with
  | .stopping => due (s.drained c cl) (.contextSave c)
  | .finished =>
    match s.launch? cl.launch with
    | some la => due (firedAll la.lrec cl la.bindings && (!la.det || cl.ordinal = la.done)) (.clusterRetirement c)
    | none => none
  | .saved => none
  | .resident =>
    firstOf (List.range cl.blocks.length) (fun i =>
      match cl.blocks[i]? with
      | some b => due (s.atExit c i b) (.blockExitPoint c i)
      | none => none)

/-- The event of a binding that is due. -/
def bindingEvent (s : State) (r : BindRef) : Option Instr :=
  match s.binding? r with
  | none => none
  | some b =>
    if b.reserved && !b.complete && ((b.results = 0 && b.resWait.isEmpty) || b.fault) then some (.bindingComplete r)
    else if !b.live then none
    else match (List.range b.ent.nchunk).find? (fun c => sget 0 b.fire c = 0 && !b.fired.contains c), b.dispatched with
      | some c, _ => some (.chunkFire r c)
      | none, d :: _ => some (.reduceResult r d.1)
      | none, [] => none

/-- Whether a recorded launch is due for a checkpoint. -/
def checkpointDue (s : State) (id : Nat) (la : Launch) : Bool :=
  match la.record with
  | some r => !r.full && s.replay.isNone && r.since + r.interval ≤ s.retiredBy id la && r.since < s.retiredBy id la
      && (s.clustersOf id).all (fun e => s.drained e.1 e.2)
  | none => false

/-- A launch has a candidate that has been skipped for so long that it is to hold back those behind it: a saved cluster of a launch
that has ended may be one (R336, R398). -/
def skipDue (s : State) (la : Launch) : Bool := la.skipped.any (fun k => k.2 + 2 ^ 20 ≤ s.clk && !la.blocking.contains k.1)

/-- The event of a launch that is due. -/
def launchEvent (s : State) (e : Nat × Launch) : Option Instr :=
  let (id, la) := e
  if la.ended && s.quiescent id la && !la.traps.isEmpty then some (.launchQuiescent id)
  else if la.ended then due (s.skipDue la) (.placementSkipLimit id)
  else if la.state = 3 && la.bindings.all (·.complete) then some (.launchRetirement id)
  else if s.checkpointDue id la then some (.recordCheckpoint id)
  else if s.mayReserve e && (((s.reserve id).launch? id).map (·.reservedAll)).getD false then some (.bindingReservation id)
  else due (s.skipDue la) (.placementSkipLimit id)

/-- Whether a placement would place a cluster, or mark a candidate as skipped. -/
def placementDue (s : State) : Bool :=
  let r := s.choosePlace (considered s.candidates)
  !s.overLimit && !s.reduceDue && (r.2.isSome || r.1.any (fun k => !k.la.skipped.any (fun e => e.1 = k.cluster.ordinal)))

/-- A recorded launch whose log buffer is full parks before its next move (R411). -/
def logEvent (e : Nat × Launch) : Option Instr :=
  match e.2.record with
  | some r => due (!r.full && noLogRoom r) (.logBufferFull e.1)
  | none => none

/-- What comes next on the host link: the held LAUNCH, when it need not wait any more, or the first command that has waited
behind one (R431). -/
def linkEvent (s : State) : Option Instr :=
  match s.heldLaunch, s.waiting with
  | some x, _ => due (!s.mustHold x.1 x.2.1) .heldLaunchAccept
  | none, w :: _ => some w.2
  | none, [] => none

/-- An event of the ringmaster that is due. -/
def ringEvent (s : State) : Option Instr :=
  if s.linkEvent.isSome then s.linkEvent
  else if s.freeIndex.isSome && !s.heads.isEmpty then some .launchAdmission
  else
    match firstOf s.launches s.launchEvent with
    | some i => some i
    | none =>
      match firstOf (s.launches.flatMap refsOf) s.bindingEvent with
      | some i => some i
      | none =>
        match s.launches.flatMap s.dueReduces, s.reduceSeat with
        | x :: _, some _ => some (.reduceDispatch x.1 x.2)
        | _, _ =>
          match s.nextVictim with
          | some c => some (.preemption c)
          | none => due s.placementDue .clusterPlacement

/-! ## Slots -/

/-- The free slot that some ready troupe asks for. -/
def grantEvent (s : State) : Option Instr :=
  firstOf s.clusters (fun e =>
    match s.launch? e.2.launch with
    | none => none
    | some la =>
      if !s.mayIssue e.1 then none
      else firstOf (troupesIn e.1 e.2) (fun r =>
        match s.block? e.1 r.block with
        | none => none
        | some b =>
          let q := la.quadrant r.troupe
          due (((b.troupes[r.troupe]?).map (fun t => t.isReady && !t.redo)).getD false && (s.slotOf b.core q).isNone)
            (.issueSlotGrant b.core q)))

/-- An event that is due. -/
def dueEvent (s : State) : Option Instr :=
  match (firstOf s.launches logEvent).orElse (fun _ =>
      firstOf s.clusters (fun e => firstOf (troupesIn e.1 e.2) s.troupeEvent)) with
  | some i => some i
  | none =>
    match firstOf s.copies s.copyEvent with
    | some i => some i
    | none =>
      match firstOf s.clusters (fun e => firstOf (actsIn e.1 e.2) s.actEvent) with
      | some i => some i
      | none =>
        match firstOf s.clusters (fun e => s.clusterEvent e.1 e.2) with
        | some i => some i
        | none =>
          match firstOf s.invals (fun v => due (!s.invalPending v) (.invalidationComplete v.ctx)) with
          | some i => some i
          | none =>
            match s.ringEvent with
            | some i => some i
            | none =>
              match s.mshr with
              | e :: _ => some (.lineFill e.1 (e.2 / 4))
              | [] => s.grantEvent

/-- Whether a slot has a word to issue. -/
def hasWord (s : State) (e : Nat × TRef) : Bool :=
  ((s.troupe? e.2).map (·.isReady)).getD false && s.mayIssue e.2.cluster

/-- The word that comes next: the slots with one take turns. -/
def nextWord (s : State) : Option Act :=
  let xs := s.slots.filter s.hasWord
  (xs[s.clk % xs.length]?).map (fun e => .word (e.1 / 4) (e.1 % 4))

/-- The model's own choice of the next move; with nothing due, a placement that finds nothing lets a clock pass. -/
def pick (s : State) : Act :=
  match s.dueEvent with
  | some i => .ev i
  | none => (s.nextWord).getD (.ev .clusterPlacement)

/-- The next move and the state in which it is made: in a replay the next logged move, with the counts and queues that it found
(18 R412); the word of a pending fault before every other (R410). -/
def nextMove (s : State) : Act × State :=
  match s.replay.bind (fun p => p.todo.head?), s.redos, s.agenda with
  | some m, _, _ => (m.act, s.withSetting m.found)
  | none, e :: _, _ => (.word e.1 e.2.1, s)
  | none, [], a :: rest => (a, { s with agenda := rest })
  | none, [], [] => (s.pick, s)

/-- The word that a quadrant issues next. -/
def issueWord (s : State) (core quadrant : Nat) : Issued :=
  match s.issuerAt core quadrant with
  | none => .idle
  | some r =>
    match s.troupe? r, s.block? r.cluster r.block, s.cluster? r.cluster with
    | some t, some b, some cl =>
      match s.launch? cl.launch, t.frontier with
      | some la, e :: _ =>
        if t.status ≠ .ready || !s.mayIssue r.cluster then .idle
        else match e.place with
          | .body fin => s.issueBody r b.core cl.launch la.ctx t e fin
          | _ => .state (s.enterBlock r b.core cl.launch la.ctx t e)
      | _, _ => .idle
    | _, _, _ => .idle

end State

end Sys2Proof.Machine
end

