-- ==== Sys2Proof/Machine/Step.lean ====
section
/-! DEFINITION. One step of the machine: the next move, the log of a recorded launch, and the clock that passes. -/

namespace Sys2Proof.Machine

/-- A step's outcome after the clock has passed: `s` is the state in which the move `a` was made. -/
def afterMove (s : State) (a : Act) : Host.Outcome State Fault Refusal → Host.Outcome State Fault Refusal
  | .next t => .next (s.afterReplay (s.logMove a t).tick)
  | .fault f => .fault f
  | .refused r => .refused r

/-- The move that an agent makes. -/
def makeMove (a : Act) (s : State) : Host.Outcome State Fault Refusal :=
  match a with
  | .ev i => exec i s
  | .word core quadrant =>
    match s.issueWord core quadrant with
    | .idle => .next s
    | .state s1 => .next s1
    | .run i s1 => exec i s1

/-- One step. -/
def step (s : State) : Host.Outcome State Fault Refusal :=
  afterMove s s.nextMove.1 (makeMove s.nextMove.1 s.nextMove.2)

/-- The state in which the very next step runs the instruction with the bits `w` (log entry 8). -/
def State.withFetchWord (s : State) (nbits w : Nat) : State := s.withInstr (w % 2 ^ nbits)

end Sys2Proof.Machine
end

