-- ==== Sys2Proof/Safety.lean ====
section
/-! DEFINITION. What counts as a safe run, and the terms in which the claims are stated: when a word takes effect, what it
leaves in its troupe, and what it leaves unchanged elsewhere. -/

namespace Sys2Proof

/-- A state from which the next `n` steps all answer a next state. -/
def Safe : Nat → Machine.State → Prop
  | 0, _ => True
  | n + 1, s => ∃ t, Machine.step s = .next t ∧ Safe n t

namespace Claims

open Sys2Proof.Machine

/-! ## When a single op takes effect -/

/-- The well-formed word `o` with an opcode is issuing in the environment `x`, its entry has lanes, it passes the checks of 03 R88 and
R89, it is no word that an empty resume mask skips (18 R400), and where it is the last word of its block the header that
it falls through to is `hdr` (R90). -/
structure Runs (s : State) (x : Env) (code : Nat) (o : Op) (hdr : DWord) : Prop where
  form   : o.wf code = true
  env    : s.env? = some x
  lanes  : x.t.active ≠ 0
  checks : opTrap code o x = none
  whole  : x.t.rm = some 0 → opLevel code x.t o = .lanes
  falls  : s.fallCheck x (fallLanes code o x) = .ok hdr

/-- Whether the run of the troupe ends with an op (03 R85). -/
def ends (code : Nat) (o : Op) (x : Env) : Bool := o.endsRun || endsOwn code x.det || x.c.last

/-- The issue slots after a word of troupe `r` (R85; 14 R343). -/
def slotsAfter (s : State) (r : TRef) (isLast : Bool) : List (Nat × TRef) :=
  if isLast then s.slots.filter (fun e => e.2 ≠ r) else s.slots

/-- The frontier after a word that moved no lanes itself: the next word, or the header that follows the block (01 R24, 03
R67). -/
def goesTo (x : Env) (hdr : DWord) (front : List FEntry) : List FEntry :=
  match front with
  | e :: es =>
    if x.c.last then passYield x.c.next e.yielded (moveLanes (e :: es) [(⟨e.mask, x.c.next, .any⟩, hdr)])
    else { e with pc := x.c.next } :: es
  | [] => []

/-! ## What a word leaves in its troupe -/

/-- The readings of a troupe after a word: v registers by register and lane, s registers, predicates, scale tags by
register and byte, the special registers that words write, the fibre registers and what the model watches of each (log entry
3), the latch that is written, whether arena stores are on their way (12 R296), the counts that LAUNCH and SLEEP keep, that of
spilled entries (01 R25), and how often each v register has been written (04 R101, R109). -/
structure Effect where
  v      : Nat → Nat → Word
  s      : Nat → Word
  p      : Nat → Lanes
  tag    : Nat → Nat → Byte
  amax   : Word
  sticky : Word
  prog   : Word
  rnd    : BitVec 3
  seed   : DWord
  tmask  : Lanes
  fb     : List Fibre
  watch  : List Watch
  latch  : Option Latch
  busy     : Bool
  launches : Nat
  waitw    : Nat
  spills   : Nat
  wrote    : Nat → Nat

/-- Nothing changes. -/
def Effect.none (t : Troupe) : Effect :=
  { v := t.readV, s := t.readS, p := t.readP, tag := t.readTag, amax := t.amax, sticky := t.sticky, prog := t.prog
    rnd := t.rnd, seed := t.seed, tmask := t.tmask, fb := t.fb, watch := t.watch, latch := Option.none, busy := t.arenaBusy
    launches := t.launches, waitw := t.waitw, spills := t.counters.spills, wrote := sget 0 t.wrote }

/-- The v registers `d`, `d + 1`, … take the values `fs` in the lanes of `sel` and the tag of `d` takes the bytes of `tag`,
unless W discards them; a tag byte beyond the blocks of the troupe stays 0 (02 R46). The latch takes what register `d` with its
tag then holds, or with W would hold, what the word has yielded before a stop inside it included (03 R72, R81, R86). -/
def Effect.toV (e : Effect) (t : Troupe) (w : Bool) (d : Nat) (sel : Lanes) (fs : List (Nat → Word))
    (tag : List (Nat × Byte)) : Effect :=
  { e with
    v := fun r l => if !w && d ≤ r && r < d + fs.length && l < t.width && hasLane sel l then fs.getD (r - d) (fun _ => 0) l
      else t.readV r l
    tag := fun r b => if !w && r = d && 4 * b < t.width then (tag.lookup b).getD (t.readTag r b) else t.readTag r b
    wrote := fun r => sget 0 t.wrote r + bit (!w && d ≤ r && r < d + fs.length && (sel ≠ 0 || !tag.isEmpty))
    latch := some
      { vals := (List.range t.width).map (fun l => if hasLane sel l then fs.headD (fun _ => 0) l else t.priorV d l)
        tag := (List.range 32).map (fun b => (tag.lookup b).getD (t.priorTag d b)), uniform := false } }

/-- The s registers `d`, `d + 1`, … take the values `xs`, unless W discards them; the latch takes the value of `d` in every
lane (R72, R80, R86), with a scale tag of 0x7F, since an s register has none (log entry 85, the model's choice). -/
def Effect.toS (e : Effect) (t : Troupe) (uniform w : Bool) (d : Nat) (xs : List Word) : Effect :=
  { e with
    s := fun r => if !w && d ≤ r && r < d + xs.length then xs.getD (r - d) 0 else t.readS r
    latch := some ⟨List.replicate t.width (xs.headD 0), List.replicate 32 0x7F, uniform⟩ }

/-- Predicate `d` takes the lanes `val` in the lanes of `sel`; p7 discards them (04 R95). -/
def Effect.toP (e : Effect) (d : Nat) (sel val : Lanes) : Effect :=
  { e with p := fun q => if q = d && q ≠ 7 then (e.p q &&& ~~~sel) ||| (val &&& sel) else e.p q }

/-- The run after a word of `x` (R85, R86): over, or longer by the word with one latch written. -/
def runAfter (x : Env) (isLast : Bool) (latch : Option Latch) : Run :=
  if isLast then ⟨[none, none, none, none], 0, 0⟩
  else match latch with
    | some y => ⟨x.t.run.latches.set (x.t.run.k % 4) (some y), x.t.run.k + 1, x.t.run.words + x.c.len⟩
    | none => { x.t.run with words := x.t.run.words + x.c.len }

/-- `t'` is the troupe of `x` after a word of `n` instructions with the effect `e`: every register, tag, predicate and
special register reads as `e` says, the entry has gone on, and nothing else of the troupe has changed. -/
structure Leaves (x : Env) (isLast : Bool) (n : Nat) (front : List FEntry) (e : Effect) (t' : Troupe) : Prop where
  v    : ∀ r l, l < 128 → t'.readV r l = e.v r l
  s    : ∀ r, t'.readS r = e.s r
  p    : ∀ q, t'.readP q = e.p q
  tag  : ∀ r b, b < 32 → t'.readTag r b = e.tag r b
  wrote : ∀ r, sget 0 t'.wrote r = e.wrote r
  rest : t' = { x.t with
    v := t'.v, sc := t'.sc, s := t'.s, p := t'.p, late := t'.late, amax := e.amax, sticky := e.sticky, prog := e.prog
    rnd := e.rnd, seed := e.seed, tmask := e.tmask, fb := e.fb, watch := e.watch, frontier := front, run := runAfter x isLast e.latch
    midRun := x.t.midRun && !isLast, rm := none, status := .ready, redo := false, served := 0, kept := [], keptTag := []
    arenaBusy := e.busy, launches := e.launches
    waitw := e.waitw, wrote := t'.wrote, retiredInsns := x.t.retiredInsns + n
    counters := { x.t.counters with retired := (x.t.counters.retired + n) % 2 ^ 64, spills := e.spills } }

/-! ## What a word leaves elsewhere -/

/-- The instruction answers the state `s1` in which the troupe of `x` has taken the effect `e` and gone on, its slot given
up when its run is over. -/
def Answers (i : Instr) (s : State) (x : Env) (isLast : Bool) (n : Nat) (front : List FEntry) (e : Effect) (s1 : State) : Prop :=
  ∃ t', Leaves x isLast n front e t' ∧ exec i s = .next { s1.setTroupe x.r t' with slots := slotsAfter s x.r isLast }

/-- Nothing but the troupe of `x` and the slots differs between `s` and `s'`: no byte of memory, no other troupe. -/
structure SameElsewhere (s : State) (x : Env) (s' : State) : Prop where
  memory : ∀ k, s'.rdByte k = s.rdByte k
  others : ∀ q, q ≠ x.r → s'.troupe? q = s.troupe? q
  state  : ∃ t', s' = { s.setTroupe x.r t' with slots := s'.slots }

/-- The instruction answers a next state in which its own effect `e` on its troupe is all that has happened. -/
def Completes (i : Instr) (s : State) (x : Env) (isLast : Bool) (n : Nat) (hdr : DWord) (e : Effect) : Prop :=
  Answers i s x isLast n (goesTo x hdr x.t.frontier) e s ∧ ∃ s', exec i s = .next s' ∧ SameElsewhere s x s'

/-- A byte of memory is as it was, or a store that an L1 cache held has been written through to it (09 R206). -/
def KeptByte (s s' : State) (k : Nat) : Prop :=
  s'.rdByte k = s.rdByte k ∨ ∃ e ∈ s.l1, State.l1Phys e.1 = k ∧ e.2 = .dirty (s'.rdByte k)

/-- A sideband byte of a line is as it was, or a store that an L1 cache held has been written through to it. -/
def KeptSide (s s' : State) (i : Nat) : Prop :=
  sget 0 s'.side i = sget 0 s.side i ∨ ∃ e ∈ s.l1, 2 ^ 63 ≤ State.l1Phys e.1
    ∧ (State.l1Phys e.1 - 2 ^ 63) / 64 * 16 + (State.l1Phys e.1 - 2 ^ 63) % 16 = i ∧ e.2 = .dirty (sget 0 s'.side i)

/-- Between `s` and `s'` stores that L1 caches held have been written through; the contents of L1 and L2, miss-status entries,
translation-cache entries and the counters of cores have changed; nothing else has (R204, R206, R216). -/
structure CacheTraffic (s s' : State) : Prop where
  state : s' = { s with
    mem := s'.mem, side := s'.side, poison := s'.poison, sidePoison := s'.sidePoison, frames := s'.frames, l1 := s'.l1
    mshr := s'.mshr, l2 := s'.l2, l2First := s'.l2First, far := s'.far, tlb := s'.tlb, coreCount := s'.coreCount }
  bytes : ∀ k, KeptByte s s' k
  sides : ∀ i, KeptSide s s' i

/-- The same, and only lines that have left L1 and stores written through tell its contents apart. -/
structure Drained (s s' : State) : Prop extends CacheTraffic s s' where
  lines : ∀ e ∈ s'.l1, e ∈ s.l1 ∨ ∃ b, (e.1, L1Byte.dirty b) ∈ s.l1 ∧ e.2 = .clean b

/-- The same, and what has entered L1 are copies, as the reads of the carousel bring them (R204; 08 R196). -/
structure Carried (s s' : State) : Prop extends CacheTraffic s s' where
  copies : ∀ e ∈ s'.l1, e ∈ s.l1 ∨ ∃ b, e.2 = .clean b

/-- The instruction answers a next state: with nothing but cache traffic before and after, memory changes by `op` alone,
and the troupe takes the effect that `e` gives for the state in which the access is performed. -/
def Performs (i : Instr) (s : State) (x : Env) (isLast : Bool) (n : Nat) (hdr : DWord) (op : State → State)
    (e : State → Effect) : Prop :=
  ∃ s2 s4, Drained s s2 ∧ Drained (op s2) s4 ∧ Answers i s x isLast n (goesTo x hdr x.t.frontier) (e s2) s4

/-- A fibre op whose reads have led to the state `q` answers a next state in which its effect `e` is all that has happened
but for the cache traffic of those reads. -/
def CompletesAfter (q : State) (i : Instr) (s : State) (x : Env) (isLast : Bool) (n : Nat) (hdr : DWord) (e : Effect) : Prop :=
  Carried s q ∧ Answers i s x isLast n (goesTo x hdr x.t.frontier) e q

/-- The instruction answers a next state in which the block of `x` has become `b`, and only the place in the order of issue
and the counters of cores besides: no byte of memory has changed. -/
def InBlock (i : Instr) (s : State) (x : Env) (isLast : Bool) (n : Nat) (hdr : DWord) (b : Block) (e : Effect) : Prop :=
  ∃ s1, s1 = { s.setBlock x.r.cluster x.r.block b with seq := s1.seq, coreCount := s1.coreCount }
    ∧ (∀ k, s1.rdByte k = s.rdByte k) ∧ Answers i s x isLast n (goesTo x hdr x.t.frontier) e s1

/-! ## What issues next -/

/-- The troupe `r` of a launch, ready in the slot of its quadrant, is what the next move issues from: no word of a pending fault
goes before it (18 R410). -/
structure NextIssues (s : State) (core quadrant : Nat) (rest : List Act) (r : TRef) (t : Troupe) (b : Block) (cl : Cluster)
    (la : Launch) (e : FEntry) (es : List FEntry) : Prop where
  agenda  : s.agenda = .word core quadrant :: rest
  replay  : s.replay = none
  redos   : s.redos = []
  slot    : s.slotOf core quadrant = some r
  troupe  : s.troupe? r = some t
  block   : s.block? r.cluster r.block = some b
  cluster : s.cluster? r.cluster = some cl
  launch  : s.launch? cl.launch = some la
  front   : t.frontier = e :: es
  ready   : t.status = .ready
  may     : s.mayIssue r.cluster = true

/-- The next word of troupe `r` is the instruction `i`, whose opcode is `code` and operands `o`, in the environment `x` of the
state `s1` that holds it as issuing, and nothing keeps it from executing (03 R77; 18 R400). -/
structure NextWord (s : State) (r : TRef) (i : Instr) (code : Nat) (o : Op) (x : Env) (s1 : State) : Prop where
  word   : ∃ b cl ctx e es fin w next len, s.block? r.cluster r.block = some b ∧ s.cluster? r.cluster = some cl
    ∧ s.ctxOfLaunch cl.launch = some ctx ∧ x.t.frontier = e :: es ∧ e.place = .body fin
    ∧ s.fetchInstr b.core ctx e.pc fin = .ok (w, next) ∧ decode w next = .instr i len
    ∧ s1 = { s with cur := some ⟨r, e.pc, hiOf w, (next.map hiOf).getD 0, len, e.pc + BitVec.ofNat 64 (8 * len) = fin⟩ }
  troupe : s.troupe? r = some x.t
  env    : s1.env? = some x
  op     : i.op? = some (code, o)
  ready  : x.t.status = .ready ∧ s.mayIssue r.cluster = true ∧ x.t.rm ≠ some 0 ∧ opTrap code o x = none

end Claims

end Sys2Proof
end

