-- ==== Sys2Proof/Certificates/Slice0/Obligations.lean ====
section
/-! DEFINITION. The statements for the provers. Each docstring names the rules of spec/ that the statement formalises, and
the entries of the assumption log on which a clause of it rests. -/

section Statements

open Sys2Proof Sys2Proof.Machine Sys2Proof.Claims

/-! ## Reset, encoding, stepping -/

/-- Right after module reset nothing of the module is in use: the clock stands at zero (04 R106), memory lists no byte, no
frame is verified, no line is cached, no launch is queued, in the dependence table or placed, no copy, claim, slot or
context is held, no response has been numbered (22 R432), and no arrival number given (14 R329). What an unlisted byte of
memory reads as is the model's choice (log entry 2), and so is that no context is held (log entry 1); the values of `ack` and
`clockMhz` are those of 22 R431 and R448. -/
def Sys2Proof.Claims.ResetLeavesTheModuleIdle : Prop :=
  State.reset.clk = 0 ∧ (∀ k, State.reset.rdByte k = emptyByte) ∧ (∀ k, State.reset.poisoned k = false)
    ∧ (∀ p, sget FrameState.unverified State.reset.frames p = .unverified)
    ∧ (∀ c k, State.reset.l1Byte c k = .absent) ∧ State.reset.tlb = [] ∧ State.reset.mshr = []
    ∧ (∀ n, State.reset.queue n = []) ∧ State.reset.launches = [] ∧ State.reset.clusters = [] ∧ State.reset.slots = []
    ∧ State.reset.copies = [] ∧ State.reset.ctxs = [] ∧ State.reset.arrivals = 0 ∧ State.reset.devSeq = 0
    ∧ State.reset.ack = 0xFFFFFFFF ∧ State.reset.clockMhz = 1600 ∧ State.reset.measure.length = 48

/-- The words written out in the tests decode to the instructions that they stand for (03 R72 to R79, R82, R83). -/
def Obligations.WordsDecode : Prop :=
  decode 0x0827_8280_8006_1D60 none
      = .instr (.fmul ⟨false, ⟨false, 7⟩, true, 5, ⟨.v, 4, .none⟩, ⟨.v, 6, .none⟩, 0x1D60, none⟩) 1
    ∧ decode 0x2207_0481_43FF_A0A0 none
      = .instr (.add ⟨true, ⟨false, 7⟩, false, 9, ⟨.v, 10, .none⟩, ⟨.imm, 0xFF, .hi⟩, 0x00A0, none⟩) 1
    ∧ decode 0x1637_0002_010A_1800 (some 0x8000_0000_0008_01CC)
      = .instr (.mma ⟨false, ⟨false, 7⟩, false, 0, ⟨.v, 16, .none⟩, ⟨.s, 10, .none⟩, 0x1800,
          some ⟨false, 0x000801CC⟩⟩) 2
    ∧ decode 0x4000_4080_D204_0508 none
      = .instr (.pairWord ⟨false, ⟨.add, 1, 2, 3⟩, ⟨.fmul, 4, 5, 8⟩⟩) 1
    ∧ decode 0xC032_80B0_0000_0000 none = .illegal ⟨.headerInBody, 0xC03280B0, none⟩

/-- No bit of an encoding is dropped: for every well-formed instruction that has a word, with every operand at every value
that its encoding takes, decoding what it encodes to gives it back, with its length (03 R66 to R84). -/
def Obligations.DecodeOfEncode : Prop :=
  ∀ i : Instr, i.isWord = true → i.wf = true →
    decodeWords (encode i) = some (.instr i (encode i).length)

/-- What the decoder accepts is well formed, has a word, and is as long as the words that it took (03 R67, R77, R78). -/
def Obligations.DecodedIsWellFormed : Prop :=
  ∀ (w : DWord) (next : Option DWord) (i : Instr) (len : Nat), decode w next = .instr i len →
    i.wf = true ∧ i.isWord = true ∧ ((len = 1 ∧ encode i = [w]) ∨ (len = 2 ∧ ∃ n, next = some n ∧ encode i = [w, n]))

/-- A step that issues a word runs the instruction that its words decode to: when the next move is the word of a quadrant
whose slot a ready troupe holds, inside a block and below the run limit, and the words at its PC decode to `i`, the step
is `exec i` in the state that names the word's place and has used the translations of its fetches, followed by what passes
with every move (the clock, the log of a recorded launch). The word of a pending fault, which issues before all of these (18
R410), is decoded alike, and issues where no replay is under way. -/
def Obligations.StepRunsTheDecodedWord : Prop :=
  ∀ (s : State) (core quadrant : Nat) (rest : List Act) (r : TRef) (t : Troupe) (b : Block) (cl : Cluster) (la : Launch)
    (e : FEntry) (es : List FEntry) (fin w : DWord) (next : Option DWord) (i : Instr) (len : Nat),
    s.replay = none →
    ((s.agenda = .word core quadrant :: rest ∧ s.redos = [] ∧ s.slotOf core quadrant = some r)
      ∨ (s.agenda = rest ∧ s.redos.head? = some (core, quadrant, r))) → s.troupe? r = some t →
    s.block? r.cluster r.block = some b → s.cluster? r.cluster = some cl → s.launch? cl.launch = some la →
    t.frontier = e :: es → e.place = .body fin → t.status = .ready → s.mayIssue r.cluster = true →
    t.run.words < runLimit → s.fetchInstr b.core la.ctx e.pc fin = .ok (w, next) → decode w next = .instr i len →
    step s = afterMove s (.word core quadrant)
      (exec i { ({ s with agenda := rest }).useInstr b.core la.ctx e.pc fin with
        cur := some ⟨r, e.pc, hiOf w, (next.map hiOf).getD 0, len, decide (e.pc + BitVec.ofNat 64 (8 * len) = fin)⟩ })

/-- Whether memory, the memory of every checkpoint and the memory that a replay goes back to are in their canonical form (log
entry 2). -/
def Sys2Proof.Claims.Canonical (s : State) : Prop :=
  Machine.Memory.wf s.mem ∧ (∀ c ∈ s.checkpoints, Machine.Memory.wf c.mem)
    ∧ ∀ p : Machine.Replay, s.replay = some p → Machine.Memory.wf p.mem

/-- The canonical form of memory holds right after reset. -/
def Sys2Proof.Claims.MemoryIsCanonicalAtReset : Prop := Canonical State.reset

/-- Every step keeps the canonical form of memory: equal memories are equal data, in every state that has the form. -/
def Obligations.MemoryStaysCanonical : Prop :=
  ∀ s s' : State, Canonical s → step s = .next s' → Canonical s'

/-- Nothing that the manual describes stops the machine: an instruction answers a next state in every state, but for a word
that is executed where no troupe issues one, which is no moment of the hardware. -/
def Sys2Proof.Claims.OnlyAWordWithNoIssuerStops : Prop :=
  ∀ (i : Instr) (s : State), (∃ s', exec i s = .next s')
    ∨ (i.isWord = true ∧ s.env? = none ∧ exec i s = .fault .noIssuer)

/-- A run never stops: with no word on the agenda of events, and none that a replay makes as an event, each step answers a next
state (log entry 4). -/
def Sys2Proof.Claims.EveryStepAnswers : Prop :=
  ∀ s : State, (∀ i, s.agenda.head? = some (.ev i) → i.isWord = false) →
    (∀ p m i, s.replay = some p → p.todo.head? = some m → m.act = .ev i → i.isWord = false) → ∃ s', step s = .next s'

/-! ## Integer, logical and predicate ops (05) -/

namespace Sys2Proof.Claims

/-- The value whose elements are those of `f` on the elements of `a`, `b` and `c` (05 R124): `f` takes the signedness and
the width of the type. -/
def elements (ty : Nat) (f : Bool → (w : Nat) → BitVec w → BitVec w → BitVec w → BitVec w) (a b c : Nat) : Nat :=
  let w := slotBits ty
  joinElems w ((List.range (eplOf ty)).map (fun j =>
    (f (typeSigned ty) w (BitVec.ofNat w (elemOf w a j)) (BitVec.ofNat w (elemOf w b j)) (BitVec.ofNat w (elemOf w c j))).toNat))

/-- The effect of a result: once to an s register when the op is uniform, otherwise to the v register in each selected
lane; a 64-bit result takes a pair (03 R80, R81; 05 R110). -/
def resultEffect (t : Troupe) (uniform wide : Bool) (o : Op) (val : Nat → Nat) : Effect :=
  let word (k : Nat) (l : Nat) : Word := BitVec.ofNat 32 (val l / 2 ^ (32 * k))
  let regs := (List.range (if wide then 2 else 1)).map word
  if uniform then (Effect.none t).toS t true o.w o.dst.toNat (regs.map (fun g => g 0))
  else (Effect.none t).toV t o.w o.dst.toNat (t.selected o.guard) regs []

/-- A single op completes with the result `val` of a lane. -/
def Results (i : Instr) (code : Nat) (s : State) (x : Env) (o : Op) (hdr : DWord) (val : Nat → Nat) : Prop :=
  Completes i s x (ends code o x) 1 hdr (resultEffect x.t (uniformOp code x.t o) (type64 (tyOf code o)) o val)

/-- An op of R123 or R130 completes with the elements of `f` as its result, whenever its word takes effect. -/
def ElementsOf (i : Op → Instr) (code : Nat) (f : Bool → (w : Nat) → BitVec w → BitVec w → BitVec w → BitVec w) : Prop :=
  ∀ (s : State) (x : Env) (o : Op) (hdr : DWord), Runs s x code o hdr →
    Results (i o) code s x o hdr (fun l =>
      elements (tyOf code o) f (x.t.operand (tyOf code o) o o.a l) (x.t.operand (tyOf code o) o o.b l)
        (x.t.operand (tyOf code o) o o.srcC l))

end Sys2Proof.Claims

/-- The integer ops other than division write, in each element, the expression of 05 R123 reduced modulo 2^w, and change
nothing else of their troupe or the machine. -/
def Sys2Proof.Claims.IntegerResults : Prop :=
  ElementsOf .add 0x020 (fun _ _ a b _ => a + b) ∧ ElementsOf .sub 0x021 (fun _ _ a b _ => a - b)
    ∧ ElementsOf .addc 0x022 (fun _ w a b _ => BitVec.ofNat w (if 2 ^ w ≤ a.toNat + b.toNat then 1 else 0))
    ∧ ElementsOf .mul 0x023 (fun _ _ a b _ => a * b)
    ∧ ElementsOf .mulh 0x024 (fun signed w a b _ =>
        if signed then BitVec.ofInt w ((a.toInt * b.toInt) / 2 ^ w) else BitVec.ofNat w (a.toNat * b.toNat / 2 ^ w))
    ∧ ElementsOf .mad 0x025 (fun _ _ a b c => a * b + c)
    ∧ ElementsOf .min 0x028 (fun signed _ a b _ => if (if signed then b.slt a else b.ult a) then b else a)
    ∧ ElementsOf .max 0x029 (fun signed _ a b _ => if (if signed then a.slt b else a.ult b) then b else a)
    ∧ ElementsOf .abs 0x02A (fun _ _ a _ _ => if a.msb then -a else a)
    ∧ ElementsOf .neg 0x02B (fun _ _ a _ _ => -a)

/-- IDIV rounds the quotient toward zero and IREM has the sign of the dividend, with the table's values in the exceptional
cases; neither traps (05 R125). -/
def Sys2Proof.Claims.DivisionResults : Prop :=
  ElementsOf .idiv 0x026 (fun signed w a b _ =>
      if b = 0 then BitVec.allOnes w
      else if signed && a = BitVec.intMin w && b = BitVec.allOnes w then BitVec.intMin w
      else if signed then BitVec.ofInt w (Int.tdiv a.toInt b.toInt) else BitVec.ofNat w (a.toNat / b.toNat))
    ∧ ElementsOf .irem 0x027 (fun signed w a b _ =>
      if b = 0 then a
      else if signed && a = BitVec.intMin w && b = BitVec.allOnes w then 0
      else if signed then BitVec.ofInt w (Int.tmod a.toInt b.toInt) else BitVec.ofNat w (a.toNat % b.toNat))

/-- LEA forms the address (A + (ext(B) << C[5:0])) mod 2^64 in a pair (05 R127); B and C are read in the op type with their
modifiers, which is the model's reading (log entry 31). -/
def Sys2Proof.Claims.LeaFormsAnAddress : Prop :=
  ∀ (s : State) (x : Env) (o : Op) (hdr : DWord), Runs s x 0x02C o hdr →
    Completes (.lea o) s x (ends 0x02C o x) 1 hdr (resultEffect x.t (uniformOp 0x02C x.t o) true o (fun l =>
      let ty := tyOf 0x02C o
      let b : BitVec 32 := BitVec.ofNat 32 (x.t.operand ty o o.b l)
      let ext : BitVec 64 := if ty = 5 then b.signExtend 64 else b.setWidth 64
      (x.t.rawPair o.a l + ext <<< (x.t.operand ty o o.srcC l % 64)).toNat))

/-- MOVI writes the immediate and MOV its operand after the modifier; MOV of a v register also copies the whole scale tag when
a lane is selected, and with a 64-bit type a pair and both tags (05 R128; 04 R99); tag bytes beyond the blocks of the troupe
stay 0 (02 R46). I2I narrows, widens or saturates (R129). -/
def Sys2Proof.Claims.MovesAndIntegerConversion : Prop :=
  ∀ (s : State) (x : Env) (o : Op) (hdr : DWord),
    (Runs s x 0x02E o hdr → Completes (.movi o) s x (ends 0x02E o x) 1 hdr
      (resultEffect x.t (o.a.cls = .s) (type64 (tyOf 0x02E o)) o (fun _ => immValue (tyOf 0x02E o) o o.b)))
    ∧ (Runs s x 0x02D o hdr →
      let e := resultEffect x.t (uniformOp 0x02D x.t o) (type64 (tyOf 0x02D o)) o
        (fun l => x.t.operand (tyOf 0x02D o) o o.a l)
      let copies : Bool := !uniformOp 0x02D x.t o && x.t.selected o.guard ≠ 0
      let d := o.dst.toNat
      Completes (.mov o) s x (ends 0x02D o x) 1 hdr
        (match o.a.cls with
          | .v => if copies then { e with
              tag := fun r b => if o.w then e.tag r b
                else if r = d && b < 32 then x.t.readTag o.a.num.toNat b
                else if type64 (tyOf 0x02D o) && r = d + 1 && b < 32 then x.t.readTag (o.a.num.toNat + 1) b
                else e.tag r b
              latch := e.latch.map (fun y => { y with tag := (List.range 32).map (x.t.readTag o.a.num.toNat) }) } else e
          | .latch => if copies then { e with
              tag := fun r b => if !o.w && r = d && b < 32 && 4 * b < x.t.width then BitVec.ofNat 8 (x.t.srcTag o.a b)
                else e.tag r b
              latch := e.latch.map (fun y => { y with
                tag := (List.range 32).map (fun b => BitVec.ofNat 8 (x.t.srcTag o.a b)) }) } else e
          | _ => e))
    ∧ (Runs s x 0x02F o hdr → Results (.i2i o) 0x02F s x o hdr (fun l =>
      let td := tyOf 0x02F o
      let ts := formSrcType o % 16
      let v := intVal ts (x.t.operand ts o o.a l % 2 ^ typeBits ts)
      let lo : Int := if typeSigned td then -(2 ^ (typeBits td - 1)) else 0
      let hi : Int := if typeSigned td then 2 ^ (typeBits td - 1) - 1 else 2 ^ typeBits td - 1
      let r : Int := if o.b.imm11.getLsbD 4 then max lo (min hi v) else v
      let n : BitVec 64 := BitVec.ofInt 64 r
      if typeSigned td then ((n.setWidth (typeBits td)).signExtend (if type64 td then 64 else 32)).toNat
      else (n.setWidth (typeBits td)).toNat))

/-- The bitwise ops (05 R130). -/
def Sys2Proof.Claims.BitwiseResults : Prop :=
  ElementsOf .and 0x040 (fun _ _ a b _ => a &&& b) ∧ ElementsOf .or 0x041 (fun _ _ a b _ => a ||| b)
    ∧ ElementsOf .xor 0x042 (fun _ _ a b _ => a ^^^ b) ∧ ElementsOf .not 0x043 (fun _ _ a _ _ => ~~~a)

/-- The shifts, with the amount read as an unsigned w-bit value (05 R131). -/
def Sys2Proof.Claims.ShiftResults : Prop :=
  ElementsOf .shl 0x044 (fun _ w a b _ => if w ≤ b.toNat then 0 else a <<< b.toNat)
    ∧ ElementsOf .shr 0x045 (fun _ w a b _ => if w ≤ b.toNat then 0 else a >>> b.toNat)
    ∧ ElementsOf .sar 0x046 (fun _ w a b _ =>
        if w ≤ b.toNat then (if a.msb then BitVec.allOnes w else 0) else a.sshiftRight b.toNat)
    ∧ ElementsOf .rot 0x047 (fun _ w a b _ => a.rotateLeft (b.toNat % w))

/-- CLZ, POPC and BREV act within each element (05 R130, R133): the leading zeros, the one bits, and bit i moved to bit
w - 1 - i. -/
def Sys2Proof.Claims.BitCountResults : Prop :=
  ElementsOf .clz 0x048 (fun _ w a _ _ =>
      BitVec.ofNat w (((List.range w).find? (fun i => a.getLsbD (w - 1 - i))).getD w))
    ∧ ElementsOf .popc 0x049 (fun _ w a _ _ => BitVec.ofNat w ((List.range w).filter a.getLsbD).length)
    ∧ ElementsOf .brev 0x04A (fun _ _ a _ _ => a.reverse)

/-- BFX takes a field out and BFI puts one in, with pos = control [7:0], len = control [15:8] and len' = min(len, w - pos)
(05 R132), an 11-bit immediate control of a signed type sign-extended (02 R62); SEL selects per lane (R134). -/
def Sys2Proof.Claims.BitFieldAndSelectResults : Prop :=
  ∀ (s : State) (x : Env) (o : Op) (hdr : DWord),
    (Runs s x 0x04B o hdr → Results (.bfx o) 0x04B s x o hdr (fun l =>
      let ty := tyOf 0x04B o
      let w := typeBits ty
      let c := x.t.operand (if typeSigned ty then 5 else 6) o o.b l
      let pos := c % 256
      let len := min (c / 256 % 256) (w - pos)
      let a : BitVec w := BitVec.ofNat w (x.t.operand ty o o.a l)
      if c / 256 % 256 = 0 || w ≤ pos then 0
      else if typeSigned ty then ((a.extractLsb' pos len).signExtend w).toNat else (a.extractLsb' pos len).toNat))
    ∧ (Runs s x 0x04C o hdr → Results (.bfi o) 0x04C s x o hdr (fun l =>
      let ty := tyOf 0x04C o
      let w := typeBits ty
      let c := x.t.operand 6 o o.srcC l
      let pos := c % 256
      let len := min (c / 256 % 256) (w - pos)
      let a : BitVec w := BitVec.ofNat w (x.t.operand ty o o.a l)
      let b : BitVec w := BitVec.ofNat w (x.t.operand ty o o.b l)
      let mask : BitVec w := ((BitVec.allOnes len).setWidth w) <<< pos
      if c / 256 % 256 = 0 || w ≤ pos then a.toNat else ((a &&& ~~~mask) ||| ((b <<< pos) &&& mask)).toNat))
    ∧ (Runs s x 0x04D o hdr → Completes (.sel o) s x (ends 0x04D o x) 1 hdr
      (resultEffect x.t false (type64 (tyOf 0x04D o)) o (fun l =>
        if hasLane (x.t.predSrc o.srcC) l then x.t.operand (tyOf 0x04D o) o o.a l
        else x.t.operand (tyOf 0x04D o) o o.b l)))

/-- CMP writes a < b into p(d) and a = b into p(d+1) in every lane that its guard selects as it issues, the second discarded
when d + 1 = 7, whether its sources are v or s registers (05 R135); the predicate ops write their lanes (R136). -/
def Obligations.ComparesAndPredicates : Prop :=
  ∀ (s : State) (x : Env) (o : Op) (hdr : DWord),
    (Runs s x 0x060 o hdr →
      let ty := tyOf 0x060 o
      let a (l : Nat) : Int := intVal ty (x.t.operand ty o o.a l)
      let b (l : Nat) : Int := intVal ty (x.t.operand ty o o.b l)
      let sel := x.t.selected o.guard
      Completes (.cmp o) s x (ends 0x060 o x) 1 hdr
        (((Effect.none x.t).toP o.dst.toNat sel (maskWhere x.t.width (fun l => a l < b l))).toP (o.dst.toNat + 1) sel
          (maskWhere x.t.width (fun l => a l = b l))))
    ∧ (∀ (i : Op → Instr) (code : Nat) (f : Lanes → Lanes → Lanes),
      ((i = .pand ∧ code = 0x061 ∧ f = fun a b => a &&& b) ∨ (i = .por ∧ code = 0x062 ∧ f = fun a b => a ||| b)
        ∨ (i = .pxor ∧ code = 0x063 ∧ f = fun a b => a ^^^ b) ∨ (i = .pnot ∧ code = 0x064 ∧ f = fun a _ => ~~~a)) →
      Runs s x code o hdr → Completes (i o) s x (ends code o x) 1 hdr
        ((Effect.none x.t).toP o.dst.toNat (x.t.selected o.guard) (f (x.t.predSrc o.a) (x.t.predSrc o.b))))
    ∧ (Runs s x 0x065 o hdr → Completes (.pmov o) s x (ends 0x065 o x) 1 hdr
        ((Effect.none x.t).toP o.dst.toNat (x.t.selected o.guard)
          (if o.b.cls = .imm then (if o.b.imm11.getLsbD 0 then lanesBelow x.t.width else 0) else x.t.predSrc o.a)))

/-! ## Floating point (02, 06) -/

namespace Sys2Proof.Claims

/-- The exact value of a magnitude code of a format, as if the exponent range were unbounded above (02 R40, R41, R50). -/
def magnitude (T : Fmt) (c : Nat) : Dy :=
  if T = .mxi8 then ⟨c, -6⟩
  else if c < 2 ^ T.man then ⟨c, 1 - (T.bias : Int) - T.man⟩
  else ⟨(2 ^ T.man + c % 2 ^ T.man : Nat), ((c / 2 ^ T.man : Nat) : Int) - T.bias - T.man⟩

/-- Whether a < b, exactly. -/
def below (a b : Dy) : Bool := decide ((a.add b.neg).n < 0)

/-- Whether a = b, exactly. -/
def same (a b : Dy) : Bool := decide ((a.add b.neg).n = 0)

/-- The largest finite magnitude maxf of a format (02 R39, R54). -/
def maxf : Fmt → Dy
  | .fp32 => ⟨2 ^ 24 - 1, 104⟩ | .fp16 => ⟨65504, 0⟩ | .bf16 => ⟨255, 120⟩ | .e4m3 => ⟨448, 0⟩ | .e5m2 => ⟨57344, 0⟩
  | .e2m3 => ⟨15, -1⟩ | .e3m2 => ⟨28, 0⟩ | .e2m1 => ⟨6, 0⟩ | .mxi8 => ⟨127, -6⟩

/-- The order of FMIN and FMAX on values that are no NaNs: −0 below +0 (06 R143). -/
def under : FVal → FVal → Bool
  | .inf true, y => y ≠ .inf true
  | .inf false, _ => false
  | _, .inf s => !s
  | .fin s m e, y => below (FVal.fin s m e).dy y.dy || (same (FVal.fin s m e).dy y.dy && s && !y.isNeg)
  | .nan, _ => false

/-- A float op completes with `f` of each element of its sources (06 R138, R139): `f` takes the format, the rounding of the
element and the elements. -/
def FloatOf (i : Op → Instr) (code : Nat) (f : Fmt → Rnd → Nat → Nat → Nat → Nat) : Prop :=
  ∀ (s : State) (x : Env) (o : Op) (hdr : DWord), Runs s x code o hdr →
    Completes (i o) s x (ends code o x) 1 hdr (resultEffect x.t (uniformOp code x.t o) false o (fun l =>
      let ty := tyOf code o
      let w := slotBits ty
      let at_ (v j : Nat) : Nat := elemOf w v j
      let lane := if uniformOp code x.t o then lowestLane x.t.active else l
      joinElems w ((List.range (eplOf ty)).map (fun j =>
        f (fmtOf ty)
          (Rnd.at (rmode (fnRnd (fnField code o)) x.t.rnd) x.t.seed
            (((x.t.wid0 + BitVec.ofNat 64 lane).toNat * eplOf ty + j) % 2 ^ 64))
          (at_ (x.t.operand ty o o.a l) j) (at_ (x.t.operand ty o o.b l) j)
          (if threeSource code then at_ (x.t.operand ty o o.srcC l) j else 0)))))

/-- The effect of a conversion: AMAX takes the inputs, STICKY.OVF is set where a result was clamped (02 R54, R63). -/
def converting (t : Troupe) (e : Effect) (inputs : List FVal) (clamped : Bool) : Effect :=
  { e with amax := inputs.foldl amaxStep t.amax, sticky := if clamped then t.sticky ||| 1 else t.sticky }

/-- The effect of a block op: the codes in the selected lanes and the tag bytes of the blocks that have one (04 R99; 06
R150). -/
def blockEffect (t : Troupe) (o : Op) (ty epl : Nat) (out : BlockOut) : Effect :=
  (Effect.none t).toV t o.w o.dst.toNat (t.selected o.guard) [fun l => BitVec.ofNat 32 (out.lane ty epl l)] out.tags

end Sys2Proof.Claims

/-- Rounding a magnitude m · 2^e into a format picks one of its two neighbours among the magnitudes of the format, its
exponent range unbounded above: toward zero for RTZ, away from zero for RUP of a positive and RDN of a negative inexact
number, for RNE the nearer one, the even one of two that are equally near, and for RSR the upper one when
floor((|x| − |lo|) / ulp · 2^32) + u reaches 2^32 (02 R49 to R51). A magnitude code up to that of maxf stands for its exact
magnitude; beyond maxf, a format with infinities follows R50, every other format and sat give maxf and set STICKY.OVF (R40,
R41, R54). That RSR beyond maxf gives infinity only where its draw rounds away is the model's reading (log entry 84). -/
def Obligations.RoundingPicksANeighbour : Prop :=
  ∀ (T : Fmt) (neg : Bool) (m : Nat) (e : Int),
    let x : Dy := ⟨m, e⟩
    let lo := roundMag T ⟨.rtz, 0⟩ neg m e
    let dlo := x.add (magnitude T lo).neg
    let dhi := (magnitude T (lo + 1)).add x.neg
    let ulp := (magnitude T (lo + 1)).add (magnitude T lo).neg
    below x (magnitude T lo) = false ∧ below x (magnitude T (lo + 1)) = true
    ∧ (∀ r : Rnd, roundMag T r neg m e = lo ∨ roundMag T r neg m e = lo + 1)
    ∧ (∀ u, roundMag T ⟨.rtz, u⟩ neg m e = lo)
    ∧ (∀ u, roundMag T ⟨.rup, u⟩ neg m e = if !neg && below (magnitude T lo) x then lo + 1 else lo)
    ∧ (∀ u, roundMag T ⟨.rdn, u⟩ neg m e = if neg && below (magnitude T lo) x then lo + 1 else lo)
    ∧ (∀ u, roundMag T ⟨.rne, u⟩ neg m e
         = if below dlo dhi then lo else if below dhi dlo then lo + 1 else if lo % 2 = 0 then lo else lo + 1)
    ∧ (∀ u g : Nat, u < 2 ^ 32 → below (dlo.scale 32) (ulp.mul ⟨g, 0⟩) = false →
        below (dlo.scale 32) (ulp.mul ⟨g + 1, 0⟩) = true →
        roundMag T ⟨.rsr, u⟩ neg m e = if 2 ^ 32 ≤ g + u then lo + 1 else lo)
    ∧ same (magnitude T T.maxMag) (maxf T) = true
    ∧ (∀ c, c ≤ T.maxMag → ∃ k i, decodeF T (signed T neg c) = .fin (neg && (c ≠ 0 || T ≠ .mxi8)) k i
        ∧ same ⟨k, i⟩ (magnitude T c) = true)
    ∧ (T.hasInf = true → decodeF T (signed T neg T.infMag) = .inf neg)
    ∧ (∀ r : Rnd,
        let c := roundMag T r neg m e
        (c ≤ T.maxMag → rndF T r neg m e = (signed T neg c, false) ∧ rndSat T r neg m e = (signed T neg c, false))
        ∧ (T.maxMag < c → rndSat T r neg m e = (signed T neg T.maxMag, true)
          ∧ (T.hasInf = false → rndF T r neg m e = (signed T neg T.maxMag, true))
          ∧ (T.hasInf = true → rndF T r neg m e = (signed T neg (match r.mode, neg with
              | .rne, _ => T.infMag
              | .rsr, _ => T.infMag
              | .rtz, _ => T.maxMag
              | .rup, n => if n then T.maxMag else T.infMag
              | .rdn, n => if n then T.infMag else T.maxMag), false))))

/-- The float arithmetic ops write, in each element, the rounded sum, difference, product or fused product and sum; FRND
rounds to an integral value (06 R140 to R142, R147). The part on exact values says what these functions are. -/
def Sys2Proof.Claims.FloatArithmeticResults : Prop :=
  FloatOf .fadd 0x080 (fun T r a b _ => addF T r a b) ∧ FloatOf .fsub 0x081 (fun T r a b _ => subF T r a b)
    ∧ FloatOf .fmul 0x082 (fun T r a b _ => mulF T r a b) ∧ FloatOf .fma 0x083 (fun T r a b c => fmaF T r a b c)
    ∧ FloatOf .hfma2 0x08E (fun T r a b c => fmaF T r a b c) ∧ FloatOf .hadd2 0x08F (fun T r a b _ => addF T r a b)
    ∧ FloatOf .bfma2 0x090 (fun T r a b c => fmaF T r a b c)
    ∧ FloatOf .frnd 0x08A (fun T r a _ _ => roundIntegralF T r a)

/-- In FP32, FP16 and BF16: a NaN operand gives the first one quieted (02 R58), ∞ − ∞ the NaN of cause 3 and 0 × ∞ that of
cause 4 (R57; 06 R140); a finite sum, product or fused value is the exact one rounded once, with the zero signs of R140 (R142);
FRND rounds to a multiple of 1 (R147); FMIN gives the lesser operand and FMAX the greater, −0 below +0 (R143). -/
def Sys2Proof.Claims.FloatValues : Prop :=
  ∀ (T : Fmt) (r : Rnd) (a b c : Nat), (T = .fp32 ∨ T = .fp16 ∨ T = .bf16) → a < 2 ^ T.bits → b < 2 ^ T.bits → c < 2 ^ T.bits →
    let va := decodeF T a
    let vb := decodeF T b
    let vc := decodeF T c
    let rnd (x : Dy) : Nat := (rndF T r (decide (x.n < 0)) x.n.natAbs x.e).1
    let zero (allNeg allPos : Bool) : Nat := signed T (allNeg || (!allPos && r.mode = .rdn)) 0
    let q (n : Nat) : Nat := n ||| 2 ^ (T.man - 1)
    let sign := Bool.xor va.isNeg vb.isNeg
    (va.isNan = true → addF T r a b = q a ∧ subF T r a b = q a ∧ mulF T r a b = q a ∧ fmaF T r a b c = q a
      ∧ minF T a b = q a ∧ maxF T a b = q a ∧ roundIntegralF T r a = q a)
    ∧ (va.isNan = false → vb.isNan = true → addF T r a b = q b ∧ subF T r a b = q b ∧ mulF T r a b = q b
      ∧ fmaF T r a b c = q b ∧ minF T a b = q b ∧ maxF T a b = q b)
    ∧ (va.isNan = false → vb.isNan = false → vc.isNan = true → fmaF T r a b c = q c)
    ∧ (va.isNan = false → vb.isNan = false → subF T r a b = addF T r a (b ^^^ T.signBit))
    ∧ (∀ s s', va = .inf s → vb = .inf s' → addF T r a b = if s = s' then a else nanc 3 T)
    ∧ (∀ s, va = .inf s → vb.isNan = false → vb.isInf = false → addF T r a b = a ∧ addF T r b a = a)
    ∧ (∀ s m i s' m' i', va = .fin s m i → vb = .fin s' m' i' →
        let x := va.dy.add vb.dy
        addF T r a b = if x.n = 0 then zero (m = 0 && m' = 0 && s && s') (m = 0 && m' = 0 && !s && !s') else rnd x)
    ∧ (va.isInf = true → vb.isZero = true → mulF T r a b = nanc 4 T ∧ mulF T r b a = nanc 4 T)
    ∧ (va.isInf = true → vb.isNan = false → vb.isZero = false →
        mulF T r a b = signed T sign T.infMag ∧ mulF T r b a = signed T sign T.infMag)
    ∧ (∀ s m i s' m' i', va = .fin s m i → vb = .fin s' m' i' → mulF T r a b = (rndF T r sign (m * m') (i + i')).1)
    ∧ (vc.isNan = false → ((va.isInf = true ∧ vb.isZero = true) ∨ (va.isZero = true ∧ vb.isInf = true)) →
        fmaF T r a b c = nanc 4 T)
    ∧ (va.isNan = false → vb.isNan = false → va.isZero = false → vb.isZero = false → (va.isInf = true ∨ vb.isInf = true) →
        vc.isNan = false → fmaF T r a b c = if vc = .inf (!sign) then nanc 3 T else signed T sign T.infMag)
    ∧ (∀ s m i s' m' i', va = .fin s m i → vb = .fin s' m' i' → vc.isInf = true → fmaF T r a b c = c)
    ∧ (∀ s m i s' m' i' s'' m'' i'', va = .fin s m i → vb = .fin s' m' i' → vc = .fin s'' m'' i'' →
        let x := (va.dy.mul vb.dy).add vc.dy
        let z : Bool := m * m' = 0 && m'' = 0
        fmaF T r a b c = if x.n = 0 then zero (z && sign && s'') (z && !sign && !s'') else rnd x)
    ∧ ((va.isInf = true ∨ va.isZero = true) → roundIntegralF T r a = a)
    ∧ (∀ s m i, va = .fin s m i → 0 ≤ i → roundIntegralF T r a = a)
    ∧ (∀ s m i, va = .fin s m i → m ≠ 0 → i < 0 →
        roundIntegralF T r a = (rndF T ⟨.rne, 0⟩ s (if roundsAway r s (m / 2 ^ (-i).toNat) (m % 2 ^ (-i).toNat) (-i).toNat
          then m / 2 ^ (-i).toNat + 1 else m / 2 ^ (-i).toNat) 0).1)
    ∧ (va.isNan = false → vb.isNan = false →
        minF T a b = (if under vb va then b else a) ∧ maxF T a b = (if under va vb then b else a))

/-- FABS clears and FNEG inverts the sign bit of each element and change no other bit (06 R144); FMIN and FMAX return one
of the operands, or the first NaN quieted (R143); FCLASS writes a mask with one bit set (R146). -/
def Sys2Proof.Claims.FloatSelectionResults : Prop :=
  FloatOf .fabs 0x086 (fun T _ a _ _ => (BitVec.ofNat T.bits a &&& ~~~(BitVec.ofNat T.bits T.signBit)).toNat)
    ∧ FloatOf .fneg 0x087 (fun T _ a _ _ => (BitVec.ofNat T.bits a ^^^ BitVec.ofNat T.bits T.signBit).toNat)
    ∧ FloatOf .fmin 0x084 (fun T _ a b _ => minF T a b) ∧ FloatOf .fmax 0x085 (fun T _ a b _ => maxF T a b)
    ∧ FloatOf .fclass 0x089 (fun T _ a _ _ => classF T a)
    ∧ (∀ T a b, firstNan T [a, b] = none →
        (minF T a b = a ∨ minF T a b = b) ∧ (maxF T a b = a ∨ maxF T a b = b)
        ∧ (minF T a b = a ∧ maxF T a b = b ∨ minF T a b = b ∧ maxF T a b = a))
    ∧ (∀ T c, ∃ k, k < 10 ∧ classF T c = 2 ^ k)

/-- FCMP writes two predicates, both false when an operand is a NaN, in every selected lane (06 R145); F2I rounds to the
integer grid and clamps, setting STICKY.OVF on a clamp or a NaN, and I2F rounds to FP32 (R149). Neither touches AMAX. -/
def Sys2Proof.Claims.FloatComparesAndIntegerConversions : Prop :=
  ∀ (s : State) (x : Env) (o : Op) (hdr : DWord),
    (Runs s x 0x088 o hdr →
      let a (l : Nat) : Nat := x.t.operand 11 o o.a l
      let b (l : Nat) : Nat := x.t.operand 11 o o.b l
      let sel := x.t.selected o.guard
      Completes (.fcmp o) s x (ends 0x088 o x) 1 hdr
        (((Effect.none x.t).toP o.dst.toNat sel (maskWhere x.t.width (fun l => ltF .fp32 (a l) (b l)))).toP
          (o.dst.toNat + 1) sel (maskWhere x.t.width (fun l => eqF .fp32 (a l) (b l)))))
    ∧ (Runs s x 0x08C o hdr →
      let ty := tyOf 0x08C o
      let u := uniformOp 0x08C x.t o
      let f (l : Nat) : Int × Bool := toIntF
        (x.t.rounding (fnRnd o.c) (x.t.elemIndex (if u then lowestLane x.t.active else l) 1 0))
        (if typeSigned ty then -(2 ^ (typeBits ty - 1)) else 0)
        (if typeSigned ty then 2 ^ (typeBits ty - 1) - 1 else 2 ^ typeBits ty - 1) (x.t.operand 11 o o.a l)
      Completes (.f2i o) s x (ends 0x08C o x) 1 hdr
        (converting x.t (resultEffect x.t u (type64 ty) o (fun l => ((f l).1 % 2 ^ typeBits ty).toNat)) []
          ((if u then [0] else lanesOf x.t.width (x.t.selected o.guard)).any (fun l => (f l).2))))
    ∧ (Runs s x 0x08D o hdr →
      let u := uniformOp 0x08D x.t o
      Completes (.i2f o) s x (ends 0x08D o x) 1 hdr
        (resultEffect x.t u false o (fun l => ofIntF
          (x.t.rounding (fnRnd o.c) (x.t.elemIndex (if u then lowestLane x.t.active else l) 1 0))
          (intVal (tyOf 0x08D o) (x.t.operand (tyOf 0x08D o) o o.a l)))))

/-- What FCMP, F2I and I2F compute: a < b and a = b by value, with −0 equal to +0 and both false of a NaN (06 R145); a value
rounded to a multiple of 1 and clamped, which STICKY.OVF records as it does a NaN; and an integer below 2^24 exactly (R149). -/
def Sys2Proof.Claims.ComparedAndClampedValues : Prop :=
  ∀ (a b : Nat), a < 2 ^ 32 → b < 2 ^ 32 →
    let va := decodeF .fp32 a
    let vb := decodeF .fp32 b
    let d := va.dy.add vb.dy.neg
    (va.isNan = true ∨ vb.isNan = true → ltF .fp32 a b = false ∧ eqF .fp32 a b = false)
    ∧ (∀ s m i s' m' i', va = .fin s m i → vb = .fin s' m' i' →
        ltF .fp32 a b = decide (d.n < 0) ∧ eqF .fp32 a b = decide (d.n = 0))
    ∧ (∀ s, va = .inf s → vb.isNan = false → ltF .fp32 a b = (s && vb ≠ .inf true)
        ∧ ltF .fp32 b a = (!s && vb ≠ .inf false) ∧ eqF .fp32 a b = decide (vb = .inf s))
    ∧ (∀ (r : Rnd) (lo hi : Int), lo ≤ hi →
      (va.isNan = true → toIntF r lo hi a = (0, true))
      ∧ (∀ s, va = .inf s → toIntF r lo hi a = (if s then lo else hi, true))
      ∧ (∀ s m i, va = .fin s m i →
        let n := (-i).toNat
        let k := if 0 ≤ i then m * 2 ^ i.toNat
          else if roundsAway r s (m / 2 ^ n) (m % 2 ^ n) n then m / 2 ^ n + 1 else m / 2 ^ n
        let v : Int := if s then -(k : Int) else k
        toIntF r lo hi a = (max lo (min hi v), decide (v < lo ∨ hi < v))))
    ∧ (∀ (r : Rnd) (v : Int), v.natAbs < 2 ^ 24 → same (decodeF .fp32 (ofIntF r v)).dy ⟨v, 0⟩ = true)

/-- What a conversion between formats outside a block computes: the value rounded (02 R50), an infinity or the largest finite
value with STICKY.OVF, and of a NaN the sign with the payload bits that fit, or the target's NaN, or zero with STICKY.OVF (R57,
R59). -/
def Sys2Proof.Claims.ConvertedValues : Prop :=
  ∀ (S T : Fmt) (r : Rnd) (c : Nat), c < 2 ^ S.bits → S.hasInf = true ∨ S = .e4m3 →
    let v := decodeF S c
    let wide (F : Fmt) : Prop := F = .fp32 ∨ F = .fp16 ∨ F = .bf16
    let neg : Bool := c.testBit (S.bits - 1)
    let signedBy (m : Nat) : Nat := (if neg then 2 ^ (T.bits - 1) else 0) + m
    (∀ s m e, v = .fin s m e → convF S T r c = rndF T r s m e)
    ∧ (∀ s, v = .inf s → convF S T r c = if T.hasInf then (signed T s T.infMag, false) else (signed T s T.maxMag, true))
    ∧ (v.isNan = true →
      (wide T → ∃ n, convF S T r c = (signedBy n, false) ∧ n < 2 ^ (T.bits - 1)
        ∧ (wide S → n = nanc 0 T + c % 2 ^ (min S.man T.man - 1)) ∧ (¬ wide S → n = nanc 6 T))
      ∧ (T = .e4m3 → convF S T r c = (signedBy 0x7F, false)) ∧ (T = .e5m2 → convF S T r c = (signedBy 0x7E, false))
      ∧ (T = .e2m3 ∨ T = .e3m2 ∨ T = .e2m1 ∨ T = .mxi8 → convF S T r c = (0, true)))

/-- FCVT converts each element, updates AMAX with the source values of the selected lanes, and between MX formats writes
whole blocks with new tag bytes (06 R148). -/
def Sys2Proof.Claims.FcvtResults : Prop :=
  ∀ (s : State) (x : Env) (o : Op) (hdr : DWord), Runs s x 0x08B o hdr →
    let ts := formSrcType o
    let td := tyOf 0x08B o
    let u := uniformOp 0x08B x.t o
    (typeMx ts = false →
      let n (l : Nat) : Nat := (fcvtSource o ts td x.t l).length
      Completes (.fcvt o) s x (ends 0x08B o x) 1 hdr
        (converting x.t (resultEffect x.t u (decide (ts ≠ 11 ∧ td = 11)) o (fun l =>
            joinElems (if ts ≠ 11 ∧ td = 11 then 32 else slotBits td) ((List.range (n l)).map (fun j =>
              fcvtElem ts td (x.t.rounding (fnRnd o.c)
                (x.t.elemIndex (if u then lowestLane x.t.active else l) (n l) j)) ((fcvtSource o ts td x.t l).getD j 0)))))
          ((x.t.usedLanes u o).flatMap (fun l => (fcvtSource o ts td x.t l).map (decodeF (fmtOf ts)))) false))
    ∧ (typeMx ts = true →
      let out := overBlocks x.t 4 (x.t.selected o.guard) (fun _ es =>
        quantBlock (fmtOf td) (o.b.imm11.getLsbD 5) (es.map (fun e =>
          ((mxValues x.t o o.a ts e.1).getD e.2 (.fin false 0 0),
            x.t.rounding (fnRnd o.c) (x.t.elemIndex e.1 4 e.2)))))
      Completes (.fcvt o) s x (ends 0x08B o x) 1 hdr
        (converting x.t (blockEffect x.t o td 4 out)
          ((lanesOf x.t.width (x.t.selected o.guard)).flatMap (fun l => mxValues x.t o o.a ts l)) out.ovf))

/-- BMAX writes each block's largest magnitude to its selected lanes; BSCALE writes tag bytes alone; BQUANT quantises
FP32 groups, BDEQ dequantises into them, BRESCALE changes scales (06 R152 to R156). -/
def Sys2Proof.Claims.BlockOpResults : Prop :=
  ∀ (s : State) (x : Env) (o : Op) (hdr : DWord),
    let t := x.t
    let sel := t.selected o.guard
    (Runs s x 0x0A0 o hdr →
      let ty := tyOf 0x0A0 o
      let g := 2 ^ ((bValue o).toNat % 4)
      let epl := eplOf ty * g
      let lanes (b : Nat) : List Nat := (lanesInBlock t.width epl b).filter (hasLane sel)
      Completes (.bmax o) s x (ends 0x0A0 o x) 1 hdr ((Effect.none t).toV t o.w o.dst.toNat sel [fun l =>
        BitVec.ofNat 32 (if (lanes (l / blockLanes epl)).isEmpty then 0
          else bmaxOf (fmtOf ty) ((lanes (l / blockLanes epl)).flatMap (groupElems t o.a ty g)))] []))
    ∧ (Runs s x 0x0A1 o hdr →
      let ty := tyOf 0x0A1 o
      Completes (.bscale o) s x (ends 0x0A1 o x) 1 hdr ((Effect.none t).toV t o.w o.dst.toNat sel
        [fun l => t.readV o.dst.toNat l]
        ((blocksWith t (eplOf ty) sel).map (fun b => (b, BitVec.ofNat 8 (bscaleCode (fmtOf ty) ((bValue o).getLsbD 1)
          (((lanesInBlock t.width (eplOf ty) b).filter (hasLane sel)).map (fun l => decodeF .fp32 (t.rawSrc o.a l)))))))))
    ∧ (Runs s x 0x0A2 o hdr →
      let ty := tyOf 0x0A2 o
      let val (e : Nat × Nat) : FVal := decodeF .fp32 (groupReg t o.a e.2 e.1)
      let out := overBlocks t (eplOf ty) sel (fun b es =>
        bquantBlock (fmtOf ty) ((bValue o).getLsbD 0) ((bValue o).getLsbD 1) (t.readTag o.dst.toNat b).toNat
          (es.map (fun e => (val e, t.rounding (fnRnd o.c) (t.elemIndex e.1 (eplOf ty) e.2)))))
      Completes (.bquant o) s x (ends 0x0A2 o x) 1 hdr (converting t (blockEffect t o ty (eplOf ty) out)
        ((blocksWith t (eplOf ty) sel).flatMap (fun b => (blockElems t (eplOf ty) b sel).map val)) out.ovf))
    ∧ (Runs s x 0x0A3 o hdr →
      let ty := tyOf 0x0A3 o
      Completes (.bdeq o) s x (ends 0x0A3 o x) 1 hdr ((Effect.none t).toV t o.w o.dst.toNat sel
        ((List.range (eplOf ty)).map (fun j l => if hasLane sel l then
          BitVec.ofNat 32 (bdeqElem (fmtOf ty) (t.rounding (fnRnd o.c) (t.elemIndex l (eplOf ty) j))
            (elemOf (slotBits ty) (t.rawSrc o.a l) j) (t.srcTag o.a (l / blockLanes (eplOf ty)))) else 0)) []))
    ∧ (Runs s x 0x0A4 o hdr →
      let ty := tyOf 0x0A4 o
      let code (e : Nat × Nat) : Nat := elemOf (slotBits ty) (t.rawSrc o.a e.1) e.2 % 2 ^ (fmtOf ty).bits
      let out := overBlocks t (eplOf ty) sel (fun b es =>
        brescaleBlock (fmtOf ty) (t.srcTag o.a b) (toSigned 32 (t.operand 5 o o.b 0))
          (es.map (fun e => (code e, t.rounding (fnRnd o.c) (t.elemIndex e.1 (eplOf ty) e.2)))))
      Completes (.brescale o) s x (ends 0x0A4 o x) 1 hdr (converting t (blockEffect t o ty (eplOf ty) out)
        ((blocksWith t (eplOf ty) sel).flatMap (fun b =>
          brescaleInputs (fmtOf ty) (t.srcTag o.a b) ((blockElems t (eplOf ty) b sel).map code))) out.ovf))

/-- DOT4, DOT8 and DOT2H add one lane's products to an FP32 accumulator under the scales of its block (06 R157; 02 R60,
R61); AMAXRD reads AMAX into an s register and clears it with CLR, AMAXCLR clears it (R158). -/
def Sys2Proof.Claims.DotAndAmaxResults : Prop :=
  ∀ (s : State) (x : Env) (o : Op) (hdr : DWord),
    let t := x.t
    (∀ (i : Op → Instr) (code : Nat), ((i = .dot4 ∧ code = 0x0A5) ∨ (i = .dot8 ∧ code = 0x0A6)) → Runs s x code o hdr →
      let ty := tyOf code o
      let n := eplOf ty
      let w := slotBits ty
      Completes (i o) s x (ends code o x) 1 hdr (resultEffect t false false o (fun l =>
        let b := l / blockLanes n
        dotBlock (fmtOf ty) (fmtOf ty) (t.srcTag o.a b) [t.srcTag o.b b]
          ((List.range n).map (fun j => ⟨elemOf w (t.rawSrc o.a l) j, elemOf w (t.rawSrc o.b l) j, t.srcTag o.b b⟩))
          (t.operand 11 o o.srcC l))))
    ∧ (Runs s x 0x0A7 o hdr →
      let ty := tyOf 0x0A7 o
      Completes (.dot2h o) s x (ends 0x0A7 o x) 1 hdr (resultEffect t false false o (fun l =>
        dotBlock (fmtOf ty) (fmtOf ty) 127 [127]
          ((List.range 2).map (fun j => ⟨elemOf 16 (t.operand ty o o.a l) j, elemOf 16 (t.operand ty o o.b l) j, 127⟩))
          (t.operand 11 o o.srcC l))))
    ∧ (Runs s x 0x0A8 o hdr → Completes (.amaxrd o) s x (ends 0x0A8 o x) 1 hdr
        { (Effect.none t).toS t true o.w o.dst.toNat [t.amax] with amax := if (bValue o).getLsbD 0 then 0 else t.amax })
    ∧ (Runs s x 0x0A9 o hdr → Completes (.amaxclr o) s x (ends 0x0A9 o x) 1 hdr { Effect.none t with amax := 0 })

namespace Sys2Proof.Claims

/-- One element of a block under the block exponent `x`: its code, and whether it sets STICKY.OVF (02 R56). -/
def element (T : Fmt) (x : Int) (v : FVal × Rnd) : Nat × Bool :=
  match v.1 with
  | .nan => (0, false)
  | .inf s => if T = .e5m2 then (signed T s T.infMag, false) else (signed T s T.maxMag, true)
  | .fin s m e => rndSat T v.2 s m (e - x)

/-- The block holds the elements `vs` under the block exponent `x`. -/
def HoldsUnder (T : Fmt) (q : QBlock) (x : Int) (vs : List (FVal × Rnd)) : Prop :=
  q = ⟨vs.map (fun v => (element T x v).1), (x + 127).toNat, vs.any (fun v => (element T x v).2)⟩

/-- A block with a NaN in it, of `n` elements (02 R56). -/
def nanBlock (n : Nat) : QBlock := ⟨List.replicate n 0, 0xFF, false⟩

end Sys2Proof.Claims

/-- What the block-aware ops compute. A block of largest magnitude a is quantised under the exponent X that R55 gives, where
2^(X + emax) ≤ a < 2^(X + emax + 1), or with FIT the least X for which a does not exceed maxf · 2^X, within −127 and 127; a NaN
makes the whole block a NaN (02 R55, R56). BSCALE gives the scale that this quantisation gives, and BQUANT without AUTO the same
block under it (06 R153, R154). BRESCALE re-expresses the values of a block under the clamped scale (R156), BDEQ rounds each
(R155), and BMAX gives the largest magnitude, or the first NaN (R152). -/
def Sys2Proof.Claims.BlockValues : Prop :=
  (∀ T : Fmt, T.isMx = true →
    (∀ (fit : Bool) (vs : List (FVal × Rnd)),
      let q := quantBlock T fit vs
      let x : Int := (q.scale : Int) - 127
      let nan := ∃ v ∈ vs, v.1.isNan = true
      (nan → q = nanBlock vs.length ∧ bscaleCode T fit (vs.map (·.1)) = 0xFF)
      ∧ (¬ nan → -127 ≤ x ∧ x ≤ 127 ∧ HoldsUnder T q x vs ∧ bscaleCode T fit (vs.map (·.1)) = q.scale
        ∧ (∀ f, bquantBlock T false f q.scale vs = q)
        ∧ ((∀ v ∈ vs, v.1.isZero = true) → q.scale = 0)
        ∧ ((∃ v ∈ vs, v.1.isInf = true) → q.scale = 254)
        ∧ (∀ s m e r, (FVal.fin s m e, r) ∈ vs → m ≠ 0 →
          let a : Dy := ⟨m, e⟩
          (∀ v ∈ vs, v.1.isInf = false ∧ below a v.1.abs.dy = false) →
          (fit = false → (x < 127 → below a ⟨1, x + T.emax + 1⟩ = true) ∧ (-127 < x → below a ⟨1, x + T.emax⟩ = false))
          ∧ (fit = true → (x < 127 → below ((maxf T).scale x) a = false)
            ∧ (-127 < x → below ((maxf T).scale (x - 1)) a = true))))
      ∧ (∀ old, old = 0xFF ∨ nan → bquantBlock T false fit old vs = nanBlock vs.length)
      ∧ (∀ old, old < 0xFF → ¬ nan → HoldsUnder T (bquantBlock T false fit old vs) ((old : Int) - 127) vs)
      ∧ ∀ old, bquantBlock T true fit old vs = q)
    ∧ (∀ (sc : Nat) (delta : Int) (cs : List (Nat × Rnd)), sc < 256 → (∀ c ∈ cs, c.1 < 2 ^ T.bits) →
      let q := brescaleBlock T sc delta cs
      let nan := sc = 0xFF ∨ ∃ c ∈ cs, isNanF T c.1 = true
      (nan → q = nanBlock cs.length)
      ∧ (¬ nan → HoldsUnder T q (max 0 (min 254 ((sc : Int) + delta)) - 127) (cs.map (fun c => (dq T c.1 sc, c.2)))))
    ∧ (∀ (r : Rnd) (c sc : Nat), let v := decodeF T c
      (sc = 0xFF → bdeqElem T r c sc = nanc 2 .fp32)
      ∧ (sc ≠ 0xFF → (v.isNan = true → bdeqElem T r c sc = nanc 1 .fp32)
        ∧ (∀ s, v = .inf s → bdeqElem T r c sc = signed .fp32 s 0x7F800000)
        ∧ ∀ s m e, v = .fin s m e → bdeqElem T r c sc = (rndF .fp32 r s m (e + sc - 127)).1)))
  ∧ (∀ (T : Fmt) (cs : List Nat), (T = .fp32 ∨ T = .fp16 ∨ T = .bf16) → (∀ c ∈ cs, c < 2 ^ T.bits) →
    let out := decodeF .fp32 (bmaxOf T cs)
    (∀ pre c post, cs = pre ++ c :: post → isNanF T c = true → (∀ y ∈ pre, isNanF T y = false) →
      bmaxOf T cs = (convF T .fp32 Rnd.rne (c ||| 2 ^ (T.man - 1))).1)
    ∧ ((∀ c ∈ cs, isNanF T c = false) →
      ((∃ c ∈ cs, (decodeF T c).isInf = true) → out = .inf false)
      ∧ ((∀ c ∈ cs, (decodeF T c).isInf = false) → cs ≠ [] → out.isInf = false ∧ out.isNan = false
        ∧ (∃ c ∈ cs, same out.dy (decodeF T c).abs.dy = true) ∧ ∀ c ∈ cs, below out.dy (decodeF T c).abs.dy = false)))

/-- What the dot products and matrix steps add (02 R60, R61; 12 R290): the outcomes of R61 in their order, and otherwise the
exact sum of the products, scaled, added to the accumulator and rounded once to nearest, an exact zero sum leaving the accumulator
as it is. -/
def Sys2Proof.Claims.DotValues : Prop :=
  ∀ (TA TB : Fmt) (sa : Nat) (scalesB : List Nat) (es : List DotElem) (acc : Nat),
    let out := dotBlock TA TB sa scalesB es acc
    let a (d : DotElem) : FVal := decodeF TA d.a
    let b (d : DotElem) : FVal := decodeF TB d.b
    let given (T : Fmt) (c : Nat) : Nat := if T.isMx then nanc 1 .fp32 else (convNan T .fp32 c).1
    (sa = 0xFF ∨ 0xFF ∈ scalesB → out = nanc 2 .fp32)
    ∧ (sa ≠ 0xFF → 0xFF ∉ scalesB →
      (∀ pre d post, es = pre ++ d :: post → (a d).isNan = true → (∀ y ∈ pre, (a y).isNan = false) → out = given TA d.a)
      ∧ ((∀ y ∈ es, (a y).isNan = false) → ∀ pre d post, es = pre ++ d :: post → (b d).isNan = true →
        (∀ y ∈ pre, (b y).isNan = false) → out = given TB d.b)
      ∧ ((∀ y ∈ es, (a y).isNan = false ∧ (b y).isNan = false) →
        let v := decodeF .fp32 acc
        let clash (d : DotElem) : Prop := ((a d).isInf = true ∧ (b d).isZero = true) ∨ ((a d).isZero = true ∧ (b d).isInf = true)
        let inf (s : Bool) : Prop := ∃ d ∈ es, ((a d).isInf = true ∨ (b d).isInf = true) ∧ Bool.xor (a d).isNeg (b d).isNeg = s
        (v.isNan = true → out = acc)
        ∧ (v.isNan = false → (∃ d ∈ es, clash d) → out = nanc 4 .fp32)
        ∧ (v.isNan = false → (∀ d ∈ es, ¬ clash d) →
          (inf true → inf false → out = nanc 3 .fp32)
          ∧ (∀ s, inf s → ¬ inf (!s) → out = if v = .inf (!s) then nanc 3 .fp32 else signed .fp32 s 0x7F800000)
          ∧ (¬ inf true → ¬ inf false →
            let p : Dy := es.foldl (fun p d => p.add (((a d).dy.mul (b d).dy).scale ((d.sb : Int) - 127))) ⟨0, 0⟩
            let y := v.dy.add (p.scale ((sa : Int) - 127))
            (v.isInf = true ∨ p.n = 0 → out = acc)
            ∧ (v.isInf = false → p.n ≠ 0 →
              out = if y.n = 0 then 0 else (rndF .fp32 Rnd.rne (decide (y.n < 0)) y.n.natAbs y.e).1)))))

/-- The special operands and exact results of the special functions (06 R161, R162; 02 R57, R58): NaNs quieted, the table of
R161, exact powers of two and squares, and the rules of EXB in their order. A result that is not exact is the model's rounding
of the exact value (log entry 7), of which nothing is said here. -/
def Sys2Proof.Claims.SpecialValues : Prop :=
  ∀ a : Nat, a < 2 ^ 32 →
    let v := decodeF .fp32 a
    let pow (neg : Bool) (n : Nat) (k : Int) : Nat := (rndF .fp32 ⟨.rne, 0⟩ neg n k).1
    let inf (neg : Bool) : Nat := signed .fp32 neg 0x7F800000
    let zero (neg : Bool) : Nat := signed .fp32 neg 0
    let one (neg : Bool) : Nat := signed .fp32 neg 0x3F800000
    (v.isNan = true → ∀ f ∈ [lg2F, rcpF, rsqF, sqtF, sinF, cosF, tanhF], f a = a ||| 2 ^ 22)
    ∧ (v = .inf true → lg2F a = nanc 5 .fp32 ∧ rcpF a = zero true ∧ rsqF a = nanc 5 .fp32 ∧ sqtF a = nanc 5 .fp32
      ∧ sinF a = nanc 5 .fp32 ∧ cosF a = nanc 5 .fp32 ∧ tanhF a = one true)
    ∧ (v = .inf false → lg2F a = inf false ∧ rcpF a = zero false ∧ rsqF a = zero false ∧ sqtF a = inf false
      ∧ sinF a = nanc 5 .fp32 ∧ cosF a = nanc 5 .fp32 ∧ tanhF a = one false)
    ∧ (∀ s m i, v = .fin s m i →
      (m = 0 → lg2F a = inf true ∧ rcpF a = inf s ∧ rsqF a = inf s ∧ sqtF a = a ∧ sinF a = a ∧ cosF a = one false
        ∧ tanhF a = a)
      ∧ (m ≠ 0 → s = true → lg2F a = nanc 5 .fp32 ∧ rsqF a = nanc 5 .fp32 ∧ sqtF a = nanc 5 .fp32)
      ∧ (∀ k : Int, same ⟨m, i⟩ ⟨1, k⟩ = true → rcpF a = pow s 1 (-k)
        ∧ (s = false → lg2F a = pow (decide (k < 0)) k.natAbs 0 ∧ (k % 2 = 0 → rsqF a = pow false 1 (-(k / 2)))))
      ∧ (∀ (n : Nat) (k : Int), s = false → n ≠ 0 → same ⟨m, i⟩ ⟨n * n, 2 * k⟩ = true → sqtF a = pow false n k))
    ∧ (∀ b c, b < 2 ^ 32 → c < 2 ^ 32 →
      let vb := decodeF .fp32 b
      let vc := decodeF .fp32 c
      (v.isNan = true → exbF a b c = a ||| 2 ^ 22)
      ∧ (v.isNan = false → vb.isNan = true → exbF a b c = b ||| 2 ^ 22)
      ∧ (v.isNan = false → vb.isNan = false → vc.isNan = true → exbF a b c = c ||| 2 ^ 22)
      ∧ (vc.isNan = false → (∃ s, v = .inf s ∧ vb = .inf s) → exbF a b c = nanc 3 .fp32)
      ∧ (∀ s m i s' m' i', v = .fin s m i → vb = .fin s' m' i' →
        let d := v.dy.add vb.dy.neg
        (vc.isInf = true → exbF a b c = if d.n = 0 then nanc 4 .fp32
          else if Bool.xor (decide (d.n < 0)) vc.isNeg then zero false else inf false)
        ∧ (∀ s'' m'' i'', vc = .fin s'' m'' i'' → ∀ k : Int, same (d.mul vc.dy) ⟨k, 0⟩ = true → exbF a b c = pow false 1 k))
      ∧ ((∃ s, (v = .inf s ∧ vb.isNan = false ∧ vb ≠ .inf s) ∨ (v.isNan = false ∧ v.isInf = false ∧ vb = .inf (!s))) →
        vc.isNan = false → exbF a b c = if vc.isZero then nanc 4 .fp32
          else if Bool.xor (if v.isInf then v.isNeg else !vb.isNeg) vc.isNeg then zero false else inf false))

/-- The special-function ops, while fewer than eight of their entries are in use, give their result to the register that
later reads name, and to the latch; with no free entry the troupe stalls and keeps its slot (06 R160, R163; 03 R85). Their
special operands and exact results are those of R161 and R162; a result that is not exact is the model's rounding of the exact
value (log entry 7). -/
def Obligations.SpecialFunctionResults : Prop :=
  SpecialValues ∧ ∀ (i : Op → Instr) (code : Nat) (f : Nat → Nat → Nat → Nat),
    ((i = .exb ∧ code = 0x0C0 ∧ f = fun a b c => exbF a b c) ∨ (i = .lg2 ∧ code = 0x0C1 ∧ f = fun a _ _ => lg2F a)
      ∨ (i = .rcp ∧ code = 0x0C2 ∧ f = fun a _ _ => rcpF a) ∨ (i = .rsq ∧ code = 0x0C3 ∧ f = fun a _ _ => rsqF a)
      ∨ (i = .sqt ∧ code = 0x0C4 ∧ f = fun a _ _ => sqtF a) ∨ (i = .sin ∧ code = 0x0C5 ∧ f = fun a _ _ => sinF a)
      ∨ (i = .cos ∧ code = 0x0C6 ∧ f = fun a _ _ => cosF a) ∨ (i = .tanh ∧ code = 0x0C7 ∧ f = fun a _ _ => tanhF a)) →
    ∀ (s : State) (x : Env) (o : Op) (hdr : DWord), Runs s x code o hdr →
      (x.t.sfuEntries < 8 → Completes (i o) s x (ends code o x) 1 hdr
        (resultEffect x.t (uniformOp code x.t o) false o (fun l =>
          f (x.t.operand 11 o o.a l) (if code = 0x0C0 then x.t.operand 11 o o.b l else 0)
            (if code = 0x0C0 then x.t.operand 11 o o.srcC l else 0))))
      ∧ (8 ≤ x.t.sfuEntries →
        exec (i o) s = .next (s.setTroupe x.r { x.t with status := .stalled (i o) x.c }))

/-! ## Cross-lane ops (07) -/

/-- SHFL and PERM move values between selected lanes; a lane whose source is no selected lane of the troupe keeps its own
(07 R169 to R171). -/
def Sys2Proof.Claims.LaneMoves : Prop :=
  ∀ (s : State) (x : Env) (o : Op) (hdr : DWord),
    let t := x.t
    let sel := t.selected o.guard
    let a (l : Nat) : Nat := t.operand 6 o o.a l
    let moved (src : Nat → Int) (l : Nat) : Nat :=
      if 0 ≤ src l ∧ src l < t.width ∧ hasLane sel (src l).toNat then a (src l).toNat else a l
    (Runs s x 0x0E0 o hdr → Completes (.shfl o) s x (ends 0x0E0 o x) 1 hdr (resultEffect t false false o
      (moved (fun l => shflLane (fnVariant o.c % 4) l (t.operand 6 o o.b l)))))
    ∧ (Runs s x 0x0E7 o hdr → Completes (.perm o) s x (ends 0x0E7 o x) 1 hdr (resultEffect t false false o
      (moved (fun l => permLane (fnVariant o.c % 4) t.width
        (if fnVariant o.c % 4 = 0 then t.operand 6 o o.b 0 % t.width else 0) l))))

/-- VOTE writes one truth value to every selected lane, BALLOT half of the mask of selected lanes with a true predicate to an s
pair, MATCH the lanes with an equal value, CONFL the leader and rank of a lane among them (07 R172, R173). The tag that a latch
of an s result holds is the model's reading (log entry 85). -/
def Sys2Proof.Claims.LaneVotes : Prop :=
  ∀ (s : State) (x : Env) (o : Op) (hdr : DWord),
    let t := x.t
    let sel := t.selected o.guard
    let c := t.predSrc o.a
    let all (b : Bool) : Lanes := if b then lanesBelow t.width else 0
    let peers (l : Nat) : List Nat :=
      (lanesOf t.width sel).filter (fun i => t.operand 6 o o.a i = t.operand 6 o o.a l)
    (Runs s x 0x0E1 o hdr →
      let some_ := (lanesOf 128 sel).any (hasLane c)
      let every := (lanesOf 128 sel).all (hasLane c)
      let none_ := (lanesOf 128 sel).all (fun l => !hasLane c l)
      Completes (.vote o) s x (ends 0x0E1 o x) 1 hdr ((Effect.none t).toP o.dst.toNat sel
        (all (match fnVariant o.c with
          | 0 => some_
          | 1 => every
          | _ => none_ || every))))
    ∧ (Runs s x 0x0E2 o hdr →
      let half : DWord := (sel &&& c).extractLsb' (if fnVariant o.c = 1 then 64 else 0) 64
      Completes (.ballot o) s x (ends 0x0E2 o x) 1 hdr
        (if sel = 0 then { Effect.none t with
            latch := some ⟨List.replicate t.width (t.readS o.dst.toNat), List.replicate 32 0x7F, false⟩ }
         else (Effect.none t).toS t false o.w o.dst.toNat [half.extractLsb' 0 32, half.extractLsb' 32 32]))
    ∧ (Runs s x 0x0E6 o hdr →
      (fnVariant o.c = 1 → Completes (.matchLanes o) s x (ends 0x0E6 o x) 1 hdr
        ((Effect.none t).toP o.dst.toNat sel (all (sameValue t.width sel (fun l => t.operand 6 o o.a l) (lowestLane sel) = sel))))
      ∧ (fnVariant o.c ≠ 1 → Completes (.matchLanes o) s x (ends 0x0E6 o x) 1 hdr
        (resultEffect t false true o (fun l => if hasLane sel l then
          ((maskOf (peers l)).extractLsb' (64 * (l / 64)) 64).toNat else 0))))
    ∧ (Runs s x 0x0E5 o hdr → Completes (.confl o) s x (ends 0x0E5 o x) 1 hdr
      (resultEffect t false true o (fun l => if hasLane sel l then
        (peers l).headD 0 + 2 ^ 32 * ((peers l).filter (fun i => i < l)).length else 0)))

/-- SCAN gives each selected lane the combination of the selected lanes up to it (before it with .ex), and VRED that of all
selected lanes, of lanes with an equal key in the keyed form (07 R174 to R176). -/
def Sys2Proof.Claims.LaneReductions : Prop :=
  ∀ (s : State) (x : Env) (o : Op) (hdr : DWord),
    let t := x.t
    let sel := t.selected o.guard
    let group (ty l : Nat) : List Nat :=
      if fnVariant o.c / 16 = 1 then
        (lanesOf t.width sel).filter (fun i => t.operand ty o o.b i = t.operand ty o o.b l)
      else lanesOf t.width sel
    (Runs s x 0x0E3 o hdr →
      let ty := tyOf 0x0E3 o
      Completes (.scan o) s x (ends 0x0E3 o x) 1 hdr (resultEffect t false false o (fun l =>
        if hasLane sel l then combine ty (fnVariant o.c % 8) (t.rounding (fnRnd o.c) (t.wid l).toNat)
          (((group ty l).filter (fun i => i < l ∨ (i = l ∧ fnVariant o.c / 8 % 2 ≠ 1))).map (t.operand ty o o.a))
        else 0)))
    ∧ (Runs s x 0x0E4 o hdr →
      let ty := tyOf 0x0E4 o
      Completes (.vred o) s x (ends 0x0E4 o x) 1 hdr (resultEffect t false false o (fun l =>
        if hasLane sel l then combine ty (fnVariant o.c % 8)
          (t.rounding (fnRnd o.c) (t.wid ((group ty l).headD 0)).toNat) ((group ty l).map (t.operand ty o o.a))
        else 0)))

/-- What SCAN and VRED compute of the values of some lanes, in lane order (07 R174, R175): the identity of none; sums, bitwise
combinations and one of the values that no other is below or above; for f32 the first NaN quieted, the infinities, and otherwise
the exact sum rounded once. -/
def Sys2Proof.Claims.CombinedValues : Prop :=
  (∀ (r : Rnd) (ty : Nat), ty = 5 ∨ ty = 6 ∨ ty = 11 → combine ty 0 r [] = 0
    ∧ combine ty 1 r [] = (if ty = 5 then 0x7FFFFFFF else if ty = 6 then 0xFFFFFFFF else 0x7F800000)
    ∧ combine ty 2 r [] = (if ty = 5 then 0x80000000 else if ty = 6 then 0 else 0xFF800000)
    ∧ combine ty 3 r [] = 0xFFFFFFFF ∧ combine ty 4 r [] = 0 ∧ combine ty 5 r [] = 0)
  ∧ (∀ (r : Rnd) (ty : Nat) (xs : List Nat), (ty = 5 ∨ ty = 6) → xs ≠ [] → (∀ x ∈ xs, x < 2 ^ 32) →
    let val (x : Nat) : Int := if ty = 5 then toSigned 32 x else x
    combine ty 0 r xs = xs.foldl (· + ·) 0 % 2 ^ 32
    ∧ (combine ty 1 r xs ∈ xs ∧ ∀ x ∈ xs, val (combine ty 1 r xs) ≤ val x)
    ∧ (combine ty 2 r xs ∈ xs ∧ ∀ x ∈ xs, val x ≤ val (combine ty 2 r xs))
    ∧ ∀ i, (combine ty 3 r xs).testBit i = xs.all (fun x => x.testBit i)
      ∧ (combine ty 4 r xs).testBit i = xs.any (fun x => x.testBit i)
      ∧ (combine ty 5 r xs).testBit i = decide ((xs.filter (fun x => x.testBit i)).length % 2 = 1))
  ∧ (∀ (r : Rnd) (xs : List Nat), xs ≠ [] → (∀ x ∈ xs, x < 2 ^ 32) →
    let v (x : Nat) : FVal := decodeF .fp32 x
    (∀ pre x post, xs = pre ++ x :: post → (v x).isNan = true → (∀ y ∈ pre, (v y).isNan = false) →
      ∀ op, op < 3 → combine 11 op r xs = x ||| 2 ^ 22)
    ∧ ((∀ x ∈ xs, (v x).isNan = false) →
      (combine 11 1 r xs ∈ xs ∧ ∀ x ∈ xs, under (v x) (v (combine 11 1 r xs)) = false)
      ∧ (combine 11 2 r xs ∈ xs ∧ ∀ x ∈ xs, under (v (combine 11 2 r xs)) (v x) = false)
      ∧ ((∃ x ∈ xs, v x = .inf false) → (∃ x ∈ xs, v x = .inf true) → combine 11 0 r xs = nanc 3 .fp32)
      ∧ (∀ s, (∃ x ∈ xs, v x = .inf s) → (∀ x ∈ xs, v x ≠ .inf (!s)) → combine 11 0 r xs = signed .fp32 s 0x7F800000)
      ∧ ((∀ x ∈ xs, (v x).isInf = false) →
        let y : Dy := xs.foldl (fun (d : Dy) x => d.add (v x).dy) ⟨0, 0⟩
        (y.n ≠ 0 → combine 11 0 r xs = (rndF .fp32 r (decide (y.n < 0)) y.n.natAbs y.e).1)
        ∧ (y.n = 0 → combine 11 0 r xs = if (∀ x ∈ xs, x = 0x80000000) ∨ (¬ (∀ x ∈ xs, x = 0) ∧ r.mode = .rdn)
            then 0x80000000 else 0))))

/-! ## Control (05 R111 to R119) -/

namespace Sys2Proof.Claims

/-- The instruction answers a next state in which its own effect on its troupe is all that has happened, and the troupe's
frontier is `front`. -/
def Goes (i : Instr) (s : State) (x : Env) (isLast : Bool) (n : Nat) (front : List FEntry) (e : Effect) : Prop :=
  Answers i s x isLast n front e s ∧ ∃ s', exec i s = .next s' ∧ SameElsewhere s x s'

/-- The moves that have lanes all find a header that 03 R90 accepts; `ok` gives each its header. -/
def Accepted (s : State) (x : Env) (moves : List Move) (ok : List (Move × DWord)) : Prop :=
  (moves.filter (fun m => m.mask ≠ 0)).map (fun m => (m, s.checkTarget x.core x.ctx m)) = ok.map (fun c => (c.1, .ok c.2))

/-- A transfer of lanes (05 R112, R113): when every target is accepted, the lanes enter their targets' blocks, the run ends,
and `e` is the rest of the effect. -/
def Transfers (i : Instr) (s : State) (x : Env) (moves : List Move) (e : Effect) : Prop :=
  ∀ ok, Accepted s x moves ok →
    let front := moveLanes x.t.frontier ok
    Goes i s x true 1 front
      { e with spills := (e.spills + (spilled front.length - spilled x.t.frontier.length)) % 2 ^ 64 }

/-- The lanes that a control op does not send elsewhere fall through (R112). -/
def falling (x : Env) (g : Lanes) : Move := ⟨x.t.active &&& ~~~g, x.c.next, .any⟩

/-- The target of a relative transfer: the word's own address plus 8 times the signed offset (R111). -/
def ahead (x : Env) (o : Op) : DWord :=
  x.c.pc + 8 * (match o.ext with
    | some e => e.value.signExtend 64
    | none => o.b.imm11.signExtend 64)

/-- The lanes of `g` grouped by the address that each holds in its pair. -/
def perLane (x : Env) (b : Src) (g : Lanes) (need : Need) : List Move :=
  (uniq ((lanesOf x.t.width g).map (x.t.rawPair b))).map
    (fun a => ⟨maskWhere x.t.width (fun l => hasLane g l && x.t.rawPair b l = a), a, need⟩)

/-- All lanes of `g` to the address in an s pair, or each to its own in a v pair. -/
def byAddress (x : Env) (b : Src) (g : Lanes) (need : Need) : List Move :=
  if b.cls = .s then [⟨g, x.t.rawPair b 0, need⟩] else perLane x b g need

/-- The moves that each of BRA, BRC, BRX, CALL and RET asks for (05 R112, R114 to R116), those of the lanes that fall through
last. -/
def movesOf (code : Nat) (o : Op) (x : Env) : List Move :=
  let g := x.t.selected o.guard
  match code with
  | 0x000 => [⟨g, ahead x o, .any⟩, falling x g]
  | 0x001 =>
    let c := x.t.predSrc o.a
    let taken : Lanes := match o.c.toNat with
      | 0 => g &&& c
      | 1 => if g &&& c = 0 then 0 else g
      | _ => if g &&& ~~~c = 0 then g else 0
    [⟨taken, ahead x o, .any⟩, falling x taken]
  | 0x002 => byAddress x o.b g .flagX ++ [falling x g]
  | 0x003 => (if o.b.isImm then [⟨g, ahead x o, .flagC⟩] else byAddress x o.b g .flagC) ++ [falling x g]
  | _ => perLane x o.b g .any ++ [falling x g]

/-- The link of CALL: the address that follows the word, in the lanes of `on`, without a latch (R115, R86). -/
def link (x : Env) (o : Op) (on : Lanes) : Effect :=
  { (Effect.none x.t).toV x.t false o.dst.toNat on
      [fun _ => x.c.next.extractLsb' 0 32, fun _ => x.c.next.extractLsb' 32 32] [] with latch := none }

/-- A control op some of whose moves fail (03 R90; 05 R113): the lanes of the others proceed, those of the failing ones stay at
the word and are the trap's TMASK, and the trap is what the lowest of them met; `e` gives the effect on the lanes that went. -/
def StaysAtBadTargets (i : Instr) (s : State) (x : Env) (moves : List Move) (e : Lanes → Effect) : Prop :=
  let cs := (moves.filter (fun m => m.mask ≠ 0)).map (fun m => (m, s.checkTarget x.core x.ctx m))
  let ok := cs.filterMap (fun c => match c.2 with
    | .ok h => some (c.1, h)
    | _ => none)
  let bad := cs.filterMap (fun c => match c.2 with
    | .bad tr => some tr
    | _ => none)
  let all : Lanes := bad.foldl (fun m tr => m ||| tr.mask) 0
  let went : Lanes := ok.foldl (fun m c => m ||| c.1.mask) 0
  let front := moveLanes x.t.frontier ok
  (∀ c ∈ cs, ∀ va, c.2 ≠ .pending va) → bad ≠ [] →
    ∃ t', ∃ tr ∈ bad, hasLane tr.mask (lowestLane all) = true
      ∧ (∀ r l, l < 128 → t'.readV r l = (e went).v r l) ∧ (∀ r, t'.readS r = x.t.readS r)
      ∧ (∀ r b, t'.readTag r b = x.t.readTag r b) ∧ (∀ r, sget 0 t'.wrote r = (e went).wrote r)
      ∧ t' = { x.t with
          v := t'.v, late := t'.late, wrote := t'.wrote, frontier := front
          counters := { x.t.counters with
            spills := (x.t.counters.spills + (spilled front.length - spilled x.t.frontier.length)) % 2 ^ 64 } }
      ∧ exec i s = .next ((s.setTroupe x.r t').takeTrap x.r x.cl.launch x.c.pc { tr with mask := all })

end Sys2Proof.Claims

/-- BRA sends the selected lanes to a relative target, BRC those of them that its predicate or the form's any or all test
names, BRX and RET each lane to the address in its pair, and CALL also writes the address that follows the word as the
link of the lanes that it sends, without a latch; the other lanes fall through (05 R111 to R116; 03 R90). -/
def Sys2Proof.Claims.ControlTransfers : Prop :=
  ∀ (s : State) (x : Env) (o : Op) (hdr : DWord),
    (Runs s x 0x000 o hdr → Transfers (.bra o) s x (movesOf 0x000 o x) (Effect.none x.t))
    ∧ (Runs s x 0x001 o hdr → Transfers (.brc o) s x (movesOf 0x001 o x) (Effect.none x.t))
    ∧ (Runs s x 0x002 o hdr → Transfers (.brx o) s x (movesOf 0x002 o x) (Effect.none x.t))
    ∧ (Runs s x 0x003 o hdr → Transfers (.call o) s x (movesOf 0x003 o x) (link x o (x.t.selected o.guard)))
    ∧ (Runs s x 0x004 o hdr → Transfers (.ret o) s x (movesOf 0x004 o x) (Effect.none x.t))

/-- BRA, BRC, BRX, CALL and RET, with any guard: the lanes whose target fails stay at the word and trap, and the others
proceed, CALL writing their link alone (03 R90; 05 R113, R115). A target fails with BAD_TARGET, and bits [31:0] of it as TVAL,
when it is no multiple of 8 or no header with the flag that the transfer needs stands there, and with the fault of its fetch. -/
def Sys2Proof.Claims.BadTargetTraps : Prop :=
  (∀ (s : State) (x : Env) (o : Op) (hdr : DWord),
    (Runs s x 0x000 o hdr → StaysAtBadTargets (.bra o) s x (movesOf 0x000 o x) (fun _ => Effect.none x.t))
    ∧ (Runs s x 0x001 o hdr → StaysAtBadTargets (.brc o) s x (movesOf 0x001 o x) (fun _ => Effect.none x.t))
    ∧ (Runs s x 0x002 o hdr → StaysAtBadTargets (.brx o) s x (movesOf 0x002 o x) (fun _ => Effect.none x.t))
    ∧ (Runs s x 0x003 o hdr → StaysAtBadTargets (.call o) s x (movesOf 0x003 o x)
        (fun went => link x o (went &&& x.t.selected o.guard)))
    ∧ (Runs s x 0x004 o hdr → StaysAtBadTargets (.ret o) s x (movesOf 0x004 o x) (fun _ => Effect.none x.t)))
  ∧ (∀ (s : State) (core ctx : Nat) (m : Move) (w : DWord) (f : MemFault),
    let bad : Target := .bad ⟨0x03, (m.target.extractLsb' 0 32).setWidth 64, m.mask, none⟩
    let flagged : Bool := match m.need with
      | .any => true
      | .flagC => w.getLsbD 0
      | .flagX => w.getLsbD 1
    (m.target.toNat % 8 ≠ 0 → s.checkTarget core ctx m = bad)
    ∧ (m.target.toNat % 8 = 0 → s.fetch core ctx m.target = .fault f →
        s.checkTarget core ctx m = .bad ⟨f.cause, f.tval, m.mask, if f.recov then some (f.va, .fetch, f.reason) else none⟩)
    ∧ (m.target.toNat % 8 = 0 → s.fetch core ctx m.target = .word w → kindOf w = 3 → flagged = true →
        s.checkTarget core ctx m = .ok w)
    ∧ (m.target.toNat % 8 = 0 → s.fetch core ctx m.target = .word w → (kindOf w ≠ 3 ∨ flagged = false) →
        s.checkTarget core ctx m = bad))

/-- Where lanes go: after a transfer each lane sent is in an entry at its target's address and no longer in the issuing one,
unless a target is that entry's own address, and entries at one address are joined into one (01 R24; 05 R113); no other lane
leaves or enters an entry. -/
def Obligations.TransfersReachTheirTargets : Prop :=
  ∀ (e : FEntry) (es : List FEntry) (ok : List (Move × DWord)),
    (∀ c ∈ ok, ∀ l, l < 128 → hasLane c.1.mask l = true →
      ∃ f ∈ moveLanes (e :: es) ok, f.pc = c.1.target ∧ hasLane f.mask l = true)
    ∧ (∀ f ∈ moveLanes (e :: es) ok, f.mask ≠ 0
      ∧ ∀ l, l < 128 → hasLane f.mask l = true →
        (∃ c ∈ ok, hasLane c.1.mask l = true ∧ f.pc = c.1.target) ∨ (∃ g ∈ e :: es, g.pc = f.pc ∧ hasLane g.mask l = true))
    ∧ (∀ l, l < 128 → (∀ c ∈ ok, hasLane c.1.mask l = false) →
      ((∃ f ∈ moveLanes (e :: es) ok, hasLane f.mask l = true) ↔ ∃ g ∈ e :: es, hasLane g.mask l = true))
    ∧ ((∀ c ∈ ok, c.1.target ≠ e.pc) → (∀ g ∈ es, g.pc ≠ e.pc) → ∀ c ∈ ok, ∀ l, l < 128 → hasLane c.1.mask l = true →
      ∀ f ∈ moveLanes (e :: es) ok, f.pc = e.pc → hasLane f.mask l = false)
    ∧ ((∀ c ∈ ok, c.1.target ≠ e.pc) → ((e :: es).map (·.pc)).Nodup → ((moveLanes (e :: es) ok).map (·.pc)).Nodup)

namespace Sys2Proof.Claims

/-- The single op `o` reaches its own effect: it is well formed, its entry has lanes, and it passes the checks of 03 R88 and R89;
of the header after it nothing is said. -/
structure Reaches (s : State) (x : Env) (code : Nat) (o : Op) : Prop where
  form   : o.wf code = true
  env    : s.env? = some x
  lanes  : x.t.active ≠ 0
  checks : opTrap code o x = none
  whole  : x.t.rm = some 0 → opLevel code x.t o = .lanes

/-- The troupe is at no word of a run: its latches are unset, and no word is to be executed under RM (03 R85, R87). -/
def Rests (t : Troupe) : Prop :=
  t.run = ⟨[none, none, none, none], 0, 0⟩ ∧ t.midRun = false ∧ t.rm = none ∧ t.kept = [] ∧ t.keptTag = []

end Sys2Proof.Claims

/-- EXIT ends the selected lanes: their registers keep what the others of the troupe keep, pending loads of theirs are
dropped and no other result (tag bytes belong to no lane: log entry 88), the run ends; a troupe with no lane left in its frontier
retires, in handler mode it returns to what the trap interrupted, and one with no live lane at all leaves its act (05 R117; 01
R30; 18 R399, R400; 12 R274). Where it is the last word of its block and the header after it fails, the selected lanes have
exited all the same, and the others take the trap (03 R90; the model's reading, log entry 14). -/
def Sys2Proof.Claims.ExitEndsLanes : Prop :=
  (∀ (s : State) (x : Env) (o : Op) (hdr : DWord) (e : FEntry) (es : List FEntry), Runs s x 0x005 o hdr →
    x.t.frontier = e :: es →
    let t := x.t
    let g := t.selected o.guard
    let left := e.mask &&& ~~~g
    let front := if left = 0 then es
      else goesTo x hdr ({ e with mask := left } :: es)
    let s1 := if t.launched &&& ~~~(t.exited ||| g) = 0 then s.modBlock x.r.cluster x.r.block (fun b => b.troupeExits x.r.troupe)
      else s
    ∃ t', exec (.exit o) s = .next { s1.setTroupe x.r t' with slots := s.slots.filter (fun e => e.2 ≠ x.r) }
      ∧ t'.exited = t.exited ||| g
      ∧ (∀ r l, l < 128 → hasLane g l = false → t'.readV r l = t.readV r l)
      ∧ (∀ r, t'.readS r = t.readS r) ∧ (∀ q, t'.readP q = t.readP q) ∧ (∀ r b, t'.readTag r b = t.readTag r b)
      ∧ (∀ k, s1.rdByte k = s.rdByte k)
      ∧ (front ≠ [] → t'.frontier = front ∧ t'.status = .ready ∧ t'.held = t.held)
      ∧ (front = [] → t.held = none → t'.frontier = [] ∧ t'.status = .retired)
      ∧ (∀ h, front = [] → t.held = some h →
        t'.held = none ∧ t'.tmask = t.tmask &&& ~~~(h.h &&& (t.exited ||| g))
        ∧ t'.frontier = (h.frontier.map (fun f => { f with mask := f.mask &&& ~~~(h.h &&& (t.exited ||| g)) })).filter
            (fun f => f.mask ≠ 0)
        ∧ t'.prog = if h.frontier.head?.any (fun f => f.mask &&& ~~~(h.h &&& (t.exited ||| g)) ≠ 0) then t.prog else 0)
      ∧ ((front ≠ [] ∨ t.held = none) → t'.prog = t.prog ∧ Rests t')
      ∧ (∀ h, front = [] → t.held = some h → t'.frontier = [] → t'.status = .retired ∧ Rests t')
      ∧ (∀ h, front = [] → t.held = some h → t'.frontier ≠ [] → t'.status = .ready
        ∧ (h.frontier.head?.any (fun f => f.mask &&& ~~~(h.h &&& (t.exited ||| g)) ≠ 0) = false → Rests t')
        ∧ (h.frontier.head?.any (fun f => f.mask &&& ~~~(h.h &&& (t.exited ||| g)) ≠ 0) = true →
          t'.run = h.run ∧ t'.midRun = true ∧ t'.kept = h.kept ∧ t'.keptTag = h.keptTag
          ∧ t'.rm = some (if t.tcause.toNat = 0x38 ∨ t.tcause.toNat = 0x39 then 0 else t'.tmask)))
      ∧ t' = { t with
          exited := t.exited ||| g
          late := t.late.map (fun p => if p.load then { p with v := p.v.filter (fun c => !hasLane g (c.1 % 128)) } else p)
          prog := t'.prog, frontier := t'.frontier, held := t'.held, tmask := t'.tmask
          run := t'.run, midRun := t'.midRun, rm := t'.rm, status := t'.status, retiredInsns := t.retiredInsns + 1
          redo := false, served := 0, kept := t'.kept, keptTag := t'.keptTag
          counters := { t.counters with retired := (t.counters.retired + 1) % 2 ^ 64 } })
  ∧ (∀ (s : State) (x : Env) (o : Op) (e : FEntry) (es : List FEntry) (tr : TrapX), Reaches s x 0x005 o →
    x.t.frontier = e :: es → s.fallCheck x (fallLanes 0x005 o x) = .bad tr →
    let g := x.t.selected o.guard
    ∃ t', t' = { x.t with
        exited := x.t.exited ||| g, frontier := { e with mask := e.mask &&& ~~~g } :: es
        late := x.t.late.map (fun p => if p.load then { p with v := p.v.filter (fun c => !hasLane g (c.1 % 128)) } else p) }
      ∧ exec (.exit o) s = .next ((s.setTroupe x.r t').takeTrap x.r x.cl.launch x.c.pc tr))

/-- YIELD ends the run; each other entry that owes no run to an earlier YIELD then owes one to this, and with no lane selected
it only ends the run (05 R118; 01 R27). The next entry to issue is the highest-ranked of those that have not yielded since an
entry that still owes, whenever there is one, and there is one while no entry owes a run to a YIELD of its own or an earlier
one; after a YIELD the yielder waits while another entry owes a run to it, and no entry waits behind itself, the one that it
falls into included (log entry 69). Which of the others comes first is the model's choice (log entry 69). NOP does nothing
(R119). -/
def Sys2Proof.Claims.YieldAndNop : Prop :=
  (∀ (s : State) (x : Env) (o : Op) (hdr : DWord) (e : FEntry) (es : List FEntry), x.t.frontier = e :: es →
    (Runs s x 0x006 o hdr → ∃ n, (∀ f ∈ e :: es, f.owes < n ∧ f.yielded < n) ∧ Goes (.yieldRun o) s x true 1
      (goesTo x hdr (if x.t.selected o.guard = 0 then e :: es
        else { e with yielded := n, owes := 0 } :: es.map (fun f => if f.owes = 0 then { f with owes := n } else f)))
      (Effect.none x.t))
    ∧ (Runs s x 0x007 o hdr → Completes (.nop o) s x (ends 0x007 o x) 1 hdr (Effect.none x.t)))
  ∧ (∀ es : List FEntry,
    let live := es.filter (fun f => f.mask ≠ 0)
    let waits (f : FEntry) : Bool := live.any (fun g => g.pc ≠ f.pc && g.owes ≠ 0 && g.owes ≤ f.yielded)
    (live ≠ [] → ∃ f ∈ live, ∃ fs, chooseEntry es = { f with owes := 0, yielded := 0 } :: fs
      ∧ ((∃ g ∈ live, waits g = false) → waits f = false)
      ∧ ∀ g ∈ live, waits g = waits f → g.prio < f.prio ∨ (g.prio = f.prio ∧ f.pc.toNat ≤ g.pc.toNat))
    ∧ (live ≠ [] → (∀ f ∈ live, f.owes = 0 ∨ f.yielded < f.owes) → ∃ g ∈ live, waits g = false))
  ∧ (∀ (e : FEntry) (es : List FEntry) (n : Nat), (∀ f ∈ es, f.mask ≠ 0 → f.pc ≠ e.pc ∧ f.owes ≠ 0 ∧ f.owes ≤ n) →
    (∃ f ∈ es, f.mask ≠ 0) → waitsBehind (es.filter (fun f => f.mask ≠ 0)) { e with yielded := n, owes := 0 } = true)
  ∧ (∀ (es : List FEntry) (f : FEntry), waitsBehind es f = es.any (fun g => g.pc ≠ f.pc && g.owes ≠ 0 && g.owes ≤ f.yielded))

/-! ## Traps, handlers and the system class (18 R394 to R405; 04 R102 to R106) -/

namespace Sys2Proof.Claims

/-- A trap enters the troupe's handler at `h` (18 R395): SFU results are written back, the trap registers are written, the
frontier is held aside with the interrupted entry at the trapping word's address, every active live lane goes to the
handler, and the slot is given up. -/
def EntersHandler (i : Instr) (s : State) (x : Env) (cause : Nat) (tval : DWord) (mask : Lanes) (h : DWord) : Prop :=
  let t := x.t.drainSfu
  ∃ e es, x.t.frontier = e :: es ∧
    exec i s = .next { s.setTroupe x.r { t with
        tcause := BitVec.ofNat 32 cause, tpc := x.c.pc, tval := tval, tmask := mask, trapped := mask
        held := some ⟨{ e with pc := x.c.pc } :: es, e.mask &&& t.live, t.run, t.kept, t.keptTag⟩
        frontier := [⟨h, 0, e.mask &&& t.live, .handler, 0, 0, 0⟩]
        run := ⟨[none, none, none, none], 0, 0⟩, midRun := false, rm := none, status := .ready
        redo := false, served := 0, kept := [], keptTag := [] } with
      slots := s.slots.filter (fun e => e.2 ≠ x.r) }

/-- A trap that no handler takes ends the troupe and the launch (R397, R398): the completion record's status is UNHANDLED 8,
or NESTED 9 in handler mode. That a trap of the run-on stops its troupe too is the model's reading (log entry 18). -/
def StopsTheTroupe (i : Instr) (s : State) (x : Env) (cause : Nat) (tval : DWord) (mask : Lanes) : Prop :=
  let t := x.t.drainSfu
  let rep : TrapReport := ⟨if x.t.held.isSome then 9 else 8, x.t.wid (lowestLane mask), BitVec.ofNat 32 cause, x.c.pc, tval, mask⟩
  exec i s = .next (({ s.setTroupe x.r { t with
      tcause := BitVec.ofNat 32 cause, tpc := x.c.pc, tval := tval, tmask := mask, trapped := mask
      status := .stopped, midRun := false, rm := none, redo := false, served := 0, kept := [], keptTag := [] } with slots := s.slots.filter (fun e => e.2 ≠ x.r) }).modLaunch
    x.cl.launch (fun la => { la with ended := true, traps := la.traps ++ [rep] }))

/-- A trap that no pager serves, of a word of the troupe: it enters the handler that the launch record names, or ends the
troupe. -/
def Traps (i : Instr) (s : State) (x : Env) (cause : Nat) (tval : DWord) (mask : Lanes) : Prop :=
  (∀ h, x.t.held = none → x.la.ended = false → handlerOf x.t x.la = some h → EntersHandler i s x cause tval mask h)
  ∧ (x.t.held ≠ none ∨ x.la.ended = true ∨ handlerOf x.t x.la = none → StopsTheTroupe i s x cause tval mask)

end Sys2Proof.Claims

/-- TRAP with a selected lane takes TRAP_INSN, and BKPT, with no debugger attached, BREAKPOINT, with the code as TVAL and the
selected lanes as TMASK; with none selected they do nothing but end the run (18 R403). A BKPT under a debugger parks the
troupe and sends an EVENT, whose payload is the model's choice (log entries 33, 35). -/
def Sys2Proof.Claims.TrapsOnRequest : Prop :=
  ∀ (s : State) (x : Env) (o : Op) (hdr : DWord),
    let sel := x.t.selected o.guard
    let code := BitVec.ofNat 64 (x.t.operand 6 o o.b 0)
    (Runs s x 0x1C0 o hdr →
      (sel ≠ 0 → Traps (.trap o) s x 0x39 code sel)
      ∧ (sel = 0 → Completes (.trap o) s x true 1 hdr (Effect.none x.t)))
    ∧ (Runs s x 0x1C2 o hdr →
      (sel ≠ 0 → s.debugged x.ctx = false → Traps (.bkpt o) s x 0x38 code sel)
      ∧ (sel = 0 → Completes (.bkpt o) s x true 1 hdr (Effect.none x.t))
      ∧ (sel ≠ 0 → s.debugged x.ctx = true → ∃ s' t', exec (.bkpt o) s = .next s' ∧ s'.troupe? x.r = some t'
        ∧ t'.status = .breakpoint ∧ t'.frontier = goesTo x hdr x.t.frontier
        ∧ (∀ r l, t'.readV r l = x.t.readV r l) ∧ (∀ r, t'.readS r = x.t.readS r)
        ∧ s'.link.length = s.link.length + 1 ∧ (∀ k, s'.rdByte k = s.rdByte k)))

/-- A single op that fails the checks of 03 R88, R89 or R112 takes the trap that they name and has no other effect: the
trap is RUN_OVERLONG with TVAL 25, ILLEGAL_OP with bits [63:32] of its word, or LATCH_UNSET with the latch's number, and
TMASK is the active lanes. -/
def Sys2Proof.Claims.FailedChecksTrap : Prop :=
  ∀ (i : Instr) (code : Nat) (o : Op) (s : State) (x : Env), i.op? = some (code, o) → s.env? = some x → x.t.active ≠ 0 →
    x.t.rm ≠ some 0 →
    (24 < x.t.run.words + x.c.len → Traps i s x 0x04 25 x.t.active)
    ∧ (x.t.run.words + x.c.len ≤ 24 → opCheck code x.t o = .illegal → Traps i s x 0x01 (x.c.hi.setWidth 64) x.t.active)
    ∧ (∀ n, x.t.run.words + x.c.len ≤ 24 → opCheck code x.t o = .latchUnset n → (5 ≤ code ∨ x.c.last = true) →
        Traps i s x 0x05 (BitVec.ofNat 64 n) x.t.active)
    ∧ (x.t.run.words + x.c.len ≤ 24 → opCheck code x.t o = .ok → code < 5 → x.c.last = false →
        Traps i s x 0x01 (x.c.hi.setWidth 64) x.t.active)

/-- RETT outside handler mode is PRIV; in it, with every lane that the handler began with present or exited, it restores the
interrupted frontier, latches and run, cuts the lanes that exited in the handler, and resumes under RM, which is TMASK
without them, or empty after TRAP and BKPT (18 R399, R400); with no lane of the interrupted entry left, PROG is 0 (04 R105). -/
def Obligations.ReturnFromHandler : Prop :=
  ∀ (s : State) (x : Env) (o : Op) (hdr : DWord), Runs s x 0x1C1 o hdr →
    (x.t.held = none → Traps (.rett o) s x 0x06 0 x.t.active)
    ∧ (∀ h, x.t.held = some h → x.t.active ≠ h.h &&& ~~~x.t.exited →
        Traps (.rett o) s x 0x01 (x.c.hi.setWidth 64) x.t.active)
    ∧ (∀ h, x.t.held = some h → x.t.active = h.h &&& ~~~x.t.exited →
      let gone := h.h &&& x.t.exited
      let cut (f : FEntry) : FEntry := { f with mask := f.mask &&& ~~~gone }
      let front := (h.frontier.map cut).filter (fun f => f.mask ≠ 0)
      let tm := x.t.tmask &&& ~~~gone
      let skip := decide (x.t.tcause.toNat = 0x39 ∨ x.t.tcause.toNat = 0x38)
      let headLeft := (h.frontier.head?.map (fun f => decide ((cut f).mask ≠ 0))).getD false
      exec (.rett o) s = .next { s.setTroupe x.r { x.t with
          held := none, tmask := tm, frontier := front
          run := if headLeft then h.run else ⟨[none, none, none, none], 0, 0⟩
          midRun := headLeft
          rm := if headLeft then some (if skip then 0 else tm) else none
          prog := if headLeft then x.t.prog else 0
          status := if front.isEmpty then .retired else .ready
          redo := false, served := 0
          kept := if headLeft then h.kept else [], keptTag := if headLeft then h.keptTag else []
          retiredInsns := x.t.retiredInsns + 1
          counters := { x.t.counters with retired := (x.t.counters.retired + 1) % 2 ^ 64 } } with
        slots := s.slots.filter (fun e => e.2 ≠ x.r) })

/-- SREAD writes the special register that its C field names: to a v register in each selected lane, or its value at the
lowest position to an s register; a 64-bit register takes a pair (04 R102, R103, R106; 18 R404). That CLK counts steps is
the model's choice (log entry 5), and so is that CLK of a deterministic launch does not count the word that reads it (log entry
65) and that TMASK of a 128-lane troupe is read by half (log entry 6). -/
def Sys2Proof.Claims.SpecialRegisterReads : Prop :=
  ∀ (s : State) (x : Env) (o : Op) (hdr : DWord), Runs s x 0x1C3 o hdr →
    let t := x.t
    let n := o.c.toNat % 128
    let field (k : Nat) : DWord := ((t.fields[k]?).getD 0).setWidth 64
    let value (l : Nat) : DWord := ([(0x00, t.wid0 + BitVec.ofNat 64 l), (0x01, BitVec.ofNat 64 l), (0x02, field 1), (0x03, field 2),
      (0x04, field 3), (0x05, field 4), (0x06, field 5), (0x07, BitVec.ofNat 64 l), (0x08, BitVec.ofNat 64 t.width),
      (0x09, BitVec.ofNat 64 s.member), (0x0A, 1), (0x10, t.rnd.setWidth 64 ||| (if t.det then 8 else 0)), (0x11, t.seed),
      (0x12, t.amax.setWidth 64), (0x13, t.sticky.setWidth 64), (0x14, t.prog.setWidth 64), (0x18, t.tcause.setWidth 64),
      (0x19, t.tpc), (0x1A, t.tval), (0x1B, t.tmask.extractLsb' (64 * (l / 64)) 64), (0x1C, t.tvec),
      (0x20, BitVec.ofNat 64 (if t.det then t.retiredInsns else s.clk))] : List (Nat × DWord)).lookup n |>.getD 0
    Completes (.sread o) s x (ends 0x1C3 o x) 1 hdr
      (resultEffect t (o.a.cls = .s) ([0x00, 0x11, 0x19, 0x1A, 0x1B, 0x1C, 0x20].contains n) o
        (fun l => (value l).toNat))

/-- SWRITE writes RND of CTL, SEED and STICKY, refusing their reserved values, and cuts TMASK in handler mode (PRIV outside
it); it writes nothing else (04 R103, R104; 18 R405). A 32-bit source takes its modifier (03 R74). That each half of a 128-lane
TMASK is cut by the same value is the model's choice (log entry 6). -/
def Sys2Proof.Claims.SpecialRegisterWrites : Prop :=
  ∀ (s : State) (x : Env) (o : Op) (hdr : DWord), Runs s x 0x1C4 o hdr →
    let t := x.t
    let n := o.c.toNat % 128
    let v : DWord := if o.a.isImm then BitVec.ofNat 64 (((o.ext.map (fun e => e.value.toNat)).getD 0))
      else if n = 0x11 ∨ n = 0x1B then t.readS (o.a.num.toNat + 1) ++ t.readS o.a.num.toNat
      else BitVec.ofNat 64 (t.operand 6 o o.a 0)
    let hi : DWord := (if o.a.isImm then x.c.hiExt else x.c.hi).setWidth 64
    let goes (e : Effect) : Prop := Completes (.swrite o) s x (ends 0x1C4 o x) 1 hdr e
    (n = 0x10 → v.toNat < 16 → v.toNat % 8 ≠ 5 → v.toNat % 8 ≠ 6 → goes { Effect.none t with rnd := v.extractLsb' 0 3 })
    ∧ (n = 0x10 → (16 ≤ v.toNat ∨ v.toNat % 8 = 5 ∨ v.toNat % 8 = 6) → Traps (.swrite o) s x 0x01 hi t.active)
    ∧ (n = 0x11 → goes { Effect.none t with seed := v })
    ∧ (n = 0x13 → v.toNat < 8 → goes { Effect.none t with sticky := v.extractLsb' 0 32 })
    ∧ (n = 0x13 → 8 ≤ v.toNat → Traps (.swrite o) s x 0x01 hi t.active)
    ∧ (n = 0x1B → t.held = none → Traps (.swrite o) s x 0x06 0 t.active)
    ∧ (n = 0x1B → t.held ≠ none → goes { Effect.none t with tmask := t.tmask &&& (v ++ v) })

/-- Both ops of a pair word read before either writes; X writes its register and latch, then Y (03 R82 to R84, R86). -/
def Sys2Proof.Claims.PairWordResults : Prop :=
  ∀ (s : State) (x : Env) (p : Pair) (hdr : DWord), s.env? = some x → x.t.active ≠ 0 → p.x.dst ≠ p.y.dst →
    x.t.run.words + x.c.len ≤ 24 → pairNeed p ≤ x.t.nregs → s.fallCheck x x.t.active = .ok hdr →
    let t := x.t
    let isLast := p.e || x.c.last
    let sel := t.selected ⟨false, 7⟩
    let val (c : Compact) (l : Nat) : Word := BitVec.ofNat 32 (compactFn c.op
      (t.rounding 7 (t.elemIndex l 1 0)) (t.rounding 7 (t.elemIndex l 2 0)) (t.rounding 7 (t.elemIndex l 2 1))
      (t.readV c.a.toNat l).toNat (t.readV c.b.toNat l).toNat)
    let copies (c : Compact) : Bool := decide (c.op = .mov) && sel ≠ 0
    let latch (c : Compact) : Latch :=
      { vals := (List.range t.width).map (fun l => if hasLane sel l then val c l else t.priorV c.dst.toNat l)
        tag := (List.range 32).map (fun b => if copies c then t.readTag c.a.toNat b else t.priorTag c.dst.toNat b)
        uniform := false }
    let k := t.run.k
    let run : Run := if isLast then ⟨[none, none, none, none], 0, 0⟩
      else ⟨(t.run.latches.set (k % 4) (some (latch p.x))).set ((k + 1) % 4) (some (latch p.y)), k + 2, t.run.words + x.c.len⟩
    ∃ t', exec (.pairWord p) s = .next { s.setTroupe x.r t' with slots := slotsAfter s x.r isLast }
      ∧ (∀ r l, l < 128 → t'.readV r l = if l < t.width && hasLane sel l then
          (if r = p.y.dst.toNat then val p.y l else if r = p.x.dst.toNat then val p.x l else t.readV r l) else t.readV r l)
      ∧ (∀ r b, b < 32 → t'.readTag r b =
          if copies p.y && r = p.y.dst.toNat then t.readTag p.y.a.toNat b
          else if copies p.x && r = p.x.dst.toNat then t.readTag p.x.a.toNat b else t.readTag r b)
      ∧ (∀ r, t'.readS r = t.readS r) ∧ (∀ q, t'.readP q = t.readP q)
      ∧ (∀ r, sget 0 t'.wrote r
          = sget 0 t.wrote r + bit (sel ≠ 0 && (decide (r = p.x.dst.toNat) || decide (r = p.y.dst.toNat))))
      ∧ t' = { t with
          v := t'.v, sc := t'.sc, late := t'.late, wrote := t'.wrote, frontier := goesTo x hdr t.frontier, run := run
          midRun := t.midRun && !isLast, rm := none, status := .ready, redo := false, served := 0, kept := [], keptTag := []
          retiredInsns := t.retiredInsns + 2
          counters := { t.counters with retired := (t.counters.retired + 2) % 2 ^ 64 } }

/-- Each compact op computes what its single op of the type shown computes (03 R83): the integer ops modulo 2^32 or in the order
of i32 or n32, the shifts with any amount, the float ops on FP32 values, and HADD2 on each half. -/
def Sys2Proof.Claims.CompactValues : Prop :=
  ∀ (r r0 r1 : Rnd) (a b : Word),
    let f (op : CompactOp) : Nat := compactFn op r r0 r1 a.toNat b.toNat
    f .add = (a + b).toNat ∧ f .sub = (a - b).toNat ∧ f .mul = (a * b).toNat
    ∧ f .min = (if b.slt a then b else a).toNat ∧ f .max = (if a.slt b then b else a).toNat
    ∧ f .minN = (if b.ult a then b else a).toNat ∧ f .maxN = (if a.ult b then b else a).toNat
    ∧ f .and = (a &&& b).toNat ∧ f .or = (a ||| b).toNat ∧ f .xor = (a ^^^ b).toNat ∧ f .mov = a.toNat
    ∧ f .shl = (a <<< b.toNat).toNat ∧ f .shr = (a >>> b.toNat).toNat ∧ f .sar = (a.sshiftRight b.toNat).toNat
    ∧ f .fadd = addF .fp32 r a.toNat b.toNat ∧ f .fsub = subF .fp32 r a.toNat b.toNat ∧ f .fmul = mulF .fp32 r a.toNat b.toNat
    ∧ f .fmin = minF .fp32 a.toNat b.toNat ∧ f .fmax = maxF .fp32 a.toNat b.toNat
    ∧ f .hadd2 % 2 ^ 16 = addF .fp16 r0 (a.extractLsb' 0 16).toNat (b.extractLsb' 0 16).toNat
    ∧ f .hadd2 / 2 ^ 16 = addF .fp16 r1 (a.extractLsb' 16 16).toNat (b.extractLsb' 16 16).toNat

/-! ## Words and headers that are no instruction (03 R67, R71, R77, R84, R88 to R91) -/

/-- A step that fetches words which are no instruction traps at them, with every active lane in TMASK and no other effect than
the use of its translations: ILLEGAL_OP with bits [63:32] of the word for a reserved opcode, a field that breaks its rule, a
stray extension word and a header in the body of a block, with those of the extension word where only that is at fault,
ILLEGAL_PAIR for a malformed pair word, RUN_OVERLONG with 25 for a 25th word, and the fault of the fetch (03 R67, R77, R84,
R88, R89, R91). Under an empty RM no word traps but for the fault of its fetch (18 R400, R401; the model's reading, log entry
70). A pair word beyond the run limit or the kernel's registers traps likewise (R84, R88). -/
def Sys2Proof.Claims.FetchedWordsTrap : Prop :=
  (∀ (s : State) (core quadrant : Nat) (rest : List Act) (r : TRef) (t : Troupe) (b : Block) (cl : Cluster) (la : Launch)
    (e : FEntry) (es : List FEntry) (fin : DWord), NextIssues s core quadrant rest r t b cl la e es → e.place = .body fin →
    let s0 : State := { s with agenda := rest }
    let s1 := s0.useInstr b.core la.ctx e.pc fin
    let traps (s : State) (cause : Nat) (tval : DWord) : State := s.takeTrap r cl.launch e.pc ⟨cause, tval, e.mask, none⟩
    let answers (q : State) : Prop := step s = afterMove s (.word core quadrant) (.next q)
    (24 ≤ t.run.words → t.rm ≠ some 0 → answers (traps s0 0x04 25))
    ∧ (∀ f, (t.run.words < 24 ∨ t.rm = some 0) → s0.fetchInstr b.core la.ctx e.pc fin = .error (.fault f) →
        answers (s1.takeTrap r cl.launch e.pc
          ⟨f.cause, f.tval, e.mask, if f.recov then some (f.va, .fetch, f.reason) else none⟩))
    ∧ (∀ w next, t.run.words < 24 → s0.fetchInstr b.core la.ctx e.pc fin = .ok (w, next) → t.rm ≠ some 0 →
      let ext : Bool := (next.map kindOf).any (· = 2)
      let hi (w : DWord) : DWord := (w.extractLsb' 32 32).setWidth 64
      (t.run.words = 23 → ext = true → (∀ i n, decode w next ≠ .instr i n) → answers (traps s1 0x04 25))
      ∧ (t.run.words + (if ext then 2 else 1) ≤ 24 →
        ((kindOf w = 2 ∨ kindOf w = 3) → answers (traps s1 0x01 (hi w)))
        ∧ (kindOf w = 0 → assigned (opcodeOf w).toNat = false → answers (traps s1 0x01 (hi w)))
        ∧ (∀ y, decode w next = .illegal y → y.err = .opField → answers (traps s1 0x01 (hi w)))
        ∧ (∀ y i code o n, decode w next = .illegal y → y.err = .extField → y.first = some i → i.op? = some (code, o) →
            next = some n → answers (traps s1 0x01 (if opCheck code t o = .illegal then hi w else hi n)))
        ∧ (kindOf w = 1 → (∀ p, decode w next ≠ .instr (.pairWord p) 1) → answers (traps s1 0x02 (hi w))))))
  ∧ (∀ p : Pair, p.wf = false → ∀ next, decode (encodePair p) next = .illegal ⟨.pairField, hiOf (encodePair p), none⟩)
  ∧ (∀ (s : State) (x : Env) (p : Pair), s.env? = some x → x.t.rm ≠ some 0 →
    (24 < x.t.run.words + x.c.len → exec (.pairWord p) s
      = .next (s.takeTrap x.r x.cl.launch x.c.pc ⟨0x04, 25, x.t.active, none⟩))
    ∧ (x.t.run.words + x.c.len ≤ 24 → x.t.nregs < pairNeed p → exec (.pairWord p) s
      = .next (s.takeTrap x.r x.cl.launch x.c.pc ⟨0x01, x.c.hi.setWidth 64, x.t.active, none⟩)))

/-- A step of lanes that stand at a header enters its block: a header whose length is 0, whose reserved field is not zero, or
whose live value is above the kernel's register count traps ILLEGAL_OP at the header, with its bits [63:32] and the entering
lanes; an entry of the launch, or a handler without flag C, that is no header traps BAD_TARGET; a good header gives the entry
its priority and its block (01 R20; 03 R67 to R69, R71; 18 R397). -/
def Sys2Proof.Claims.HeadersAreChecked : Prop :=
  ∀ (s : State) (core quadrant : Nat) (rest : List Act) (r : TRef) (t : Troupe) (b : Block) (cl : Cluster) (la : Launch)
    (e : FEntry) (es : List FEntry) (w : DWord), NextIssues s core quadrant rest r t b cl la e es →
    (∀ fin, e.place ≠ .body fin) → (e.place = .entry → s.nondetTrap r t = none) →
    let s0 : State := { s with agenda := rest }
    let s1 := s0.useFetch b.core la.ctx e.pc
    let traps (s : State) (cause : Nat) (tval : DWord) : State := s.takeTrap r cl.launch e.pc ⟨cause, tval, e.mask, none⟩
    let answers (q : State) : Prop := step s = afterMove s (.word core quadrant) (.next q)
    let length := (w.extractLsb' 52 10).toNat
    let live := if w.extractLsb' 36 8 = 0 then 256 else (w.extractLsb' 36 8).toNat
    let header : Bool := kindOf w = 3 && (e.place ≠ .handler || w.getLsbD 0)
    let good : Bool := length ≠ 0 && w.extractLsb' 4 4 = 0 && live ≤ t.nregs
    (e.pc.toNat % 8 ≠ 0 → answers (traps s0 0x03 ((e.pc.extractLsb' 0 32).setWidth 64)))
    ∧ (e.pc.toNat % 8 = 0 → s0.fetch b.core la.ctx e.pc = .word w →
      (header = false → answers (traps s1 0x03 ((e.pc.extractLsb' 0 32).setWidth 64)))
      ∧ (header = true → good = false → answers (traps s1 0x01 ((w.extractLsb' 32 32).setWidth 64)))
      ∧ (header = true → good = true → answers (s1.setTroupe r { t with
          rm := none, redo := false
          frontier := { e with
            pc := e.pc + 8, prio := (w.extractLsb' 44 8).toNat, live := live
            place := .body (e.pc + BitVec.ofNat 64 (8 * (length + 1))) } :: es })))

/-- The last word of a block, whose lanes would go on to a header that fails the check of 03 R90, takes the trap of that check
with those lanes as TMASK; that it then has no other effect is the model's reading (R67, R89; log entry 14). -/
def Sys2Proof.Claims.FallThroughsThatFail : Prop :=
  (∀ (i : Instr) (code : Nat) (o : Op) (s : State) (x : Env) (tr : TrapX), i.op? = some (code, o) → Reaches s x code o →
    s.fallCheck x (fallLanes code o x) = .bad tr →
    let undone := exec i s = .next (s.takeTrap x.r x.cl.launch x.c.pc tr)
      ∧ (tr.page = none → Traps i s x tr.cause tr.tval tr.mask)
    x.c.last = true ∧ tr.mask = fallLanes code o x
    ∧ s.checkTarget x.core x.ctx ⟨fallLanes code o x, x.c.next, .any⟩ = .bad tr
    ∧ (code ≠ 5 → fallLanes code o x = x.t.active)
    ∧ (0x020 ≤ code → code < 0x100 → (code < 0x0C0 ∨ 0x0C8 ≤ code ∨ x.t.sfuEntries < 8) → undone)
    ∧ (code = 6 ∨ code = 7 → undone)
    ∧ (∀ s1, code = 0x120 → ldBody o x s = .done s1 → undone) ∧ (∀ s1, code = 0x121 → stBody o x s = .done s1 → undone))
  ∧ (∀ (s : State) (x : Env) (p : Pair) (tr : TrapX), s.env? = some x → x.t.active ≠ 0 →
    x.t.run.words + x.c.len ≤ 24 → pairNeed p ≤ x.t.nregs → s.fallCheck x x.t.active = .bad tr →
    exec (.pairWord p) s = .next (s.takeTrap x.r x.cl.launch x.c.pc tr))

/-! ## Fibres (08) -/

/-- FBCLOSE zeroes its register; FBPOS delivers the field that its selector names, or traps when the register is closed or
the field belongs to a side that its mode does not use; FBEND writes whether the fibre can deliver nothing more, from the
register alone (08 R191 to R193, R195). That FBEND with no selected lane does nothing on a closed register is the model's
reading (log entry 61). Where a program has changed the arrays of the fibre, what FBPOS and FBEND give is undefined (R196; log
entry 3). -/
def Obligations.FibreRegisterOps : Prop :=
  ∀ (s : State) (x : Env) (o : Op) (hdr : DWord),
    let t := x.t
    (Runs s x 0x107 o hdr → Completes (.fbclose o) s x (ends 0x107 o x) 1 hdr
      (let none_ : Side := ⟨0, 0, 0, false, false, 0, 0, 0, 0⟩
       { Effect.none t with fb := t.fb.set o.dst.toNat ⟨none_, none_, 0, 0⟩, watch := t.watch.set o.dst.toNat ⟨[], false⟩ }))
    ∧ (Runs s x 0x105 o hdr →
      let fb := t.fibre o.a.num.toNat
      let f := o.c.toNat
      (f < 7 → fb.mode ≠ 0 → (fb.mode = 1 → f ≠ 1 ∧ f ≠ 3 ∧ f ≠ 5) →
        ∃ v : Word, (changedFibre x s o.a.num.toNat = false →
            v = [fb.a.cur, fb.b.cur, fb.a.coord, fb.b.coord, fb.a.fin, fb.b.fin, fb.count].getD f 0)
          ∧ Completes (.fbpos o) s x (ends 0x105 o x) 1 hdr ((Effect.none t).toS t false o.w o.dst.toNat [v]))
      ∧ (f = 7 → Traps (.fbpos o) s x 0x01 (x.c.hi.setWidth 64) t.active)
      ∧ (f < 7 → fb.mode = 0 → Traps (.fbpos o) s x 0x19 (BitVec.ofNat 64 (1 + o.a.num.toNat * 512)) t.active)
      ∧ (fb.mode = 1 → (f = 1 ∨ f = 3 ∨ f = 5) →
          Traps (.fbpos o) s x 0x19 (BitVec.ofNat 64 (3 + o.a.num.toNat * 512)) t.active))
    ∧ (Runs s x 0x106 o hdr →
      let fb := t.fibre o.a.num.toNat
      let p := t.readP o.guard.p.toNat
      let g := t.active &&& (if o.guard.neg then ~~~p else p)
      let isLast (sd : Side) : Bool := decide (sd.fin.toNat ≤ sd.cur.toNat + (if sd.adv then 1 else 0))
      let all (b : Bool) : Lanes := if b then lanesBelow t.width else 0
      (g = 0 ∨ fb.mode ≠ 0 → ∃ v : Bool, (changedFibre x s o.a.num.toNat = false → v = (match fb.mode with
          | 1 => isLast fb.a
          | 2 => isLast fb.a || isLast fb.b
          | _ => isLast fb.a && isLast fb.b))
        ∧ Completes (.fbend o) s x (ends 0x106 o x) 1 hdr
          (if g = 0 then Effect.none t else (Effect.none t).toP o.dst.toNat g (all v)))
      ∧ (g ≠ 0 → fb.mode = 0 → Traps (.fbend o) s x 0x19 (BitVec.ofNat 64 (1 + o.a.num.toNat * 512)) t.active))

/-- FBOPEN positions side 0 of a register on the first entry of the level and parent named, when the descriptor passes its
checks and every read completes (08 R185, R188); of an empty range it reads no entry. FBISECT and FBUNION combine the sides 0
of two single fibres (R186). Each read is a .ca load (R196), and an op whose reads miss waits until an entry is free (09 R204).
That the reserved bits of other levels are not checked, and that END of a SINGLETON at 2^32 - 1 wraps, is the model's reading
(log entry 61). A misaligned descriptor, a bad one (reasons 5, 6 and 7), a bad range (3), a failing read, and a source of FBISECT
or FBUNION that is not single each trap (R185, R186, R195); with two such sources src A is reported (log entry 88). -/
def Sys2Proof.Claims.FibreOpening : Prop :=
  ∀ (s : State) (x : Env) (o : Op) (hdr : DWord),
    let t := x.t
    let fdst := o.dst.toNat
    let noSide : Side := ⟨0, 0, 0, false, false, 0, 0, 0, 0⟩
    (Runs s x 0x100 o hdr → ∀ (d : Nat) (lv : LevelEntry) (cur fin : Nat) (q0 q1 : State),
      let addr := (t.rawPair o.a 0).toNat
      let p := t.operand 6 o o.b 0
      let lvl := o.c.toNat % 4
      let sd : Side := ⟨addr, lvl, lv.spec, lv.iw, false, BitVec.ofNat 32 p, BitVec.ofNat 32 cur, BitVec.ofNat 32 fin, 0⟩
      addr % 64 = 0 → carRead x s addr 64 = (.ok d, q0) → openLevel d lvl p = .ok lv →
      openRange x q0 lv p = (.ok (cur, fin), q1) → (lv.spec = 3 ∨ cur ≤ fin) →
      (fin ≤ cur → carStalls x s q1 = false → CompletesAfter q1 (.fbopen o) s x (ends 0x100 o x) 1 hdr
        { Effect.none t with fb := t.fb.set fdst ⟨sd, noSide, 1, 0⟩, watch := t.watch.set fdst (watchOf x q1 ⟨sd, noSide, 1, 0⟩) })
      ∧ (cur < fin → ∀ sd1 q2, loadEntry x q1 sd cur none = (.ok sd1, q2) → carStalls x s q2 = false →
        CompletesAfter q2 (.fbopen o) s x (ends 0x100 o x) 1 hdr
          { Effect.none t with
            fb := t.fb.set fdst ⟨sd1, noSide, 1, 0⟩, watch := t.watch.set fdst (watchOf x q2 ⟨sd1, noSide, 1, 0⟩) })
      ∧ (cur < fin → ∀ r sd1 q2, loadEntry x q1 sd cur none = (.bad r sd1, q2) → carStalls x s q2 = false →
        exec (.fbopen o) s = .next ((q2.setTroupe x.r { t with
            fb := t.fb.set fdst ⟨sd1, noSide, 1, 0⟩, watch := t.watch.set fdst (watchOf x q2 ⟨sd1, noSide, 1, 0⟩) }).takeTrap
          x.r x.cl.launch x.c.pc ⟨0x18, BitVec.ofNat 64 (r + fdst * 2 ^ 9 + sd1.cur.toNat * 2 ^ 32), t.active, none⟩)))
    ∧ (∀ (i : Op → Instr) (code m : Nat), ((i = .fbisect ∧ code = 0x101 ∧ m = 2) ∨ (i = .fbunion ∧ code = 0x102 ∧ m = 3)) →
      Runs s x code o hdr → (t.fibre o.a.num.toNat).mode = 1 → (t.fibre o.b.num.toNat).mode = 1 →
      Completes (i o) s x (ends code o x) 1 hdr
        { Effect.none t with
          fb := t.fb.set fdst ⟨(t.fibre o.a.num.toNat).a, (t.fibre o.b.num.toNat).a, m, 0⟩
          watch := t.watch.set fdst ((t.watchAt o.a.num.toNat).join (t.watchAt o.b.num.toNat)) })
    ∧ (Runs s x 0x100 o hdr →
      let addr := (t.rawPair o.a 0).toNat
      let p := t.operand 6 o o.b 0
      let lvl := o.c.toNat % 4
      let lv (d : Nat) : LevelEntry := levelOf d lvl
      let low (d : Nat) : Bool := d / 2 ^ 64 % 8 = 0 || 4 < d / 2 ^ 64 % 8 || d / 2 ^ 64 % 8 ≤ lvl || d / 2 ^ 57 % 2 ^ 7 ≠ 0
        || d / 2 ^ 67 % 2 ^ 61 ≠ 0 || d % 8 ≠ 0 || (lv d).rsv || (lv d).size = 0
        || ((lv d).spec = 0 && ((lv d).posoff ≠ 0 || (lv d).crdoff ≠ 0)) || ((lv d).spec = 3 && (lv d).posoff ≠ 0)
      let bad (q : State) (reason pos : Nat) : Prop := exec (.fbopen o) s = .next (q.takeTrap x.r x.cl.launch x.c.pc
        ⟨0x18, BitVec.ofNat 64 (reason + fdst * 2 ^ 9 + pos * 2 ^ 32), t.active, none⟩)
      (addr % 64 ≠ 0 → Traps (.fbopen o) s x 0x0A (BitVec.ofNat 64 (addr % 2 ^ 57)) t.active)
      ∧ (∀ d q0, addr % 64 = 0 → carRead x s addr 64 = (.ok d, q0) → carStalls x s q0 = false →
        (low d = true → bad q0 5 0)
        ∧ (low d = false → lvl = 0 → p ≠ 0 → bad q0 6 p)
        ∧ (low d = false → lvl ≠ 0 → (lv d).spec = 0 → 2 ^ 32 ≤ p * (lv d).size + (lv d).size → bad q0 7 p)
        ∧ (∀ cur fin q1, openLevel d lvl p = .ok (lv d) → (lv d).spec ≠ 3 → openRange x q0 (lv d) p = (.ok (cur, fin), q1) →
            fin < cur → carStalls x s q1 = false → bad q1 3 p))
      ∧ (∀ f q0, addr % 64 = 0 → carRead x s addr 64 = (.error f, q0) → carStalls x s q0 = false → exec (.fbopen o) s
          = .next (q0.takeTrap x.r x.cl.launch x.c.pc (trapMem f .load t.active))))
    ∧ (∀ (i : Op → Instr) (code : Nat), ((i = .fbisect ∧ code = 0x101) ∨ (i = .fbunion ∧ code = 0x102)) →
      Runs s x code o hdr → ∀ n ∈ [o.a.num.toNat, o.b.num.toNat], (t.fibre n).mode ≠ 1 →
      (n = o.b.num.toNat → (t.fibre o.a.num.toNat).mode = 1 ∨ n = o.a.num.toNat) →
      Traps (i o) s x 0x19 (BitVec.ofNat 64 ((if (t.fibre n).mode = 0 then 1 else 2) + n * 512)) t.active)

/-- The entries of a side (08 R188): a dense level counts coordinates from 0, a compressed one reads them from its crd array
and finds them rising and below SIZE, a bitmap gives its set bits in order, and past the end nothing is read. An entry that
breaks its rule stops the walk with reason 1, 2 or 4 and leaves the side at it (R190); one that breaks two reports reason 1 (log
entry 88). -/
def Sys2Proof.Claims.FibreEntries : Prop :=
  (∀ (s s' : State) (x : Env) (sd sd' : Side) (n : Nat) (prev : Option Nat), loadEntry x s sd n prev = (.ok sd', s') →
    Carried s s'
    ∧ sd'.adv = false ∧ sd'.fin = sd.fin ∧ sd'.desc = sd.desc ∧ sd'.level = sd.level ∧ sd'.parent = sd.parent
    ∧ (sd.fin.toNat ≤ n → sd'.cur = sd.fin ∧ sd'.coord = 0 ∧ s' = s)
    ∧ (n < sd.fin.toNat → sd'.cur = BitVec.ofNat 32 n
      ∧ (sd.spec = 0 → sd'.coord = BitVec.ofNat 32 ((prev.map (· + 1)).getD 0) ∧ s' = s)
      ∧ (sd.spec ≠ 0 → ∃ d q, carRead x s sd.desc 64 = (.ok d, q) ∧
        let lv := levelOf d sd.level
        (sd.spec = 2 → ∃ c, sd'.coord = BitVec.ofNat 32 c ∧ c < lv.size ∧ (∀ p, prev = some p → p < c)
          ∧ ∃ wd q1, Carried s q1
            ∧ (carRead x q1 (lv.crd + 8 * (sd.parent.toNat * bitmapWords lv.size) + 8 * (c / 64)) 8).1 = .ok wd
            ∧ wd.testBit (c % 64) = true)
        ∧ (sd.spec ≠ 2 → ∃ c, sd'.coord = BitVec.ofNat 32 c ∧ c < lv.size
          ∧ carRead x q (lv.crd + (if sd.iw then 4 else 2) * n) (if sd.iw then 4 else 2) = (.ok c, s')
          ∧ (sd.spec = 1 → ∀ p, prev = some p → p < c)))))
  ∧ (∀ (s s' : State) (x : Env) (sd sd' : Side) (n r : Nat) (prev : Option Nat), loadEntry x s sd n prev = (.bad r sd', s') →
    sd' = { sd with cur := BitVec.ofNat 32 n, coord := sd'.coord, adv := false } ∧ n < sd.fin.toNat
    ∧ ∃ d q c, carRead x s sd.desc 64 = (.ok d, q) ∧ sd'.coord = BitVec.ofNat 32 c ∧
      let lv := levelOf d sd.level
      (sd.spec = 2 ∧ r = 4 ∧ c = lv.size)
      ∨ (sd.spec ≠ 2 ∧ sd.spec ≠ 0
        ∧ carRead x q (lv.crd + (if sd.iw then 4 else 2) * n) (if sd.iw then 4 else 2) = (.ok c, s')
        ∧ ((r = 1 ∧ sd.spec = 1 ∧ ∃ p, prev = some p ∧ c ≤ p)
          ∨ (r = 2 ∧ lv.size ≤ c ∧ (sd.spec = 1 → ∀ p, prev = some p → p < c)))))

/-- FBNEXT serves the selected lanes in lane order with the walk's entries: coordinate, positions and a true predicate, or a
false predicate once the fibre has run out; with no lane selected nothing happens, on a closed register too (the model's
reading, log entry 61), and PROG is 0 after it (08 R187; 04 R105). A walk that stops leaves PROG at the lanes served, counted
on over re-executions, and TMASK at the others (08 R198). FBSKIP steps each side to its first coordinate at or past the key
(R189). An entry that an intersection delivers stands on both sides, and one that a union delivers is the least coordinate
(R187). A fibre whose arrays a program has changed delivers undefined values to the same lanes (R196; log entry 3). A closed
register traps FIBRE_STATE, and in mode 2 or 3 an odd vp, a pair beyond the count or a destination vp + 1 ILLEGAL_OP, whatever the
guard (R195, R197; log entry 61). -/
def Sys2Proof.Claims.FibreDelivery : Prop :=
  ∀ (s : State) (x : Env) (o : Op) (hdr : DWord),
    let t := x.t
    (Runs s x 0x103 o hdr →
      let n := o.a.num.toNat
      let fb := t.fibre n
      let sel := t.selected o.guard
      let vp := o.b.num.toNat
      let two := decide (fb.mode ≠ 1)
      let out := serve x (lanesOf t.width sel) fb [] s
      let lanes := s.deliveries (changedFibre x s n) out.lanes
      let entry (l : Nat) : Option Entry := (lanes.lookup l).join
      let watch := t.watch.set n ((t.watchAt n).look x s)
      let pairOk : Bool := fb.mode = 0 || fb.mode = 1 || (vp % 2 = 0 && vp + 2 ≤ t.nregs && o.dst.toNat ≠ vp + 1)
      let on := maskWhere t.width (fun l => (entry l).isSome)
      let served := maskWhere t.width (fun l => (out.lanes.lookup l).isSome)
      (t.rm ≠ some 0 → pairOk = false → Traps (.fbnext o) s x 0x01 (x.c.hi.setWidth 64) t.active)
      ∧ (sel ≠ 0 → fb.mode = 0 → Traps (.fbnext o) s x 0x19 (BitVec.ofNat 64 (1 + n * 512)) sel)
      ∧ (sel = 0 → (t.rm = some 0 ∨ pairOk = true) → Completes (.fbnext o) s x (ends 0x103 o x) 1 hdr
          { (Effect.none t).toV t o.w o.dst.toNat 0 [fun _ => 0] [] with prog := 0 })
      ∧ (lanes.map (·.1) = out.lanes.map (·.1) ∧ (changedFibre x s n = false → lanes = out.lanes))
      ∧ (sel ≠ 0 → fb.mode ≠ 0 → pairOk = true → carStalls x s out.s = false →
      (out.stop = none →
        let coords := (Effect.none t).toV t o.w o.dst.toNat on [fun l => ((entry l).map (·.coord)).getD 0] []
        CompletesAfter out.s (.fbnext o) s x (ends 0x103 o x) 1 hdr { coords.toP (o.c.toNat % 8) (served &&& sel) on with
          v := fun r l => match (if l < t.width then entry l else none) with
            | some e => if r = vp then e.p0 else if two && r = vp + 1 then e.p1 else coords.v r l
            | none => coords.v r l
          wrote := fun r => coords.wrote r + bit (on ≠ 0 && (decide (r = vp) || (two && decide (r = vp + 1))))
          fb := t.fb.set n out.fb
          watch := watch
          prog := 0 })
      ∧ (∀ w, out.stop = some w → Carried s out.s ∧ exec (.fbnext o) s = .next ((out.s.setTroupe x.r
          { ({ t.setFibre n out.fb with watch := watch }).delivered o sel two false lanes with
            prog := BitVec.ofNat 32 ((if t.rm.isSome then t.prog.toNat else 0) + out.lanes.length) }).takeTrap x.r x.cl.launch
              x.c.pc (walkTrap w n (sel &&& ~~~served))))))
    ∧ (Runs s x 0x104 o hdr → ∀ fb1 fb2 s1 s2,
      let n := o.dst.toNat
      let fb := t.fibre n
      fb.mode ≠ 0 → pending x fb.sides fb s = (.go fb1, s1) →
      skipSides x (t.operand 6 o o.b 0) fb1.sides fb1 s1 = (.go fb2, s2) → carStalls x s s2 = false →
      CompletesAfter s2 (.fbskip o) s x (ends 0x104 o x) 1 hdr { Effect.none t with
        fb := t.fb.set n fb2, watch := t.watch.set n ((t.watchAt n).look x s) })
    ∧ (Runs s x 0x104 o hdr → (t.fibre o.dst.toNat).mode = 0 →
      Traps (.fbskip o) s x 0x19 (BitVec.ofNat 64 (1 + o.dst.toNat * 512)) t.active)
    ∧ (∀ fb fb' s', intersect x (fb.a.left + fb.b.left + 1) fb s = (.go fb', s') →
        (fb'.a.out || fb'.b.out) = true ∨ fb'.a.coord = fb'.b.coord)
    ∧ (∀ i key fb fb' s', i < 2 → skipSide x i key ((fb.side i).left + 1) fb s = (.go fb', s') →
        (fb'.side i).out = true ∨ key ≤ (fb'.side i).coord.toNat)
    ∧ (∀ fb fb' e, fb.mode = 3 → deliver fb = (fb', some e) →
        (fb.a.out = false → e.coord.toNat ≤ fb.a.coord.toNat) ∧ (fb.b.out = false → e.coord.toNat ≤ fb.b.coord.toNat)
        ∧ fb'.count = fb.count + 1)

/-- FBSAVE writes the 64 bytes of a register at base plus offset and changes no other byte, and FBRSTR reads 64 bytes that
form a valid image back; what FBSAVE writes of an open or closed register that the checks of FBRSTR accept is what FBRSTR
restores (08 R194); of a fibre whose arrays a program has changed the image is undefined (R196; log entry 3). The reading of the
offset, and that FBSAVE is performed at issue, are the model's (log entries 60, 26). -/
def Sys2Proof.Claims.FibreSaveAndRestore : Prop :=
  ∀ (s : State) (x : Env) (o : Op) (hdr : DWord),
    let t := x.t
    let n := o.dst.toNat
    let va := fbAddr o t
    (Runs s x 0x108 o hdr → ∀ leaf k,
      s.checkAccess x.core x.ctx .store .plain 64 va (pageChoice va) = .ok (leaf, k) →
      (s.takeEntries x.core [(pointOf 0 0 leaf, k, 64)]).isSome = true →
      ∃ img : List Byte, img.length = 64 ∧ (changedFibre x s n = false → img = bytesOf 64 (fibreBits (t.fibre n)))
        ∧ Performs (.fbsave o) s x (ends 0x108 o x) 1 hdr
          (fun q => q.viewWrite x.core (decide (leaf.home ≠ 2)) (keyed k img)) (fun _ => Effect.none t))
    ∧ (Runs s x 0x109 o hdr → ∀ img q, va % 64 = 0 → carRead x s va 64 = (.ok img, q) → carStalls x s q = false →
      (fibreImageOk img = true →
        CompletesAfter q (.fbrstr o) s x (ends 0x109 o x) 1 hdr
          { Effect.none t with fb := t.fb.set n (fibreOf img), watch := t.watch.set n (watchOf x q (fibreOf img)) })
      ∧ (fibreImageOk img = false → Carried s q ∧ exec (.fbrstr o) s = .next (q.takeTrap x.r x.cl.launch x.c.pc
          ⟨0x19, BitVec.ofNat 64 (4 + n * 512), t.active, none⟩)))
    ∧ (∀ fb : Fibre, (∀ sd ∈ [fb.a, fb.b], sd.desc < 2 ^ 57 ∧ sd.level < 4 ∧ sd.spec < 4) → fb.mode < 4 →
        fibreBits fb < 2 ^ 512 ∧ fibreOf (fibreBits fb) = fb)

/-! ## Global memory (09, 11) -/

namespace Sys2Proof.Claims

/-- Every selected lane below the width that `on` names passes the checks of its access and reaches its page and key
(09 R217; 11 R246). -/
def Reached (s : State) (x : Env) (acc : Access) (want : State.Want) (n : Nat) (lanes : List Nat) (addr : Nat → Nat)
    (at_ : Nat → Leaf × Nat) : Prop :=
  ∀ l ∈ lanes, s.checkAccess x.core x.ctx acc want n (addr l) (pageChoice (addr l)) = .ok (at_ l)

/-- The miss-status entries that the requests of the lanes need are free (09 R204). -/
def HasEntries (s : State) (x : Env) (lanes : List Nat) (pt : Leaf → Point) (at_ : Nat → Leaf × Nat) (n : Nat) : Prop :=
  (s.takeEntries x.core (lanes.map (fun l => (pt (at_ l).1, (at_ l).2, n)))).isSome = true

/-- No byte that the lanes reach reads as poison in the core (09 R212). -/
def Clean (s : State) (x : Env) (lanes : List Nat) (l1 : Nat → Bool) (at_ : Nat → Leaf × Nat) (n : Nat) : Prop :=
  ∀ l ∈ lanes, s.poisonAny x.core (l1 l) (at_ l).2 n = false

/-- The words that `n` loaded bytes of a type fill (10 R234). -/
def filled (ty n v : Nat) : List Word :=
  if 4 < n then (List.range (n / 4)).map (fun j => BitVec.ofNat 32 (v / 2 ^ (32 * j)))
  else if typeSigned ty then [(BitVec.ofNat (8 * n) v).signExtend 32] else [BitVec.ofNat 32 v]

/-- The registers that lanes with the bytes `val` fill. -/
def loadedRegs (ty n : Nat) (val : Nat → Nat) : List (Nat → Word) :=
  (List.range (max 1 (n / 4))).map (fun j l => (filled ty n (val l)).getD j 0)

/-- The low `n` bytes of the registers `d`, `d + 1`, … of a lane. -/
def registerBytes (t : Troupe) (d n l : Nat) : List Byte :=
  (List.range n).map (fun j => (t.readV (d + j / 4) l).extractLsb' (8 * (j % 4)) 8)

/-- The lanes' stores in lane order, each at its point of performance (11 R247; 09 R206). -/
def storesOf (x : Env) (lanes : List Nat) (l1 : Nat → Bool) (at_ : Nat → Leaf × Nat) (bytes : Nat → List Byte) (s : State) :
    State :=
  lanes.foldl (fun s l => s.viewWrite x.core (l1 l) (keyed (at_ l).2 (bytes l))) s

/-- Only the bytes that the lanes store to have changed: every other byte of memory is as it was, or a store that L1 held
has been written through to it. -/
def OnlyStored (i : Instr) (s : State) (lanes : List Nat) (at_ : Nat → Leaf × Nat) (n : Nat) : Prop :=
  ∃ s', exec i s = .next s' ∧ ∀ k, (∀ l ∈ lanes, k < (at_ l).2 ∨ (at_ l).2 + n ≤ k) → KeptByte s s' k

end Sys2Proof.Claims

/-- A byte as a core sees it: beyond L1 what lies at the point of coherence; in L1 a store of its own that is not yet written
through, or else the copy in L1 where `copy` says that it serves the unit (09 R206; 11 R265). -/
def Sys2Proof.Claims.seenByte (s : State) (core : Nat) (l1 copy : Bool) (k : Nat) : Byte :=
  if l1 then State.pickL1 copy (s.l1Byte core k) (s.rdByte k) else s.rdByte k

/-- What a core writes at a point of performance it reads back there, the last of several writes of one byte; another byte
reads as it did, the copy or the byte at the point of coherence, and lies there as before, or as a store of L1 that making
room has written through (09 R201, R206). A plain unit of 8 bytes or less and a block with its scale byte are each served by
one copy (11 R210, R265). A fill brings in what lies at the point of coherence, over no store of the core (R204). -/
def Sys2Proof.Claims.WritesReadBack : Prop :=
  ∀ (s : State) (core : Nat) (l1 : Bool), swf L1Byte.absent s.l1 →
    (∀ (ws : List Host.Cell), (∀ w ∈ ws, w.1 < 2 ^ 63) → ∀ k, k < 2 ^ 63 →
      let s' := s.viewWrite core l1 ws
      (∀ b copy, (ws.reverse.find? (fun w => w.1 = k)).map (·.2) = some b → seenByte s' core l1 copy k = b)
      ∧ ((∀ w ∈ ws, w.1 ≠ k) → KeptByte s s' k ∧ (l1 = false → s'.rdByte k = s.rdByte k)
        ∧ ∀ copy, ∃ copy', seenByte s' core l1 copy k = seenByte s core l1 copy' k))
    ∧ (∀ k n, 0 < n → n ≤ 8 → ∃ copy,
        s.viewNat core l1 k n = ofBytes ((List.range n).map (fun i => seenByte s core l1 copy (k + i))))
    ∧ (∀ (T : Fmt) (b : BlockAt), ∃ copy,
      (s.viewBlock core l1 T b).1 = ofBytes ((List.range T.blockBytes).map (fun i => seenByte s core l1 copy (b.key + i)))
      ∧ (s.viewBlock core l1 T b).2 = (if l1 then
          State.pickL1 copy (s.l1Byte core (State.l1SideKey b.key b.slot)) (s.rdSide b.key b.slot) else s.rdSide b.key b.slot))
    ∧ (∀ sector k copy, k < 2 ^ 63 → sector * 64 < 2 ^ 63 →
      let s' := s.fillL1 core sector
      (k / 64 = sector → seenByte s' core true copy k = seenByte s core true false k)
      ∧ (k / 64 ≠ sector → ∃ copy', seenByte s' core true copy k = seenByte s core true copy' k))

/-- LD reads its bytes at the address of each lane and extends them, ST writes the low bytes of its registers in lane order,
and no other byte changes, when every lane's address passes its checks, no read byte is poisoned, and the miss-status
entries are free (11 R246, R247; 09 R204 to R207). Every access is performed when it issues: log entry 26. -/
def Sys2Proof.Claims.LoadsAndStores : Prop :=
  ∀ (s : State) (x : Env) (o : Op) (hdr : DWord) (at_ : Nat → Leaf × Nat),
    let t := x.t
    let sel := t.selected o.guard
    let lanes := lanesOf t.width sel
    let n := ldWidth o
    let l1 (l : Nat) : Bool := atL1 (opPolicy o) (opScope o) (at_ l).1
    (Runs s x 0x120 o hdr →
      let s0 := if (o.c.extractLsb' 10 2).toNat = 3 then s.flushAll else s
      Reached s0 x .load .plain n lanes (laneAddr o t) at_ → Clean s0 x lanes l1 at_ n → HasEntries s0 x lanes (pointOf (opPolicy o) (opScope o)) at_ n →
      Performs (.ld o) s x (ends 0x120 o x) 1 hdr (fun q => q) (fun q =>
        (Effect.none t).toV t o.w o.dst.toNat sel (loadedRegs (memType o.c) n (fun l => q.viewNat x.core (l1 l) (at_ l).2 n)) []))
    ∧ (Runs s x 0x121 o hdr →
      Reached s x .store .plain n lanes (laneAddr o t) at_ → HasEntries s x lanes (pointOf (opPolicy o) (opScope o)) at_ n →
      Performs (.st o) s x (ends 0x121 o x) 1 hdr (storesOf x lanes l1 at_ (registerBytes t o.dst.toNat n))
        (fun _ => Effect.none t)
      ∧ OnlyStored (.st o) s lanes at_ n)

/-- LDG and STG move a row of 2^g elements per lane at base plus index times row size; a lane whose index is 0xFFFFFFFF
reads zeros and stores nothing; PROG is 0 on completion (11 R249, R250). -/
def Sys2Proof.Claims.GathersAndScatters : Prop :=
  ∀ (s : State) (x : Env) (o : Op) (hdr : DWord) (at_ : Nat → Leaf × Nat),
    let t := x.t
    let sel := t.selected o.guard
    let idx (l : Nat) : Nat := t.operand 6 o o.b l
    let lanes := (lanesOf t.width sel).filter (fun l => idx l ≠ 0xFFFFFFFF)
    let ty := memType o.c
    let g := 2 ^ (o.c.extractLsb' 10 3).toNat
    let w := memWidth ty
    let regs := if type64 ty then 2 else 1
    let addr (l : Nat) : Nat := (t.rawPair o.a 0 + BitVec.ofNat 64 (idx l * g * w)).toNat
    let l1 (l : Nat) : Bool := atL1 (opPolicy o) (opScope o) (at_ l).1
    (Runs s x 0x125 o hdr →
      Reached s x .load .plain (g * w) lanes addr at_ → Clean s x lanes l1 at_ (g * w) →
      HasEntries s x lanes (pointOf (opPolicy o) (opScope o)) at_ (g * w) →
      Performs (.ldg o) s x (ends 0x125 o x) 1 hdr (fun q => q) (fun q =>
        { (Effect.none t).toV t o.w o.dst.toNat sel ((List.range (g * regs)).map (fun j l =>
            if idx l = 0xFFFFFFFF then 0
            else (filled ty w (q.viewNat x.core (l1 l) ((at_ l).2 + j / regs * w) w)).getD (j % regs) 0)) [] with prog := 0 }))
    ∧ (Runs s x 0x126 o hdr →
      Reached s x .store .plain (g * w) lanes addr at_ → HasEntries s x lanes (pointOf (opPolicy o) (opScope o)) at_ (g * w) →
      Performs (.stg o) s x (ends 0x126 o x) 1 hdr
        (storesOf x lanes l1 at_ (fun l => (List.range g).flatMap (fun j => registerBytes t (o.dst.toNat + j * regs) w l)))
        (fun _ => { Effect.none t with prog := 0 })
      ∧ OnlyStored (.stg o) s lanes at_ (g * w))

/-- LDB, LDSC and STB move the codes and the scale byte of each block of a typed line with a selected lane, at the address
of its lowest selected lane, each block at the point of performance that policy and scope name (11 R248; 09 R206, R207; 02
R47). Every access is performed when it issues, which is the model's reading (log entry 26). -/
def Obligations.BlockLoadsAndStores : Prop :=
  ∀ (s : State) (x : Env) (o : Op) (hdr : DWord) (at_ : BlockReq → BlockAt),
    let t := x.t
    let sel := t.selected o.guard
    let ty := blockType o
    let T := fmtOf ty
    let reqs := blockReqs o t sel
    let bs := reqs.map at_
    let six := decide (ty = 14 ∨ ty = 15)
    let l1 (b : BlockAt) : Bool := atL1 (opPolicy o) (opScope o) b.leaf
    let ok (acc : Access) : Prop := (∀ q ∈ reqs, reachBlock o acc x s q = .ok (at_ q))
      ∧ (s.takeEntries x.core (bs.map (fun b => (pointOf (opPolicy o) (opScope o) b.leaf, b.key, T.blockBytes)))).isSome = true
    let cleanCodes : Prop := ∀ b ∈ bs, ∀ l ∈ b.req.lanes,
      s.poisonAny x.core (l1 b) (b.key + (b.laneKey ty l - b.key)) (laneBytes ty) = false
    let cleanScale : Prop := ∀ b ∈ bs,
      (s.scalePoison b.key T.blockBytes && s.poisonAny x.core (l1 b) b.key T.blockBytes) = false
    let seen (q : State) (b : BlockAt) : Nat × Byte := q.viewBlock x.core (l1 b) T b
    let tags (q : State) : List (Nat × Byte) := bs.map (fun b => (b.req.block, (seen q b).2))
    (Runs s x 0x122 o hdr → ok .load → cleanCodes →
      Performs (.ldb o) s x (ends 0x122 o x) 1 hdr (fun q => q) (fun q =>
        (Effect.none t).toV t o.w o.dst.toNat sel [fun l =>
          match bs.find? (fun b => b.req.lanes.contains l) with
          | some b =>
            let m := (seen q b).1 / 2 ^ (8 * (b.laneKey ty l - b.key)) % 2 ^ (8 * laneBytes ty)
            BitVec.ofNat 32 (if six then joinElems 8 ((List.range 4).map (elemOf 6 m)) else m)
          | none => 0] (tags q)))
    ∧ (Runs s x 0x124 o hdr → ok .load → cleanScale →
      Performs (.ldsc o) s x (ends 0x124 o x) 1 hdr (fun q => q) (fun q =>
        (Effect.none t).toV t o.w o.dst.toNat sel [fun l => t.readV o.dst.toNat l] (tags q)))
    ∧ (Runs s x 0x123 o hdr → ok .store →
      Performs (.stb o) s x (ends 0x123 o x) 1 hdr
        (fun q => bs.foldl (fun q b => q.putBlock x.core (l1 b) T b
          (b.req.lanes.flatMap (fun l =>
            let m := (t.readV o.dst.toNat l).toNat
            keyed (b.laneKey ty l) (bytesOf (laneBytes ty) (if six then joinElems 6 ((List.range 4).map (elemOf 8 m)) else m))))
          (t.readTag o.dst.toNat b.req.block)) q)
        (fun _ => Effect.none t))

/-- The new value of an atomic operation (10 R236; 11 R251): for integers of either width a sum modulo 2^w, the smaller or the
larger in the order of the type, the bitwise combinations; for f32 a sum rounded to nearest and the values of FMIN and FMAX; b in
an exchange, and in a compare-and-swap only where the old value is the prior one. -/
def Sys2Proof.Claims.AtomicValues : Prop :=
  (∀ (ty w : Nat), ((ty = 5 ∨ ty = 6) ∧ w = 32) ∨ ((ty = 7 ∨ ty = 8) ∧ w = 64) → ∀ old b prior : BitVec w,
    let f (op : Nat) : Nat := atomNew op ty old.toNat b.toNat prior.toNat
    let less (x y : BitVec w) : Bool := if ty % 2 = 1 then x.slt y else x.ult y
    f 0 = (old + b).toNat ∧ f 1 = (if less b old then b else old).toNat ∧ f 2 = (if less old b then b else old).toNat
    ∧ f 3 = (old &&& b).toNat ∧ f 4 = (old ||| b).toNat ∧ f 5 = (old ^^^ b).toNat ∧ f 6 = b.toNat
    ∧ f 7 = (if old = prior then b else old).toNat)
  ∧ ∀ old b prior : Nat, atomNew 0 11 old b prior = addF .fp32 ⟨.rne, 0⟩ old b ∧ atomNew 1 11 old b prior = minF .fp32 old b
    ∧ atomNew 2 11 old b prior = maxF .fp32 old b ∧ atomNew 6 11 old b prior = b
    ∧ atomNew 7 11 old b prior = if old = prior then b else old

/-- ATOM and RED read, combine and write each lane's word in lane order, ATOM delivering the old values, when no lane faults
and DET_ATOMIC does not apply (11 R251, R252; 10 R236); in a deterministic launch a float add traps DET_ATOMIC. -/
def Sys2Proof.Claims.Atomics : Prop :=
  ∀ (s : State) (x : Env) (o : Op) (hdr : DWord) (at_ : Nat → Leaf × Nat),
    let t := x.t
    let sel := t.selected o.guard
    let lanes := lanesOf t.width sel
    let ty := atomType o.c
    let n := memWidth ty
    let l1 (l : Nat) : Bool := atL1 0 (opScope o) (at_ l).1
    let prior (l : Nat) : Nat := if type64 ty then (t.readV (o.dst.toNat + 1) l ++ t.readV o.dst.toNat l).toNat
      else (t.readV o.dst.toNat l).toNat
    let one (acc : State × (Nat → Nat)) (l : Nat) : State × (Nat → Nat) :=
      let old := acc.1.viewNat x.core (l1 l) (at_ l).2 n
      (acc.1.viewWrite x.core (l1 l) (keyed (at_ l).2
          (bytesOf n (atomNew (o.c.extractLsb' 10 3).toNat ty old (t.operand ty o o.b l) (prior l)))),
        fun j => if j = l then old else acc.2 j)
    let all (q : State) : State × (Nat → Nat) := lanes.foldl one (q, fun _ => 0)
    let ok : Prop := detAtomic o x = false
      ∧ (∀ l ∈ lanes, reachAtomic n x s (t.rawPair o.a l).toNat = .ok (at_ l)) ∧ Clean s x lanes l1 at_ n
      ∧ HasEntries s x lanes (pointOf 0 (opScope o)) at_ n
    (Runs s x 0x127 o hdr → ok →
      Performs (.atom o) s x (ends 0x127 o x) 1 hdr (fun q => (all q).1)
        (fun q => (Effect.none t).toV t o.w o.dst.toNat sel (loadedRegs ty n (all q).2) [])
      ∧ OnlyStored (.atom o) s lanes at_ n)
    ∧ (Runs s x 0x128 o hdr → ok →
      Performs (.red o) s x (ends 0x128 o x) 1 hdr (fun q => (all q).1) (fun _ => Effect.none t)
      ∧ OnlyStored (.red o) s lanes at_ n)
    ∧ (∀ (i : Op → Instr) (code : Nat), ((i = .atom ∧ code = 0x127) ∨ (i = .red ∧ code = 0x128)) → Runs s x code o hdr →
        x.t.det = true → sel ≠ 0 → o.c.extractLsb' 10 3 = 0 → ty = 11 → Traps (i o) s x 0x30 0 sel)

/-- FENCE at cluster scope or wider leaves no line in the core's L1, every earlier .ca store of the core being in memory; its
promoting form leaves no unwritten store in any L1 (11 R253). PREF changes no byte that any access sees (R254). CCTL writes
through, invalidates, or drops translations, as its operation says (R255); before it drops translations it waits for the
copies and the engine work of the core that are still to access pages under old ones (09 R220). -/
def Sys2Proof.Claims.FencesAndCacheControl : Prop :=
  ∀ (s : State) (x : Env) (o : Op) (hdr : DWord),
    let core (e : Nat × L1Byte) : Nat := State.l1Core e.1
    let dirty (e : Nat × L1Byte) : Prop := ∃ b, e.2 = .dirty b
    let f := (o.c.extractLsb' 10 3).toNat
    let goes (i : Instr) (code : Nat) (q : State) : Prop :=
      Drained s q ∧ Answers i s x (ends code o x) 1 (goesTo x hdr x.t.frontier) (Effect.none x.t) q
    (Runs s x 0x129 o hdr → ∃ q, goes (.fence o) 0x129 q
      ∧ (2 ≤ opScope o → ∀ e ∈ q.l1, core e ≠ x.core) ∧ (f = 3 → ∀ e ∈ q.l1, ¬ dirty e))
    ∧ (Runs s x 0x12A o hdr → ∃ q, goes (.pref o) 0x12A q ∧ q.mem = s.mem ∧ q.l1 = s.l1)
    ∧ (Runs s x 0x12B o hdr → 4 ≤ f →
      s.staleWork (fun q => q.core = x.core) (fun _ => true) (fun c => c = x.core) = true →
      exec (.cctl o) s = .next (s.modTroupe x.r (fun t => { t with midRun := true, redo := false })))
    ∧ (Runs s x 0x12B o hdr →
      (4 ≤ f → s.staleWork (fun q => q.core = x.core) (fun _ => true) (fun c => c = x.core) = false) → ∃ q,
      goes (.cctl o) 0x12B q
      ∧ (f = 0 → ∀ e ∈ q.l1, core e = x.core → ¬ dirty e) ∧ (f = 1 → ∀ e ∈ q.l1, core e ≠ x.core)
      ∧ (f = 2 ∨ f = 3 → ∀ l ∈ lanesOf x.t.width (x.t.selected o.guard), ∀ leaf k,
          s.checkAccess x.core x.ctx .load .any 1 (laneAddr o x.t l) (pageChoice (laneAddr o x.t l)) = .ok (leaf, k) →
          ∀ e ∈ q.l1, core e = x.core → State.l1Addr (State.l1Phys e.1) / 256 = k / 256 → (f = 2 ∧ ¬ dirty e))
      ∧ (4 ≤ f → (∀ e ∈ q.tlb, e.core ≠ x.core) ∧ q.l1 = s.l1))

/-! ## The arena (10) -/

/-- LDA, LDAB and ATOMA read the present plane, STA, STAB and ATOMA write, and a store to a planar region is combined into
its next plane, STAB block by block, the codes of its lanes and then its scale byte, when no lane has a fault; outside the
bytes stored the allocation keeps its bytes, and global memory keeps all of them (10 R228 to R236). A store leaves the troupe
owing its next MFENCE (12 R296). -/
def Sys2Proof.Claims.ArenaAccesses : Prop :=
  ∀ (s : State) (x : Env) (o : Op) (hdr : DWord),
    let t := x.t
    let sel := t.selected o.guard
    let lanes := lanesOf t.width sel
    let d := x.b.region (o.c.extractLsb' 0 4).toNat
    let ty := memType o.c
    let n := memWidth ty
    let off := ldaAddr o t
    let inside (al n : Nat) (off : Nat) : Prop := rgnV d = true ∧ off % al = 0 ∧ off + n ≤ rgnSize d
    let unstored (b : Block) (a : Nat → Nat) (n : Nat) : Prop :=
      ∀ k, (∀ l ∈ lanes, k < a l ∨ a l + n ≤ k) → b.rdArena k = x.b.rdArena k
    (Runs s x 0x140 o hdr →
      (∀ l ∈ lanes, inside n n (off l) ∧ x.b.arenaPoison (presentAt d + off l) n = false) →
      InBlock (.lda o) s x (ends 0x140 o x) 1 hdr x.b ((Effect.none t).toV t o.w o.dst.toNat sel
        (loadedRegs ty n (fun l => x.b.arenaNat (presentAt d + off l) n)) []))
    ∧ (Runs s x 0x141 o hdr →
      (∀ l ∈ lanes, inside n n (off l) ∧ (rgnPlanar d = true → n = rgnWord d)) →
      (rgnPlanar d = false →
        let b1 := lanes.foldl (fun b l => b.wrArena (rgnBase d + off l) (registerBytes t o.dst.toNat n l) (s.seq + 1)
          (.store x.r.troupe)) x.b
        InBlock (.sta o) s x (ends 0x141 o x) 1 hdr b1 { Effect.none t with busy := true }
          ∧ unstored b1 (fun l => rgnBase d + off l) n)
      ∧ (∀ b1, rgnPlanar d = true →
        lanes.foldl (fun (b : Option Block) l => b.bind (fun b => planarWrite b d (nextAt d + off l)
          (ofBytes (registerBytes t o.dst.toNat n l)) (s.seq + 1) (.lane x.r.troupe l) (.store x.r.troupe) false)) (some x.b) = some b1 →
        InBlock (.sta o) s x (ends 0x141 o x) 1 hdr b1 { Effect.none t with busy := true }
          ∧ unstored b1 (fun l => nextAt d + off l) n))
    ∧ (let eo (l : Nat) : Nat := t.operand 6 o o.a l
       let bt := blockType o
       let bs := arenaBlocks o t sel
       let six := decide (bt = 14 ∨ bt = 15)
       (Runs s x 0x142 o hdr → (∀ l ∈ lanes, arenaBlockCheck o false x d bs l = none) →
         InBlock (.ldab o) s x (ends 0x142 o x) 1 hdr x.b ((Effect.none t).toV t o.w o.dst.toNat sel
           [fun l => let m := x.b.arenaNat (presentAt d + eo l) (laneBytes bt)
             BitVec.ofNat 32 (if six then joinElems 8 ((List.range 4).map (elemOf 6 m)) else m)]
           (bs.map (fun b => (b.block, x.b.rdArena (presentAt d + b.scale))))))
       ∧ (Runs s x 0x143 o hdr → (∀ l ∈ lanes, arenaBlockCheck o true x d bs l = none) →
         let put (b : Block) (a : Nat) (bytes : List Byte) : Block := b.wrArena a bytes (s.seq + 1) (.store x.r.troupe)
         let b1 := bs.foldl (fun b q =>
           put (q.lanes.foldl (fun b l =>
             let m := (t.readV o.dst.toNat l).toNat
             put b (rgnBase d + eo l)
               (bytesOf (laneBytes bt) (if six then joinElems 6 ((List.range 4).map (elemOf 8 m)) else m))) b)
             (rgnBase d + q.scale) [t.readTag o.dst.toNat q.block]) x.b
         InBlock (.stab o) s x (ends 0x143 o x) 1 hdr b1 { Effect.none t with busy := true }
           ∧ ∀ k, (∀ l ∈ lanes, k < rgnBase d + eo l ∨ rgnBase d + eo l + laneBytes bt ≤ k) →
               (∀ b ∈ bs, k ≠ rgnBase d + b.scale) → b1.rdArena k = x.b.rdArena k))
    ∧ (Runs s x 0x144 o hdr →
      let aty := atomType o.c
      let m := memWidth aty
      let ao (l : Nat) : Nat := presentAt d + t.operand 6 o o.a l
      (t.det = false ∨ sel = 0 ∨ o.c.extractLsb' 10 3 ≠ 0 ∨ aty ≠ 11) → rgnPlanar d = false →
      (∀ l ∈ lanes, inside m m (t.operand 6 o o.a l) ∧ x.b.arenaPoison (ao l) m = false) →
      let one (acc : Block × (Nat → Nat)) (l : Nat) : Block × (Nat → Nat) :=
        let old := acc.1.arenaNat (ao l) m
        (acc.1.wrArena (ao l) (bytesOf m (atomNew (o.c.extractLsb' 10 3).toNat aty old (t.operand aty o o.b l) (atomPrior o t l)))
          (s.seq + 1) (.store x.r.troupe), fun j => if j = l then old else acc.2 j)
      let out := lanes.foldl one (x.b, fun _ => 0)
      InBlock (.atoma o) s x (ends 0x144 o x) 1 hdr out.1
        { (Effect.none t).toV t o.w o.dst.toNat sel (loadedRegs aty m out.2) [] with busy := true }
      ∧ unstored out.1 ao m)
    ∧ (Runs s x 0x146 o hdr → Completes (.rgq o) s x (ends 0x146 o x) 1 hdr
      ((Effect.none t).toS t false o.w o.dst.toNat
        (if rgnV d then [d.extractLsb' 0 32, d.extractLsb' 32 32] else [0, 0])))

/-- A store to a word of a next plane does not depend on the order in which the lanes of different troupes are performed:
the word's value is the same, and so is whether a collision stops one of them (10 R231, R232), except for a float SUM. -/
def Sys2Proof.Claims.PlanarStoresDoNotDependOnOrder : Prop :=
  ∀ (b : Block) (d : DWord) (a v1 v2 seq t1 l1 t2 l2 : Nat), t1 ≠ t2 → l1 < 128 → l2 < 128 →
    (rgnRule d = 0 ∨ rgnRule d = 2 ∨ (rgnRule d = 1 ∧ (rgnType d = 1 ∨ rgnType d = 2))) →
    ((planarWrite b d a v1 seq (.lane t1 l1) (.store t1) false).bind (fun c => planarWrite c d a v2 seq (.lane t2 l2) (.store t2) false)).map
        (fun c => c.arenaNat a (rgnWord d))
      = ((planarWrite b d a v2 seq (.lane t2 l2) (.store t2) false).bind (fun c => planarWrite c d a v1 seq (.lane t1 l1) (.store t1) false)).map
        (fun c => c.arenaNat a (rgnWord d))

/-! ## Faults of lanes (04 R100; 09 R218, R219; 10 R228) -/

namespace Sys2Proof.Claims

/-- The lane whose fault an instruction reports: of the lowest rank that any lane meets, the lowest lane. -/
def Reports (lanes : List Nat) (rank : Nat → Option Nat) (l : Nat) : Prop :=
  ∃ r, l ∈ lanes ∧ rank l = some r ∧ ∀ m ∈ lanes, ∀ q, rank m = some q → r < q ∨ (r = q ∧ l ≤ m)

/-- The troupe as a word with destination `d` leaves it that traps with the effect `e` in the lanes that completed, `done` among
them those that PROG counts: registers, tags and what else `e` names read as it says, with W what they have yielded is kept for
the latch (03 R86), and nothing else has changed, no latch and no frontier. -/
structure LeavesAtTrap (t : Troupe) (w : Bool) (d : Nat) (done : Lanes) (e : Effect) (t' : Troupe) : Prop where
  v    : ∀ r l, l < 128 → t'.readV r l = e.v r l
  s    : ∀ r, t'.readS r = t.readS r
  tag  : ∀ r b, b < 32 → t'.readTag r b = e.tag r b
  wrote : ∀ r, sget 0 t'.wrote r = e.wrote r
  kept : (w = false ∨ e.latch = none) → t'.kept = t.kept ∧ t'.keptTag = t.keptTag
  held : ∀ y, w = true → e.latch = some y → (∀ l, l < t.width → t'.priorV d l = (y.vals[l]?).getD 0)
    ∧ ∀ b, b < 32 → t'.priorTag d b = (y.tag[b]?).getD 0
  rest : t' = { t with
    v := t'.v, sc := t'.sc, late := t'.late, wrote := t'.wrote, prog := e.prog, arenaBusy := e.busy
    served := t.served ||| done, kept := t'.kept, keptTag := t'.keptTag }

/-- A memory instruction of which some of `lanes` meet the faults `fault` (09 R218): one cause is reported, the first in the
order MISALIGNED, ACCESS_FAULT, PAGE_FAULT, TYPE_MISMATCH, POISON that a lane meets, with its reason and the address of its
lowest lane in TVAL and every faulting lane in TMASK; the other lanes have taken the effects `op` on memory and `e` on the
troupe. -/
def FaultsStop (i : Instr) (o : Op) (s : State) (x : Env) (acc : Access) (lanes : List Nat) (fault : Nat → Option MemFault)
    (done : Lanes) (op : State → State) (e : State → Effect) : Prop :=
  ∀ l f, fault l = some f →
    Reports lanes (fun m => (fault m).map (fun g => ([0x0A, 0x09, 0x08, 0x0B, 0x0C] : List Nat).idxOf g.cause)) l →
    ∃ s2 s4 t', Drained s s2 ∧ Drained (op s2) s4 ∧ LeavesAtTrap x.t o.w o.dst.toNat done (e s2) t'
      ∧ exec i s = .next ((s4.setTroupe x.r t').takeTrap x.r x.cl.launch x.c.pc
        ⟨f.cause, BitVec.ofNat 64 (f.reason % 128 * 2 ^ 57 + f.va % 2 ^ 57),
          maskWhere 128 (fun m => lanes.contains m && (fault m).isSome), if f.recov then some (f.va, acc, f.reason) else none⟩)

/-- The fault of a lane whose address has been checked: that of the check, or POISON at the lane's own address (R212). -/
def laneFault (chk : Except MemFault (Leaf × Nat)) (poisoned : Bool) (va : Nat) : Option MemFault :=
  match chk with
  | .error f => some f
  | .ok _ => if poisoned then some ⟨0x0C, 0, va, false⟩ else none

/-- `at_` gives the page and key of each lane whose check passes. -/
def Places (lanes : List Nat) (chk : Nat → Except MemFault (Leaf × Nat)) (at_ : Nat → Leaf × Nat) : Prop :=
  ∀ l ∈ lanes, ∀ p, chk l = .ok p → at_ l = p

/-- No store waits in an L1 cache. -/
def NoneWaits (s : State) : Prop := ∀ e ∈ s.l1, ∀ b, e.2 ≠ .dirty b

end Sys2Proof.Claims

/-- LD, ST, LDG, STG, ATOM and RED with faulting lanes: the trap that R218 names, the registers of the faulting lanes kept and
their bytes not stored, and the other lanes complete without a latch (04 R86, R100; 09 R205, R212, R217, R218); LDG and STG
leave PROG at the elements of the lanes below the lowest of TMASK, those done before a stop inside the word included (11 R250).
Where no store waits in L1, so that what is poisoned is what memory holds as such. -/
def Sys2Proof.Claims.MemoryFaultsTrap : Prop :=
  ∀ (s : State) (x : Env) (o : Op) (hdr : DWord) (at_ : Nat → Leaf × Nat), NoneWaits s →
    let t := x.t
    let sel := t.selected o.guard
    let all := lanesOf t.width sel
    let l1 (l : Nat) : Bool := atL1 (opPolicy o) (opScope o) (at_ l).1
    let plain (acc : Access) (n va : Nat) : Except MemFault (Leaf × Nat) :=
      s.checkAccess x.core x.ctx acc .plain n va (pageChoice va)
    let met (lanes : List Nat) (chk : Nat → Except MemFault (Leaf × Nat)) (pt : Leaf → Point) (n : Nat) : Prop :=
      Places lanes chk at_ ∧ HasEntries s x (lanes.filter (fun l => (chk l).isOk)) pt at_ n
    let pt := pointOf (opPolicy o) (opScope o)
    let good (lanes : List Nat) (fault : Nat → Option MemFault) : List Nat := lanes.filter (fun l => (fault l).isNone)
    let okMask (fault : Nat → Option MemFault) : Lanes := maskWhere t.width (fun l => hasLane sel l && (fault l).isNone)
    (let n := ldWidth o
      let chk (acc : Access) (l : Nat) := plain acc n (laneAddr o t l)
      let fl (l : Nat) := laneFault (chk .load l) (s.poisonAny x.core (l1 l) (at_ l).2 n) (laneAddr o t l)
      let fs (l : Nat) := laneFault (chk .store l) false (laneAddr o t l)
      (Runs s x 0x120 o hdr → met all (chk .load) pt n → FaultsStop (.ld o) o s x .load all fl 0 (fun q => q) (fun q =>
        (Effect.none t).toV t o.w o.dst.toNat (okMask fl)
          (loadedRegs (memType o.c) n (fun l => q.viewNat x.core (l1 l) (at_ l).2 n)) []))
      ∧ (Runs s x 0x121 o hdr → met all (chk .store) pt n →
        FaultsStop (.st o) o s x .store all fs 0 (storesOf x (good all fs) l1 at_ (registerBytes t o.dst.toNat n))
          (fun _ => Effect.none t)))
    ∧ (let idx (l : Nat) : Nat := t.operand 6 o o.b l
        let lanes := all.filter (fun l => idx l ≠ 0xFFFFFFFF)
        let ty := memType o.c
        let g := 2 ^ (o.c.extractLsb' 10 3).toNat
        let w := memWidth ty
        let regs := if type64 ty then 2 else 1
        let addr (l : Nat) : Nat := (t.rawPair o.a 0 + BitVec.ofNat 64 (idx l * g * w)).toNat
        let chk (acc : Access) (l : Nat) := plain acc (g * w) (addr l)
        let fault (acc : Access) (poison : Nat → Bool) (l : Nat) : Option MemFault :=
          if idx l = 0xFFFFFFFF then none else laneFault (chk acc l) (poison l) (addr l)
        let fl := fault .load (fun l => s.poisonAny x.core (l1 l) (at_ l).2 (g * w))
        let fs := fault .store (fun _ => false)
        let prog (f : Nat → Option MemFault) : Word :=
          BitVec.ofNat 32 (g * ((lanesOf t.width (sel ||| t.served)).filter (fun l => all.all (fun m => (f m).isNone || l < m))).length)
        (Runs s x 0x125 o hdr → met lanes (chk .load) pt (g * w) → FaultsStop (.ldg o) o s x .load lanes fl (okMask fl) (fun q => q) (fun q =>
          { (Effect.none t).toV t o.w o.dst.toNat (okMask fl) ((List.range (g * regs)).map (fun j l =>
              if idx l = 0xFFFFFFFF then 0
              else (filled ty w (q.viewNat x.core (l1 l) ((at_ l).2 + j / regs * w) w)).getD (j % regs) 0)) [] with
            prog := prog fl }))
        ∧ (Runs s x 0x126 o hdr → met lanes (chk .store) pt (g * w) → FaultsStop (.stg o) o s x .store lanes fs (okMask fs)
          (storesOf x (good lanes fs) l1 at_ (fun l => (List.range g).flatMap (fun j => registerBytes t (o.dst.toNat + j * regs) w l)))
          (fun _ => { Effect.none t with prog := prog fs })))
    ∧ (let ty := atomType o.c
        let n := memWidth ty
        let al1 (l : Nat) : Bool := atL1 0 (opScope o) (at_ l).1
        let va (l : Nat) : Nat := (t.rawPair o.a l).toNat
        let chk (l : Nat) := reachAtomic n x s (va l)
        let fault (l : Nat) := laneFault (chk l) (s.poisonAny x.core (al1 l) (at_ l).2 n) (va l)
        let one (acc : State × (Nat → Nat)) (l : Nat) : State × (Nat → Nat) :=
          let old := acc.1.viewNat x.core (al1 l) (at_ l).2 n
          (acc.1.viewWrite x.core (al1 l) (keyed (at_ l).2 (bytesOf n
              (atomNew (o.c.extractLsb' 10 3).toNat ty old (t.operand ty o o.b l) (atomPrior o t l)))),
            fun j => if j = l then old else acc.2 j)
        let done (q : State) : State × (Nat → Nat) := (good all fault).foldl one (q, fun _ => 0)
        met all chk (pointOf 0 (opScope o)) n → detAtomic o x = false →
        (Runs s x 0x127 o hdr → FaultsStop (.atom o) o s x .atomic all fault 0 (fun q => (done q).1) (fun q =>
          (Effect.none t).toV t o.w o.dst.toNat (okMask fault) (loadedRegs ty n (done q).2) []))
        ∧ (Runs s x 0x128 o hdr → FaultsStop (.red o) o s x .atomic all fault 0 (fun q => (done q).1) (fun _ => Effect.none t)))

/-- LDB, LDSC and STB with faulting blocks: MISALIGNED where the lead's address is not the start of a block of its line, the
fault of the lead's access as one to a typed page of the format, or POISON of a lane's codes (LDB) or of the block's line with
its sideband (LDSC); each a fault of the block's selected lanes, or of the lane whose codes are poisoned. The trap is that of
R218, at the lead's address, the model's reading (log entry 88). The other lanes complete without a latch; a block with a
faulting lane keeps its tag byte, and a block that faults is not stored (04 R86, R100; 09 R205, R209, R212, R218; 11 R248). No
store waits in L1. -/
def Sys2Proof.Claims.BlockFaultsTrap : Prop :=
  ∀ (s : State) (x : Env) (o : Op) (hdr : DWord) (at_ : BlockReq → BlockAt), NoneWaits s →
    let t := x.t
    let sel := t.selected o.guard
    let all := lanesOf t.width sel
    let ty := blockType o
    let T := fmtOf ty
    let six := decide (ty = 14 ∨ ty = 15)
    let reqs := blockReqs o t sel
    let l1 (b : BlockAt) : Bool := atL1 (opPolicy o) (opScope o) b.leaf
    let chk (acc : Access) (q : BlockReq) : Option MemFault :=
      if q.va % 256 % T.blockBytes ≠ 0 ∨ lineBlocks T ≤ q.va % 256 / T.blockBytes then some ⟨0x0A, 0, q.va, false⟩
      else match s.checkAccess x.core x.ctx acc (.typed T.pageFmt) 1 q.va (pageChoice q.va) with
        | .error f => some f
        | .ok _ => none
    let fault (acc : Access) (poison : BlockAt → Nat → Bool) (l : Nat) : Option MemFault :=
      match reqs.find? (fun q => q.lanes.contains l) with
      | none => none
      | some q => if (chk acc q).isSome then chk acc q else if poison (at_ q) l then some ⟨0x0C, 0, q.va, false⟩ else none
    let reached (acc : Access) : List BlockAt := (reqs.filter (fun q => (chk acc q).isNone)).map at_
    let met (acc : Access) : Prop := (∀ q ∈ reqs, ∀ b, reachBlock o acc x s q = .ok b → at_ q = b)
      ∧ (s.takeEntries x.core ((reached acc).map (fun b => (pointOf (opPolicy o) (opScope o) b.leaf, b.key, T.blockBytes)))).isSome = true
    let codesBad (b : BlockAt) (l : Nat) : Bool := s.poisonAny x.core (l1 b) (b.laneKey ty l) (laneBytes ty)
    let lineBad (b : BlockAt) (_ : Nat) : Bool := s.scalePoison b.key T.blockBytes && s.poisonAny x.core (l1 b) b.key T.blockBytes
    let fb := fault .load codesBad
    let fsc := fault .load lineBad
    let fst := fault .store (fun _ _ => false)
    let okMask (f : Nat → Option MemFault) : Lanes := maskWhere t.width (fun l => hasLane sel l && (f l).isNone)
    let tags (f : Nat → Option MemFault) (q : State) : List (Nat × Byte) :=
      ((reached .load).filter (fun b => b.req.lanes.all (fun l => (f l).isNone))).map
        (fun b => (b.req.block, (q.viewBlock x.core (l1 b) T b).2))
    (Runs s x 0x122 o hdr → met .load → FaultsStop (.ldb o) o s x .load all fb 0 (fun q => q) (fun q =>
      (Effect.none t).toV t o.w o.dst.toNat (okMask fb) [fun l =>
        match (reached .load).find? (fun b => b.req.lanes.contains l) with
        | some b =>
          let m := (q.viewBlock x.core (l1 b) T b).1 / 2 ^ (8 * (b.laneKey ty l - b.key)) % 2 ^ (8 * laneBytes ty)
          BitVec.ofNat 32 (if six then joinElems 8 ((List.range 4).map (elemOf 6 m)) else m)
        | none => 0] (tags fb q)))
    ∧ (Runs s x 0x124 o hdr → met .load → FaultsStop (.ldsc o) o s x .load all fsc 0 (fun q => q) (fun q =>
      (Effect.none t).toV t o.w o.dst.toNat (okMask fsc) [fun l => t.readV o.dst.toNat l] (tags fsc q)))
    ∧ (Runs s x 0x123 o hdr → met .store → FaultsStop (.stb o) o s x .store all fst 0
      (fun q => (reached .store).foldl (fun q b => q.putBlock x.core (l1 b) T b
        (b.req.lanes.flatMap (fun l =>
          let m := (t.readV o.dst.toNat l).toNat
          keyed (b.laneKey ty l) (bytesOf (laneBytes ty) (if six then joinElems 6 ((List.range 4).map (elemOf 8 m)) else m))))
        (t.readTag o.dst.toNat b.req.block)) q)
      (fun _ => Effect.none t))

/-- LDA, STA, LDAB, STAB and ATOMA with faulting lanes: the first fault in the order of R228 that a lane meets is reported,
with its reason, the region and the offset of its lowest lane in TVAL, and every faulting lane in TMASK; the other lanes
complete without a latch, and a block with a faulting lane keeps its tag byte (04 R100; 10 R228 to R236). A store to a planar
region of rule FAULT that collides is among the faults (R232). -/
def Sys2Proof.Claims.ArenaFaultsTrap : Prop :=
  ∀ (s : State) (x : Env) (o : Op) (hdr : DWord),
    let t := x.t
    let sel := t.selected o.guard
    let lanes := lanesOf t.width sel
    let r := (o.c.extractLsb' 0 4).toNat
    let d := x.b.region r
    let off := ldaAddr o t
    let a (l : Nat) : Nat := t.operand 6 o o.a l
    let n := memWidth (memType o.c)
    let bounds (al n o : Nat) : Option ArenaFault :=
      if rgnV d = false then some ⟨1, 0x10, 1, o⟩
      else if o % al ≠ 0 then some ⟨2, 0x0A, 0, o⟩
      else if rgnSize d < o + n then some ⟨3, 0x10, 2, o⟩
      else none
    let thenSome (f : Option ArenaFault) (c : Bool) (g : ArenaFault) : Option ArenaFault :=
      if f.isSome then f else if c then some g else none
    let okMask (fault : Nat → Option ArenaFault) : Lanes := maskWhere t.width (fun l => hasLane sel l && (fault l).isNone)
    let good (fault : Nat → Option ArenaFault) : List Nat := lanes.filter (fun l => (fault l).isNone)
    let stops (i : Instr) (fault : Nat → Option ArenaFault) (b : Block) (e : Effect) : Prop :=
      ∀ l f, fault l = some f → Reports lanes (fun m => (fault m).map (·.rank)) l → ∃ (q : State) (t' : Troupe),
        q = { s.setBlock x.r.cluster x.r.block b with seq := q.seq, coreCount := q.coreCount } ∧ LeavesAtTrap t o.w o.dst.toNat 0 e t'
        ∧ exec i s = .next ((q.setTroupe x.r t').takeTrap x.r x.cl.launch x.c.pc
          ⟨f.cause, BitVec.ofNat 64 (f.reason * 2 ^ 57 + r * 2 ^ 32 + f.off % 2 ^ 32),
            maskWhere 128 (fun m => lanes.contains m && (fault m).isSome), none⟩)
    (let fault (l : Nat) : Option ArenaFault :=
        thenSome (bounds n n (off l)) (x.b.arenaPoison (presentAt d + off l) n) ⟨5, 0x0C, 0, off l⟩
     Runs s x 0x140 o hdr → stops (.lda o) fault x.b ((Effect.none t).toV t o.w o.dst.toNat (okMask fault)
        (loadedRegs (memType o.c) n (fun l => x.b.arenaNat (presentAt d + off l) n)) []))
    ∧ (let check (l : Nat) := thenSome (bounds n n (off l)) (rgnPlanar d && n ≠ rgnWord d) ⟨4, 0x0B, 4, off l⟩
       Runs s x 0x141 o hdr → ∀ b1 hits,
          staLanes d (s.seq + 1) x.r.troupe off (registerBytes t o.dst.toNat n) (good check) x.b = (b1, hits) →
          let fault (l : Nat) := thenSome (check l) (hits.any (fun h => decide (h.1 = l))) ⟨6, 0x11, 1, off l⟩
          stops (.sta o) fault b1 { Effect.none t with busy := true }
            ∧ (∀ h ∈ hits, rgnPlanar d = true ∧ rgnRule d = 2)
            ∧ (rgnPlanar d = false → b1 = (good check).foldl (fun b l =>
                b.wrArena (rgnBase d + off l) (registerBytes t o.dst.toNat n l) (s.seq + 1) (.store x.r.troupe)) x.b))
    ∧ (let bt := blockType o
        let bs := arenaBlocks o t sel
        let six := decide (bt = 14 ∨ bt = 15)
        let sc (l : Nat) : Nat := ((bs.find? (fun b => b.lanes.contains l)).map (·.scale)).getD 0
        let both (l : Nat) : Option ArenaFault :=
          match bounds (if six then 3 else 4) (laneBytes bt) (a l), bounds 1 1 (sc l) with
          | some f, some g => some (if g.rank < f.rank then g else f)
          | some f, none => some f
          | none, g => g
        (let fault (l : Nat) := thenSome (thenSome (both l) (x.b.arenaPoison (presentAt d + a l) (laneBytes bt)) ⟨5, 0x0C, 0, a l⟩)
            (x.b.arenaPoison (presentAt d + sc l) 1) ⟨5, 0x0C, 0, sc l⟩
         Runs s x 0x142 o hdr → stops (.ldab o) fault x.b ((Effect.none t).toV t o.w o.dst.toNat (okMask fault)
            [fun l => let m := x.b.arenaNat (presentAt d + a l) (laneBytes bt)
              BitVec.ofNat 32 (if six then joinElems 8 ((List.range 4).map (elemOf 6 m)) else m)]
            ((bs.filter (fun b => b.lanes.all (fun l => (fault l).isNone))).map
              (fun b => (b.block, x.b.rdArena (presentAt d + b.scale))))))
        ∧ (let fault (l : Nat) := thenSome (both l) (rgnPlanar d) ⟨4, 0x0B, 6, a l⟩
           Runs s x 0x143 o hdr → stops (.stab o) fault
             ((bs.filter (fun b => b.lanes.any (fun l => (fault l).isNone))).foldl
               (stabBlock o t d (s.seq + 1) x.r.troupe (okMask fault)) x.b)
             { Effect.none t with busy := true }))
    ∧ (let aty := atomType o.c
        let m := memWidth aty
        let fault (l : Nat) := thenSome (thenSome (bounds m m (a l)) (rgnPlanar d) ⟨4, 0x0B, 5, a l⟩)
          (x.b.arenaPoison (presentAt d + a l) m) ⟨5, 0x0C, 0, a l⟩
        let one (acc : Block × (Nat → Nat)) (l : Nat) : Block × (Nat → Nat) :=
          let old := acc.1.arenaNat (presentAt d + a l) m
          (acc.1.wrArena (presentAt d + a l) (bytesOf m
              (atomNew (o.c.extractLsb' 10 3).toNat aty old (t.operand aty o o.b l) (atomPrior o t l)))
            (s.seq + 1) (.store x.r.troupe), fun j => if j = l then old else acc.2 j)
        let out := (good fault).foldl one (x.b, fun _ => 0)
        Runs s x 0x144 o hdr → (t.det = false ∨ o.c.extractLsb' 10 3 ≠ 0 ∨ aty ≠ 11) →
          stops (.atoma o) fault out.1
            { (Effect.none t).toV t o.w o.dst.toNat (okMask fault) (loadedRegs aty m out.2) [] with busy := true })

/-- A page fault that the pager serves parks the troupe at its word instead of entering its handler, gives up its slot, and
sends a PAGER_REPORT with the address, the access kind, the lanes and the next number of the module's counter (09 R219; 18
R396); the layout of the payload and its kinds are the model's choice (log entries 35, 88). TPC names the word, but in a
handler stays that of its trap (04 R107). -/
def Sys2Proof.Claims.PagerFaultsPark : Prop :=
  ∀ (s : State) (r : TRef) (launch : Nat) (pc : DWord) (t : Troupe) (la : Launch) (cause level va : Nat) (tval : DWord)
    (mask : Lanes) (acc : Access), s.troupe? r = some t → s.launch? launch = some la →
    let kind := match acc with
      | .load => 0 | .store => 1 | .atomic => 2 | .fetch => 3 | .engine => 4
    let report : Resp := ⟨s.devSeq, s.ack, 0x83, la.ctx, 1, 0, bytesOf 8 va ++ bytesOf 8 kind ++ bytesOf 16 mask.toNat
      ++ bytesOf 4 s.pagerSeq.toNat ++ List.replicate 28 0⟩
    let all := s.responses ++ [report]
    s.takeTrap r launch pc ⟨cause, tval, mask, some (va, acc, level)⟩ = { s.setTroupe r { t with
        status := .parked ⟨BitVec.ofNat 64 va, acc, mask, s.pagerSeq, level⟩, midRun := true, redo := false
        tpc := if t.held.isNone then pc else t.tpc } with
      slots := s.slots.filter (fun e => e.2 ≠ r), pagerSeq := s.pagerSeq + 1, devSeq := s.devSeq + 1
      link := s.link ++ [report], responses := all.drop (all.length - 1024) }

/-- A troupe that arrives at a TURN which passes its checks and conflicts with no pending one is recorded in it, gives up its
slot and waits (10 R238, R239). -/
def Sys2Proof.Claims.TurnArrival : Prop :=
  ∀ (s : State) (x : Env) (o : Op) (hdr : DWord), Runs s x 0x145 o hdr →
    let t := x.t
    let g : BitVec 64 := t.rawPair o.a 0
    let m := t.operand 6 o o.b 0
    let m16 : BitVec 16 := BitVec.ofNat 16 m
    g.getLsbD x.r.troupe = true → g.toNat < 2 ^ x.b.troupes.length → m < 2 ^ 16 →
    (∀ r, r < 16 → m16.getLsbD r = true → rgnV (x.b.region r) = true ∧ rgnPlanar (x.b.region r) = true) →
    t.active = t.launched &&& ~~~t.exited →
    (∀ u ∈ x.b.turns, (u.g = g ∧ u.m = m16) ∨ (u.g &&& g = 0 ∧ u.m &&& m16 = 0)) →
    let me : BitVec 64 := BitVec.ofNat 64 (2 ^ x.r.troupe)
    let turns := if ∃ u ∈ x.b.turns, u.g = g then
        x.b.turns.map (fun u => if u.g = g then { u with arrived := u.arrived ||| me } else u)
      else x.b.turns ++ [⟨g, m16, me⟩]
    exec (.turn o) s = .next { (s.setBlock x.r.cluster x.r.block { x.b with turns := turns }).setTroupe x.r
        { t with status := .waiting .turn (.turn o) x.c, midRun := true, redo := false } with
      slots := s.slots.filter (fun e => e.2 ≠ x.r) }

/-- TURN traps BARRIER_PHASE with the first reason of 10 R238 that holds, 16 to 19 before any conflict, with the region of reason
18; a conflict with a pending turn, reason 20 or 21, also traps every troupe that waits in it, at its own TURN, and cancels it
without a swap. -/
def Sys2Proof.Claims.TurnTraps : Prop :=
  ∀ (s : State) (x : Env) (o : Op) (hdr : DWord), Runs s x 0x145 o hdr →
    let t := x.t
    let g : BitVec 64 := t.rawPair o.a 0
    let m := t.operand 6 o o.b 0
    let m16 : BitVec 16 := BitVec.ofNat 16 m
    let odd (r : Nat) : Bool := m16.getLsbD r && !(rgnV (x.b.region r) && rgnPlanar (x.b.region r))
    let cs : List (Bool × Nat) := [(!g.getLsbD x.r.troupe, 16 * 2 ^ 57),
      (decide (2 ^ x.b.troupes.length ≤ g.toNat) || decide (2 ^ 16 ≤ m), 17 * 2 ^ 57)]
      ++ (List.range 16).map (fun r => (odd r, 18 * 2 ^ 57 + r * 2 ^ 32))
      ++ [(decide (t.active ≠ t.launched &&& ~~~t.exited), 19 * 2 ^ 57)]
    let meets (u : Turn) : Bool := !(u.g = g && u.m = m16) && (u.g &&& g ≠ 0 || u.m &&& m16 ≠ 0)
    (∀ c, cs.find? (·.1) = some c → Traps (.turn o) s x 0x31 (BitVec.ofNat 64 c.2) t.active)
    ∧ (cs.find? (·.1) = none → ∀ (reason : Nat) (us : List Turn),
      ((reason = 20 ∧ (x.b.turns.find? (fun u => u.g = g && u.m ≠ m16)).map (fun u => [u]) = some us)
        ∨ (reason = 21 ∧ (∀ u ∈ x.b.turns, u.g = g → u.m = m16) ∧ us = x.b.turns.filter meets ∧ us ≠ [])) →
      ∃ s' b', exec (.turn o) s = .next s' ∧ s'.block? x.r.cluster x.r.block = some b'
        ∧ b'.turns = x.b.turns.filter (fun u => !us.contains u) ∧ b'.rgn = x.b.rgn
        ∧ (∀ k, s'.rdByte k = s.rdByte k)
        ∧ (∃ t', s'.troupe? x.r = some t' ∧ t'.tcause = 0x31 ∧ t'.tpc = x.c.pc ∧ t'.tval = BitVec.ofNat 64 (reason * 2 ^ 57)
          ∧ t'.tmask = t.active)
        ∧ ∀ i u k j c, i ≠ x.r.troupe → x.b.troupes[i]? = some u →
          ((∃ v ∈ us, v.arrived.getLsbD i = true) → u.status = .waiting k j c →
            ∃ t', s'.troupe? { x.r with troupe := i } = some t' ∧ t'.tcause = 0x31 ∧ t'.tpc = c.pc
              ∧ t'.tval = BitVec.ofNat 64 (reason * 2 ^ 57) ∧ t'.tmask = u.active)
          ∧ ((∀ v ∈ us, v.arrived.getLsbD i = false) → s'.troupe? { x.r with troupe := i } = some u))

/-! ## The matrix engine's instructions (12) -/

namespace Sys2Proof.Claims

/-- The instruction enters the issuing member's stream as `q`, in its place in the order of issue (12 R271): nothing else of
the block or the machine changes but cache traffic, and no byte of memory other than by a write-through. -/
def Streams (i : Instr) (code : Nat) (o : Op) (s : State) (x : Env) (hdr : DWord) (q : MInsn) : Prop :=
  ∃ s2, Drained s s2 ∧ Answers i s x (ends code o x) 1 (goesTo x hdr x.t.frontier) (Effect.none x.t)
    { s2.setBlock x.r.cluster x.r.block (x.b.enterInsn x.r.troupe q) with seq := s.seq + 1 }

/-- The word stalls and keeps the slot (03 R85). -/
def Stalls (i : Instr) (s : State) (x : Env) : Prop :=
  exec i s = .next (s.setTroupe x.r { x.t with status := .stalled i x.c })

/-- The word waits and gives up the slot, the state being `s1` (14 R344). -/
def Waits (i : Instr) (s : State) (x : Env) (k : WaitKind) (s1 : State) : Prop :=
  exec i s = .next { s1.setTroupe x.r { x.t with status := .waiting k i x.c, midRun := true, redo := false } with
    slots := s.slots.filter (fun e => e.2 ≠ x.r) }

/-- The trap `tr` is taken, with nothing but cache traffic before it. -/
def TrapsOnly (i : Instr) (s : State) (x : Env) (tr : TrapX) : Prop :=
  ∃ q, Drained s q ∧ exec i s = .next (q.takeTrap x.r x.cl.launch x.c.pc tr)

/-- A memory fault of asynchronous work, or of a whole troupe: every active lane is in TMASK, and the pager serves it where it is
recoverable (09 R218, R219). -/
def FaultTraps (i : Instr) (s : State) (x : Env) (acc : Access) (f : MemFault) : Prop :=
  TrapsOnly i s x ⟨f.cause, BitVec.ofNat 64 (f.reason % 128 * 2 ^ 57 + f.va % 2 ^ 57), x.t.active,
    if f.recov then some (f.va, acc, f.reason) else none⟩

/-- A block whose pending MCONVs of the troupes `ts` have failed (12 R272, R275, R276): those troupes are to receive ACT_MISMATCH
with reason 2 and entry 0xFFFFFFFF, and nothing else of the block has changed. -/
def convFailed (b : Block) (ts : List Nat) : Block :=
  { b with
    pend := b.pend.filter (fun p => !ts.contains p.troupe)
    actErr := b.actErr.filter (fun e => !ts.contains e.1) ++ ts.map (fun t => (t, 2, 0xFFFFFFFF)) }

end Sys2Proof.Claims

/-- MMA, MMA.SP, MMA.G, ACCZ, ACCST, PATLD and MCOMMIT that pass the checks of 12 R297 enter the stream of the member's act
with the s registers, A group under its modifier (03 R74), index vector and translations that they read at issue (12 R271, R273,
R279, R285, R288 to R294; 14 R326); an MCOMMIT with eight committed batches pending stalls (14 R325, R326). Which empty batches
count among the eight (log entry 72), that PATLD of 0 bytes traps (63), and who is a member of an act that a report has dissolved
(87) are the model's reading. -/
def Sys2Proof.Claims.MatrixInstructionsEnterTheStream : Prop :=
  ∀ (s : State) (x : Env) (o : Op) (hdr : DWord),
    let base (i : Instr) (vals : List Word) : MInsn :=
      { i := i, svals := vals, idx := [], grp := [], tags := [], counts := [], pages := [], step := 0, seq := s.seq + 1
        fence := sget 0 x.b.fences x.r.troupe, seed := x.t.seed, rnd := x.t.rnd }
    (∀ (i : Op → Instr) (code : Nat), ((i = .mma ∧ code = 0x163) ∨ (i = .mmaSp ∧ code = 0x164)) → Runs s x code o hdr →
      stepTrap code o x 0 = none →
      let n := (((x.b.seat x.r.troupe).map (·.rm)).getD 16) * 32 / x.t.width
      let q := base (i o) (srcS x.t false o.a ++ srcS x.t (decide (code = 0x164)) o.b)
      Streams (i o) code o s x hdr (if o.a.cls = .v then { q with
          grp := (List.range n).flatMap (fun j => (List.range x.t.width).map (fun l =>
            BitVec.ofNat 32 (applyMod (stepCtl o).ta o.a.mod (x.t.readV (o.a.num.toNat + j) l).toNat)))
          counts := (List.range n).map (fun j => sget 0 x.t.wrote (o.a.num.toNat + j))
          tags := (List.range n).flatMap (fun j => (List.range 32).map (x.t.readTag (o.a.num.toNat + j))) } else q))
    ∧ (Runs s x 0x165 o hdr → stepShape 0x165 o x = none → aheadTrap x = none → stepAlign 0x165 o x 0 = none →
      gOutside o x = [] → rangeTrap x (stepRanges 0x165 o x 0) = none →
      Streams (.mmaG o) 0x165 o s x hdr { base (.mmaG o) (srcS x.t true o.b) with idx := gIndices o x })
    ∧ (Runs s x 0x167 o hdr → notMember x = none → badTile x (o.dst.toNat % 16) = none → partialEntry x = none →
      aheadTrap x = none → Streams (.accz o) 0x167 o s x hdr (base (.accz o) []))
    ∧ (Runs s x 0x169 o hdr → accstTrap o x = none →
      let vals := srcS x.t (accstGlobal o) o.a ++ srcS x.t false o.b
      (accstGlobal o = false → Streams (.accst o) 0x169 o s x hdr (base (.accst o) vals))
      ∧ (∀ ps, accstGlobal o = true → s.pagesFor x.core x.ctx .store .plain
          (accstRows (accstType o) (x.t.rawPair o.a 0).toNat (accstWindow (stepB x.t o))) = .ok ps →
        Streams (.accst o) 0x169 o s x hdr { base (.accst o) vals with pages := ps }))
    ∧ (Runs s x 0x16A o hdr → patldTrap o x = none → ∀ ps,
      s.pagesFor x.core x.ctx .load .plain [((x.t.rawPair o.a 0).toNat, patldCount o x.t)] = .ok ps →
      Streams (.patld o) 0x16A o s x hdr
        { base (.patld o) (srcS x.t true o.a ++ srcS x.t false o.b ++ srcS x.t false o.srcC) with pages := ps })
    ∧ (Runs s x 0x183 o hdr → notMember x = none → partialEntry x = none → aheadTrap x = none →
      (x.b.committedOf x.r.troupe < 8 → Streams (.mcommit o) 0x183 o s x hdr (base (.mcommit o) []))
      ∧ (8 ≤ x.b.committedOf x.r.troupe → Stalls (.mcommit o) s x))

/-- MLOOP enters its steps one after another, from PROG on when it is resumed, and leaves PROG zero (12 R287; 04 R105). -/
def Sys2Proof.Claims.MloopEntersItsSteps : Prop :=
  ∀ (s : State) (x : Env) (o : Op) (hdr : DWord), Runs s x 0x166 o hdr →
    let start := if x.t.rm.isSome then x.t.prog.toNat else 0
    let n := o.dst.toNat / 16 + 1 - start
    let insn (k : Nat) : MInsn :=
      { i := .mloop o, svals := srcS x.t false o.a ++ srcS x.t false o.b, idx := [], grp := [], tags := [], counts := []
        pages := [], step := start + k, seq := s.seq + k + 1, fence := sget 0 x.b.fences x.r.troupe, seed := x.t.seed, rnd := x.t.rnd }
    let blockAt (k : Nat) : Block := (List.range k).foldl (fun b j => b.enterInsn x.r.troupe (insn j)) x.b
    (∀ k, k < n → stepTrap 0x166 o { x with b := blockAt k } (start + k) = none) →
    Answers (.mloop o) s x (ends 0x166 o x) 1 (goesTo x hdr x.t.frontier) { Effect.none x.t with prog := 0 }
      { s.setBlock x.r.cluster x.r.block (blockAt n) with seq := s.seq + n }

/-- What an act matches (12 R273, R274): as long as every member has an unmatched instruction, their first ones are taken
together and leave the lists; the same instruction of all members becomes an entry, an MCOMMIT closes the open batch, and
different ones stop the act with reason 1. -/
def Sys2Proof.Claims.ActsMatchInstructions : Prop :=
  ∀ (a : MAct), a.bad = none → (∀ m ∈ a.members, m.left = false) →
    (∀ is, MAct.heads a.members = some is → is ≠ [] → ∃ b, a.matchOne = some b
      ∧ ((∀ p ∈ is, ∀ q ∈ is, p.same q = true ∧ q.same p = true) →
          b.bad = none ∧ b.matched = a.matched + 1
          ∧ b.members = a.members.map (fun m => { m with list := m.list.drop 1 })
          ∧ (∀ p, is.head? = some p →
              (p.isCommit = true → b.queue = a.queue ∧ b.batches.length = a.batches.dropLast.length + 2)
              ∧ (p.isCommit = false → b.queue = a.queue ++ [⟨a.batches.length - 1, is⟩])))
      ∧ (∀ p, is.head? = some p → (∃ q ∈ is, p.same q = false) →
          b.bad = some (a.matched, 1) ∧ b.members = a.members ∧ b.queue = a.queue))
    ∧ ((∃ m ∈ a.members, m.list = []) → a.matchOne = none)
    ∧ (a.members ≠ [] → a.settled.matchOne = none ∧ (a.matchOne = none → a.settled = a)
      ∧ ∀ b, a.matchOne = some b → a.settled = b.settled)

/-- A pending MCONV is compared once every troupe that it names holds one, that of the lowest troupe first (12 R272): where the
troupe masks, tile masks and row counts are equal, the act forms of these troupes in ascending index, with what they have issued,
and a tile that another act names then holds undefined values; where any differ, all of them fail with reason 2; with none to be
compared nothing happens. The order in which several are compared, and that the values of a tile that two acts name are undefined
from the forming of the second, are the model's reading (log entries 30, 3). -/
def Sys2Proof.Claims.ActsForm : Prop :=
  ∀ (n : Nat) (b : Block),
    let named (p : PendMember) : List Nat := (List.range 64).filter (fun u => p.gmask.getLsbD u)
    let full (p : PendMember) : Prop := ∀ u ∈ named p, (b.pending? u).isSome = true
    ((∀ t p, t < 64 → b.pending? t = some p → ¬ full p) → b.formActs n = b)
    ∧ (∀ t p, t < 64 → b.pending? t = some p → p.gmask.getLsbD t = true → full p →
        (∀ u q, u < t → b.pending? u = some q → ¬ full q) →
      let ps := (named p).filterMap b.pending?
      (∀ q ∈ ps, q.gmask = p.gmask ∧ q.tiles = p.tiles ∧ q.rows32 = p.rows32) →
        let a : MAct :=
          { members := ps.map (fun q => ⟨q.troupe, false, q.list, decide (q.list ≠ [])⟩), rm := if p.rows32 then 32 else 16
            tiles := p.tiles, matched := 0, queue := [], batches := [⟨0, 0, false, none, [], 0, [], []⟩], bad := none
            dissolved := false }
        let shared (k : Nat) : Bool := p.tiles.getLsbD k && b.acts.any (fun c => c.exists_ && c.tiles.getLsbD k)
        ps.map (·.troupe) = named p ∧ ∃ b' : Block, b.formActs (n + 1) = b'.formActs n
          ∧ b' = { b with
            pend := b.pend.filter (fun q => !(named p).contains q.troupe), acts := b.acts ++ [a.settled]
            undef := b'.undef, fixed := b'.fixed }
          ∧ (∀ k, k < 16 → b'.undef.getLsbD k = (b.undef.getLsbD k || shared k))
          ∧ (∀ key, sget false b'.fixed key = (sget false b.fixed key && !shared (key / 32768))))
    ∧ (∀ t p, t < 64 → b.pending? t = some p → p.gmask.getLsbD t = true → full p →
        (∀ u q, u < t → b.pending? u = some q → ¬ full q) →
        (∃ u ∈ named p, ∃ q, b.pending? u = some q ∧ (q.gmask ≠ p.gmask ∨ q.tiles ≠ p.tiles ∨ q.rows32 ≠ p.rows32)) →
        b.formActs (n + 1) = (convFailed b (named p)).formActs n)

/-- A member that leaves its act stays with it as one that has left, its unmatched instructions discarded; where another member
has an unmatched instruction, the act's next entry can never be matched, and it stops with reason 3; matched entries stay to be
performed, and an act is over when all its members have left and none remains (12 R274). A troupe that exits also ends the
pending MCONVs that name it (R275), its own among them, and no report awaits it. An act whose matching has stopped before stays
as it is. -/
def Sys2Proof.Claims.ActsAreLeft : Prop :=
  ∀ (b : Block) (t : Nat),
    (∀ k a m, b.actOf t = some k → b.acts[k]? = some a → a.member? t = some m →
      let members := a.members.map (fun q => if q.troupe = t then { q with left := true, list := [] } else q)
      let stranded : Bool := members.any (fun q => !q.left && q.list ≠ [])
      let a' := { a with members := members, bad := if a.bad.isNone && stranded then some (a.matched, 3) else a.bad }
      ∃ b' : Block, b.leaveAct t = { b with
        acts := (b.acts.set k a').filter (fun c => !(c.members.all (·.left) && c.queue.isEmpty))
        undef := b'.undef, fixed := b'.fixed }
        ∧ (b.brokenTiles = 0 → b'.undef = b.undef ∧ b'.fixed = b.fixed))
    ∧ (b.actOf t = none → b.leaveAct t = b)
    ∧ (let b1 := convFailed b (((b.pend.filter (fun p => p.gmask.getLsbD t)).map (·.troupe)).filter (fun u => u ≠ t))
      b.troupeExits t = { b1 with
        pend := b1.pend.filter (fun p => p.troupe ≠ t), actErr := b1.actErr.filter (fun e => e.1 ≠ t) }.leaveAct t)

/-- MCONV that passes its checks makes the troupe a pending member, and forms the act once all that it names are pending (12
R272); MDISB leaves an act (R274); MFENCE orders the troupe's earlier arena stores before its later act-stream instructions,
stalling while one is on its way (R296); MWAIT completes, waits, or reports an error (14 R328). That an MCONV that names an
exited troupe fails at once is log entry 67; that a member of an act which a report has dissolved leaves what is left of it at
MCONV, with the report that it is still to receive, is log entry 87. -/
def Sys2Proof.Claims.ActMembership : Prop :=
  ∀ (s : State) (x : Env) (o : Op) (hdr : DWord),
    let t := x.r.troupe
    (Runs s x 0x160 o hdr → convShape o x = none →
      let g : BitVec 64 := x.t.rawPair o.a 0
      let p : PendMember := ⟨t, g, BitVec.ofNat 16 (x.t.operand 6 o o.b 0), o.c.getLsbD 0, []⟩
      let b0 := x.b.quitOver t
      let b1 := { b0 with pend := b0.pend ++ [p], since := sset 0 b0.since t 0 }
      let acted := (x.b.actOf t).bind (fun k => x.b.acts[k]?)
      let gone := ∃ u q, u < 64 ∧ g.getLsbD u = true ∧ x.b.troupes[u]? = some q ∧ q.launched &&& ~~~q.exited = 0
      ((∀ a, acted = some a → a.dissolved = false) → b0 = x.b)
      ∧ (∀ a m entry reason, acted = some a → a.dissolved = true → a.member? t = some m → a.bad = some (entry, reason) →
          (reason ≠ 3 ∨ m.list ≠ []) → (t, reason, entry) ∈ b0.actErr)
      ∧ (¬ gone → InBlock (.mconv o) s x (ends 0x160 o x) 1 hdr (b1.formActs (b0.pend.length + 2)) (Effect.none x.t))
      ∧ (gone → InBlock (.mconv o) s x (ends 0x160 o x) 1 hdr (convFailed b1 [t]) (Effect.none x.t)))
    ∧ (Runs s x 0x161 o hdr → ∀ k a m, x.b.actOf t = some k → x.b.acts[k]? = some a → a.dissolved = false → a.member? t = some m →
      x.t.active = x.t.live → m.dirty = false →
      InBlock (.mdisb o) s x (ends 0x161 o x) 1 hdr { x.b.leaveAct t with since := sset 0 x.b.since t 0 } (Effect.none x.t))
    ∧ (Runs s x 0x162 o hdr →
      (x.t.arenaBusy = false → InBlock (.mfence o) s x (ends 0x162 o x) 1 hdr
        { x.b with fences := sset 0 x.b.fences t s.seq } (Effect.none x.t))
      ∧ (x.t.arenaBusy = true → Stalls (.mfence o) s x))
    ∧ (Runs s x 0x184 o hdr →
      (∀ b, x.b.mwait t o.b.imm11.toNat = .done b → InBlock (.mwait o) s x true 1 hdr b (Effect.none x.t))
      ∧ ((∀ e ∈ x.b.actErr, e.1 ≠ t) → x.b.pending? t = none → x.b.actOf t = none →
        InBlock (.mwait o) s x true 1 hdr { x.b with since := sset 0 x.b.since t 0 } (Effect.none x.t))
      ∧ (∀ k a m, (∀ e ∈ x.b.actErr, e.1 ≠ t) → x.b.pending? t = none → x.b.actOf t = some k → x.b.acts[k]? = some a →
        a.member? t = some m → a.bad = none → m.list = [] → a.pendingCount m ≤ o.b.imm11.toNat →
        (∀ y ∈ a.batches, y.complete = true → t ∉ y.reported → y.err = none) →
        ∃ b, InBlock (.mwait o) s x true 1 hdr b (Effect.none x.t))
      ∧ (x.b.mwait t o.b.imm11.toNat = .wait → Waits (.mwait o) s x .mwait s)
      ∧ (∀ b cause tval, x.b.mwait t o.b.imm11.toNat = .err b cause tval →
          exec (.mwait o) s = .next ((s.setBlock x.r.cluster x.r.block b).takeTrap x.r x.cl.launch x.c.pc
            ⟨cause, tval, x.t.active, none⟩)))

/-- The traps of the matrix instructions at issue (12 R276, R297, R298): MATRIX_SHAPE with the first of its reasons that
holds, and then, for an instruction that enters the stream, ACT_MISMATCH with reason 4 at the 65th since the member's last
MCONV, MDISB or MWAIT, with the index of the entry that it would be; TMASK is the active lanes. An MLOOP leaves PROG at the step
that trapped (R287; 04 R105). An act that a report has dissolved has no members (R276; log entry
87), and that PATLD of 0 bytes has reason 9 is log entry 63. -/
def Sys2Proof.Claims.MatrixInstructionsTrap : Prop :=
  ∀ (s : State) (x : Env) (o : Op) (hdr : DWord),
    let seat := x.b.seat x.r.troupe
    let rm := (seat.map (·.rm)).getD 16
    let rows := (seat.map (·.rows)).getD 16
    let out : Bool := seat.isNone
    let part : Bool := x.t.active ≠ x.t.live
    let badTile : Bool := x.b.tileCount ≤ o.dst.toNat % 16 || !((seat.map (fun q => q.tiles.getLsbD (o.dst.toNat % 16))).getD false)
    let first (cs : List (Bool × Nat)) : Option Nat := (cs.find? (·.1)).map (·.2)
    let shapes (i : Instr) (cs : List (Bool × Nat)) : Prop :=
      ∀ r, first cs = some r → Traps i s x 0x21 (BitVec.ofNat 64 (r * 2 ^ 57)) x.t.active
    let late (i : Instr) (cs : List (Bool × Nat)) : Prop :=
      first cs = none → 64 ≤ sget 0 x.b.since x.r.troupe →
        Traps i s x 0x22 (BitVec.ofNat 64 (4 * 2 ^ 57 + (seat.map (·.entry)).getD 0 % 2 ^ 32)) x.t.active
    let enters (i : Instr) (cs : List (Bool × Nat)) : Prop := shapes i cs ∧ late i cs
    let step (code : Nat) : List (Bool × Nat) :=
      let c := stepCtl o
      [(out, 1), (badTile, 2),
        (256 < c.col + c.n || kLimit code c.ta c.tb < stepKbB code o * blockElemsOf c.tb, 3), (part, 4),
        ((o.a.cls = .v && code ≠ 0x165 && x.t.nregs < o.a.num.toNat + rm * 32 / x.t.width)
          || (code = 0x165 && x.t.width < rm), 7),
        (code = 0x164 && x.b.patSize < (x.t.readS (o.b.num.toNat + 1)).toNat + rows * c.kb * 16, 9)]
    let w := (x.t.readS o.b.num.toNat).toNat
    let tiles := x.t.operand 6 o o.b 0
    let g : BitVec 64 := x.t.rawPair o.a 0
    let named := (List.range 64).filter (fun u => g.getLsbD u)
    let act : Option MAct := ((x.b.actOf x.r.troupe).bind (fun k => x.b.acts[k]?)).filter (fun a => !a.dissolved)
    let v := x.t.operand 6 o o.a 0
    let ty := if fnType o.c = 0 then 11 else fnType o.c
    (∀ (i : Op → Instr) (code : Nat), ((i = .mma ∧ code = 0x163) ∨ (i = .mmaSp ∧ code = 0x164) ∨ (i = .mmaG ∧ code = 0x165)) →
      Runs s x code o hdr → enters (i o) (step code))
    ∧ (Runs s x 0x166 o hdr →
      let start := if x.t.rm.isSome then x.t.prog.toNat else 0
      let stops (cause tval : Nat) : Prop := exec (.mloop o) s = .next
        ((s.setTroupe x.r { x.t with prog := BitVec.ofNat 32 start }).takeTrap x.r x.cl.launch x.c.pc
          ⟨cause, BitVec.ofNat 64 tval, x.t.active, none⟩)
      start < o.dst.toNat / 16 + 1 →
      (∀ r, first (step 0x166) = some r → stops 0x21 (r * 2 ^ 57))
      ∧ (first (step 0x166) = none → 64 ≤ sget 0 x.b.since x.r.troupe →
        stops 0x22 (4 * 2 ^ 57 + (seat.map (·.entry)).getD 0 % 2 ^ 32)))
    ∧ (Runs s x 0x167 o hdr → enters (.accz o) [(out, 1), (badTile, 2), (part, 4)])
    ∧ (Runs s x 0x169 o hdr → enters (.accst o) [(out, 1), (badTile, 2), (part, 4),
        (128 < w % 256 + (w / 256 % 256 + 1) || 256 < w / 2 ^ 16 % 256 + 8 * (w / 2 ^ 24 % 256 + 1)
          || (typeMx (accstType o) && 8 * (w / 2 ^ 24 % 256 + 1) % 32 ≠ 0), 8)])
    ∧ (Runs s x 0x16A o hdr → enters (.patld o) [(out, 1), (part, 4),
        ((x.t.readS o.srcC.num.toNat).toNat = 0 || x.b.patSize < w + (x.t.readS o.srcC.num.toNat).toNat, 9)])
    ∧ (Runs s x 0x183 o hdr → enters (.mcommit o) [(out, 1), (part, 4)])
    ∧ (Runs s x 0x160 o hdr → shapes (.mconv o) [(part, 4),
        (!g.getLsbD x.r.troupe || 4 < named.length || named.any (fun u => x.b.troupes.length ≤ u)
          || !((named.map (· % 4)).Nodup : Bool) || (x.b.pending? x.r.troupe).isSome || act.isSome, 5),
        (tiles = 0 || 2 ^ x.b.tileCount ≤ tiles || 2 ^ 16 ≤ tiles, 6)])
    ∧ (Runs s x 0x161 o hdr →
      let me := act.bind (fun a => a.member? x.r.troupe)
      shapes (.mdisb o) [(me.isNone, 1), (part, 4), ((me.map (·.dirty)).getD false, 10)])
    ∧ (Runs s x 0x168 o hdr → x.t.rm ≠ some 0 → shapes (.accld o) [(x.b.tileCount ≤ o.c.toNat % 16, 2),
        (x.t.nregs < o.dst.toNat + (v / 256 % 32 + 1), 7),
        (v / 2 ^ 7 % 2 ≠ 0 || v / 2 ^ 13 % 8 ≠ 0 || v / 2 ^ 24 % 256 ≠ 0 || 128 < v % 128 + (v / 256 % 32 + 1)
          || 256 < v / 2 ^ 16 % 256 + x.t.width * eplOf ty, 8)])

/-- The traps of a matrix instruction at issue that MATRIX_SHAPE and ACT_MISMATCH do not stop (12 R288, R297 orders 4 to 6):
MISALIGNED of the A table, the B panel or the pattern of a step, of an arena or global address, a pattern offset or a byte count;
ARENA_BOUND of an operand range whose region is not valid, before one beyond its region; the index lanes of MMA.G whose rows lie
beyond the region, in TMASK; and the faults of global ranges. Of several that are misaligned, or of one order, the first operand
is reported (log entry 88). -/
def Sys2Proof.Claims.MatrixOperandsTrap : Prop :=
  ∀ (s : State) (x : Env) (o : Op) (hdr : DWord),
    let rows := ((x.b.seat x.r.troupe).map (·.rows)).getD 16
    let c := stepCtl o
    let a := (x.t.readS o.a.num.toNat).toNat
    let b := (x.t.readS o.b.num.toNat).toNat
    let b1 := (x.t.readS (o.b.num.toNat + 1)).toNat
    let n := (x.t.readS o.srcC.num.toNat).toNat
    let first (cs : List (Bool × Nat)) : Option Nat := (cs.find? (·.1)).map (·.2)
    let place (off r : Nat) : Nat := off % 2 ^ 32 + r * 2 ^ 32
    let out (r : Nat) : Bool := !rgnV (x.b.region r)
    let past (r off len : Nat) : Bool := decide (rgnSize (x.b.region r) < off + len)
    let checks (i : Instr) (aligns : List (Bool × Nat)) (ranges : List (Nat × Nat × Nat)) : Prop :=
      let valid := first (ranges.map (fun g => (out g.1, place g.2.1 g.1)))
      let fits := first (ranges.map (fun g => (past g.1 g.2.1 g.2.2, place g.2.1 g.1)))
      (∀ v, first aligns = some v → Traps i s x 0x0A (BitVec.ofNat 64 v) x.t.active)
      ∧ (∀ v, first aligns = none → valid = some v → Traps i s x 0x10 (BitVec.ofNat 64 (1 * 2 ^ 57 + v)) x.t.active)
      ∧ (∀ v, first aligns = none → valid = none → fits = some v →
          Traps i s x 0x10 (BitVec.ofNat 64 (2 * 2 ^ 57 + v)) x.t.active)
    let table (code k : Nat) : Option Nat :=
      if o.a.cls = .v ∧ code ≠ 0x165 then none else some (a + k * (rows * rowStride c.ta c.kb))
    let panel (code k : Nat) : Nat := b + k * panelBytes c.tb c.n (stepKbB code o)
    let stepAligns (code k : Nat) : List (Bool × Nat) :=
      [(decide (((table code k).getD 0) % 8 ≠ 0), place ((table code k).getD 0) c.ra),
        (decide (panel code k % 64 ≠ 0), place (panel code k) c.rb), (decide (code = 0x164 ∧ b1 % 64 ≠ 0), b1)]
    let stepRanges (code k : Nat) : List (Nat × Nat × Nat) :=
      ((table code k).map (fun off => (c.ra, off, rows * rowStride c.ta c.kb))).toList
        ++ [(c.rb, panel code k, panelBytes c.tb c.n (stepKbB code o))]
    let ahead : Prop := sget 0 x.b.since x.r.troupe < 64
    (∀ (i : Op → Instr) (code : Nat), ((i = .mma ∧ code = 0x163) ∨ (i = .mmaSp ∧ code = 0x164)) → Runs s x code o hdr →
      stepShape code o x = none → ahead → checks (i o) (stepAligns code 0) (stepRanges code 0))
    ∧ (Runs s x 0x166 o hdr → stepShape 0x166 o x = none → ahead →
      let k := if x.t.rm.isSome then x.t.prog.toNat else 0
      k < o.dst.toNat / 16 + 1 → ∀ tr, stepAlign 0x166 o x k = some tr ∨
          (stepAlign 0x166 o x k = none ∧ rangeTrap x (Machine.stepRanges 0x166 o x k) = some tr) →
        exec (.mloop o) s = .next ((s.setTroupe x.r { x.t with prog := BitVec.ofNat 32 k }).takeTrap x.r x.cl.launch x.c.pc tr))
    ∧ (Runs s x 0x165 o hdr → stepShape 0x165 o x = none → ahead →
      let aligns := [(decide (b1 % 8 ≠ 0), place b1 c.ra), (decide (b % 64 ≠ 0), place b c.rb)]
      let rs := rowStride c.ta c.kb
      let idx := gIndices o x
      let row (l : Nat) : Nat := b1 + (idx.getD l 0).toNat * rs
      let bad := (List.range idx.length).filter (fun l => idx.getD l 0 ≠ 0xFFFFFFFF && past c.ra (row l) rs)
      (∀ v, first aligns = some v → Traps (.mmaG o) s x 0x0A (BitVec.ofNat 64 v) x.t.active)
      ∧ (first aligns = none → (out c.ra || out c.rb) = true → Traps (.mmaG o) s x 0x10
          (BitVec.ofNat 64 (1 * 2 ^ 57 + if out c.ra then place 0 c.ra else place b c.rb)) x.t.active)
      ∧ (∀ l ls, first aligns = none → (out c.ra || out c.rb) = false → bad = l :: ls →
          Traps (.mmaG o) s x 0x10 (BitVec.ofNat 64 (2 * 2 ^ 57 + place (row l) c.ra)) (maskWhere 128 (fun l => bad.contains l)))
      ∧ (first aligns = none → (out c.ra || out c.rb) = false → bad = [] →
          past c.rb b (panelBytes c.tb c.n (stepKbB 0x165 o)) = true →
          Traps (.mmaG o) s x 0x10 (BitVec.ofNat 64 (2 * 2 ^ 57 + place b c.rb)) x.t.active))
    ∧ (Runs s x 0x169 o hdr → ahead →
      let ty := accstType o
      let w := accstWindow b
      let va := (x.t.rawPair o.a 0).toNat
      let r := accstRegion o
      notMember x = none → badTile x (o.dst.toNat % 16) = none → partialEntry x = none →
      w.row + w.rows ≤ 128 → w.col + w.cols ≤ 256 → (typeMx ty = true → w.cols % 32 = 0) →
      (accstGlobal o = false →
        checks (.accst o) [(decide (a % 8 ≠ 0), place a r)] [(r, a, w.rows * accstStride ty w.cols)])
      ∧ (accstGlobal o = true →
        (va % 8 ≠ 0 → Traps (.accst o) s x 0x0A (BitVec.ofNat 64 (va % 2 ^ 57)) x.t.active)
        ∧ (∀ f, va % 8 = 0 → s.pagesFor x.core x.ctx .store .plain (accstRows ty va w) = .error f →
          FaultTraps (.accst o) s x .engine f)))
    ∧ (Runs s x 0x16A o hdr → ahead → notMember x = none → partialEntry x = none → n ≠ 0 → b + n ≤ x.b.patSize →
      let va := (x.t.rawPair o.a 0).toNat
      let aligns := [(decide (b % 64 ≠ 0), b), (decide (n % 64 ≠ 0), n), (decide (va % 64 ≠ 0), va % 2 ^ 57)]
      (∀ v, first aligns = some v → Traps (.patld o) s x 0x0A (BitVec.ofNat 64 v) x.t.active)
      ∧ (∀ f, first aligns = none → s.pagesFor x.core x.ctx .load .plain [(va, n)] = .error f →
          FaultTraps (.patld o) s x .engine f))

/-- What an MWAIT reports (12 R276, R299; 14 R328): a failed MCONV, ACT_MISMATCH with its reason and entry index; then a
mismatched entry of the act, at which the act is dissolved: the next MWAIT finds no act and completes at once, and every other
member that is to receive the report too receives it at its own MWAIT (19 R416, R418; the model's reading, log entry 87); and past
its batch condition the first error of a complete batch that it has not been told of, MATRIX_PATTERN or POISON with the place of
its step in the batch. -/
def Sys2Proof.Claims.MwaitReports : Prop :=
  ∀ (b : Block) (t n : Nat),
    (∀ u reason entry, b.actErr.find? (fun e => e.1 = t) = some (u, reason, entry) →
      b.mwait t n = .err { b with actErr := b.actErr.filter (fun e => e.1 ≠ t) } 0x22
        (BitVec.ofNat 64 (reason % 128 * 2 ^ 57 + entry % 2 ^ 32)))
    ∧ (∀ k a m, (∀ e ∈ b.actErr, e.1 ≠ t) → b.pending? t = none → b.actOf t = some k → b.acts[k]? = some a →
      a.member? t = some m →
      (∀ entry reason, a.bad = some (entry, reason) → (reason ≠ 3 ∨ m.list ≠ []) →
        let tval : DWord := BitVec.ofNat 64 (reason % 128 * 2 ^ 57 + entry % 2 ^ 32)
        ∃ b', b.mwait t n = .err b' 0x22 tval
        ∧ (∀ c ∈ b'.acts, c.exists_ = true → ∃ j, j ≠ k ∧ b.acts[j]? = some c)
        ∧ ((∀ j c, j ≠ k → b.acts[j]? = some c → c.member? t = none) → ∀ n', ∃ b'', b'.mwait t n' = .done b'')
        ∧ (∀ u q, u ≠ t → b.actOf u = some k → a.member? u = some q → (reason ≠ 3 ∨ q.list ≠ []) →
            (∀ e ∈ b.actErr, e.1 ≠ u) → b.pending? u = none → ∀ n', ∃ b'', b'.mwait u n' = .err b'' 0x22 tval))
      ∧ (a.bad = none ∨ (∃ entry, a.bad = some (entry, 3) ∧ m.list = []) →
        (m.list ≠ [] ∨ n < a.pendingCount m → b.mwait t n = .wait)
        ∧ (m.list = [] → a.pendingCount m ≤ n →
          let told : Option Batch := a.batches.find? (fun y => y.complete && !y.reported.contains t && y.err.isSome)
          (told = none → ∃ b', b.mwait t n = .done b')
          ∧ (∀ y off step reason, told = some y → y.err = some (.pattern off step reason) → ∃ b', b.mwait t n = .err b' 0x20
              (BitVec.ofNat 64 (off % 2 ^ 32 + step % 256 * 2 ^ 32 + reason % 128 * 2 ^ 57)))
          ∧ (∀ y off region step, told = some y → y.err = some (.poison off region step) → ∃ b', b.mwait t n = .err b' 0x0C
              (BitVec.ofNat 64 (off % 2 ^ 32 + region % 16 * 2 ^ 32 + step % 256 * 2 ^ 40))))))

/-- ACCLD reads its window of a tile at issue: FP32 codes as they are, or rounded to 16 bits or quantised by blocks to an MX
format, updating AMAX (12 R295). A tile that an unfinished batch or two acts name gives undefined values (R272, R282; log
entry 3) until a copy has written them since; a poisoned element reads as the NaN of cause 6 (R270). -/
def Obligations.AccumulatorReads : Prop :=
  ∀ (s : State) (x : Env) (o : Op) (hdr : DWord),
    let t := x.t
    let v := t.operand 6 o o.a 0
    Runs s x 0x168 o hdr → accldShape o x v = none →
    let ty := if fnType o.c = 0 then 11 else fnType o.c
    let epl := eplOf ty
    let row := v % 128
    let rows := v / 256 % 32 + 1
    let col := v / 2 ^ 16 % 256
    let tile := o.c.toNat % 16
    let sel := t.selected o.guard
    let d := o.dst.toNat
    let elem (i l j : Nat) : Nat := s.readElem x.b (x.b.tilePending tile) tile (row + i) (col + l * epl + j)
    let rnd (i l j : Nat) : Rnd := t.rounding (fnRnd o.c) (((t.wid l).toNat * 2 ^ 13 + i * epl + j) % 2 ^ 64)
    let inputs := (List.range rows).flatMap (fun i => (lanesOf t.width sel).flatMap (fun l =>
      (List.range epl).map (fun j => decodeF .fp32 (elem i l j))))
    let goes (e : Effect) : Prop := Completes (.accld o) s x (ends 0x168 o x) 1 hdr e
    let key (i l j : Nat) : Nat := tile * 32768 + (row + i) * 256 + (col + l * epl + j)
    (∀ i l j, x.b.tilePending tile = false → x.b.brokenTiles.getLsbD tile = false →
        (x.b.undef.getLsbD tile = false ∨ sget false x.b.fixed (key i l j) = true) →
        elem i l j = if sget false x.b.tilePoison (key i l j) then 0x7FC00006 else (sget 0 x.b.tiles (key i l j)).toNat)
    ∧ (ty = 11 → goes ((Effect.none t).toV t o.w d sel ((List.range rows).map (fun i l => BitVec.ofNat 32 (elem i l 0))) []))
    ∧ (ty = 9 ∨ ty = 10 → goes (converting t ((Effect.none t).toV t o.w d sel ((List.range rows).map (fun i l =>
        BitVec.ofNat 32 (joinElems 16 ((List.range epl).map (fun j => (convF .fp32 (fmtOf ty) (rnd i l j) (elem i l j)).1)))))
        []) inputs false))
    ∧ (typeMx ty = true →
      let out (i : Nat) : BlockOut := overBlocks t epl sel (fun _ es => quantBlock (fmtOf ty) (o.c.getLsbD 4)
        (es.map (fun e => (decodeF .fp32 (elem i e.1 e.2), rnd i e.1 e.2))))
      let e := (Effect.none t).toV t o.w d sel
        ((List.range rows).map (fun i l => BitVec.ofNat 32 ((out i).lane ty epl l))) (out 0).tags
      goes (converting t { e with
        tag := fun r b => if !o.w && d ≤ r && r < d + rows && b < 32 then ((out (r - d)).tags.lookup b).getD (t.readTag r b)
          else t.readTag r b } inputs ((List.range rows).any (fun i => (out i).ovf))))

/-! ## Copies, queues and counters (13, 14, 16) -/

/-- COPY, COPYG and COPYS whose descriptor, rows, index vector and pages pass the checks of 13 R312 enter the core's request
queue after adding their transfer units to the pending count of their barrier (13 R301, R312, R314); with 64 copies in the
queue they stall (R301). -/
def Sys2Proof.Claims.CopiesEnterTheQueue : Prop :=
  ∀ (i : Op → Instr) (code kind : Nat),
    ((i = .copy ∧ code = 0x180 ∧ kind = 0) ∨ (i = .copyg ∧ code = 0x181 ∧ kind = 1) ∨ (i = .copys ∧ code = 0x182 ∧ kind = 2)) →
    ∀ (s : State) (x : Env) (o : Op) (hdr : DWord), Runs s x code o hdr →
      let mine := s.copies.filter (fun c => c.core = x.core)
      let s0 := s.flushCore x.core
      let looked (kind : Nat) (d : CopyDesc) (idx : List Word) : State := lookCopy x (lookIndex x s0 kind d) kind d idx
      (64 ≤ mine.length → Stalls (i o) s x)
      ∧ (∀ d bytes idx pages key, mine.length < 64 → readDesc o x = .ok (d, bytes) → copyReason x.b kind d = none →
        copyAligned x kind d = none → copyBounds x kind d = none →
        (if kind = 0 then idx = [] else readIndex x s0 d = .ok idx) →
        indexedRows x (srcSide kind d) idx = none → indexedRows x (dstSide kind d) idx = none →
        copyPages x s0 kind d idx = .ok (pages, key) → (x.t.det = true → copyOverlap x.b kind d idx = none) →
        let p := copyBarrier x.r d key
        let s1 := if d.bk = 0 then (looked kind d idx).yieldLines x.core [key] else looked kind d idx
        let bar := s1.readBarrier p
        bar.sec + d.units < 2 ^ 32 →
        let counted : Barrier := { bar with
          sec := bar.sec + d.units, err := if (copyOverlap x.b kind d idx).isSome then bar.err ||| 4 else bar.err }
        let q : CopyReq :=
          { id := s.nextId, core := x.core, cluster := x.r.cluster, block := x.r.block, troupe := x.r.troupe, ctx := x.ctx
            kind := kind, desc := bytes, idx := idx, pages := pages
            seed := if d.seedd = 0 then x.t.seed else BitVec.ofNat 64 d.seedd, wid0 := x.t.wid 0, rnd := x.t.rnd
            seq := s.seq + 1, bkey := key, total := d.units, settled := [], image := none, stop := none, loose := false }
        let stamp : Stamp := ⟨s.seq + 1, .copy q.id q.troupe q.seq, 0⟩
        let tiles := (if d.sk = 2 then [adrTile d.saddr] else []) ++ (if d.dk = 2 then [adrTile d.daddr] else [])
        let loose := tiles.any (x.b.tileBusy (fun t => t = x.r.troupe))
        Drained s s1 ∧ Answers (i o) s x (ends code o x) 1 (goesTo x hdr x.t.frontier) (Effect.none x.t)
          { (s1.writeBarrier p counted.step).modBlock x.r.cluster x.r.block
              (fun b => b.spoil (b.touched stamp (q.covers x.b))) with
            copies := s.copies ++ [{ q with loose := loose }], nextId := s.nextId + 1, seq := s.seq + 1 })

/-- The traps of COPY, COPYG and COPYS at issue, in the order of 13 R312, with every active lane in TMASK: a descriptor out of
its region, misaligned, in a planar region or poisoned (step 2), the lowest reason of COPY_DESC (step 3, R313), MISALIGNED and
ARENA_BOUND (steps 4, 5), the index vector and the rows that it places (step 6), the pages (step 7), COPY_OVERLAP in a
deterministic launch (step 8, R320), and a barrier whose pending units would exceed 2^32 - 1 (step 9). -/
def Sys2Proof.Claims.CopiesTrap : Prop :=
  ∀ (i : Op → Instr) (code kind : Nat),
    ((i = .copy ∧ code = 0x180 ∧ kind = 0) ∨ (i = .copyg ∧ code = 0x181 ∧ kind = 1) ∨ (i = .copys ∧ code = 0x182 ∧ kind = 2)) →
    ∀ (s : State) (x : Env) (o : Op) (hdr : DWord), Runs s x code o hdr →
      (s.copies.filter (fun c => c.core = x.core)).length < 64 →
      let s0 := s.flushCore x.core
      let r := o.dst.toNat % 16
      let g := x.b.region r
      let off := (x.t.readS o.a.num.toNat).toNat
      let place := off % 2 ^ 32 + r * 2 ^ 32
      let traps (cause tval : Nat) : Prop := TrapsOnly (i o) s x ⟨cause, BitVec.ofNat 64 tval, x.t.active, none⟩
      let poisoned := x.b.arenaPoison (rgnBase g + off) 64
      let bytes := sgets 0 x.b.arena (rgnBase g + off) 64
      let d := copyDesc bytes
      let float (t : Nat) : Bool := decide (9 ≤ t ∧ t ≤ 11)
      let mx (t : Nat) : Bool := decide (12 ≤ t ∧ t ≤ 17)
      let listed : Bool := decide (1 ≤ d.stype ∧ d.stype ≤ 17 ∧ 1 ≤ d.dtype ∧ d.dtype ≤ 17)
        && ((d.xf = 0 && d.stype = d.dtype) || (d.xf = 1 && (float d.stype || mx d.stype) && mx d.dtype)
          || (d.xf = 2 && mx d.stype && float d.dtype) || (d.xf = 3 && mx d.stype && d.stype = d.dtype))
      let wide (k a : Nat) : Bool := decide (2 ^ (if k = 0 then 57 else if k = 1 then 36 else 19) ≤ a)
      let f0 := if d.tr then d.e1 else d.e0
      let f1 := if d.tr then d.e0 else d.e1
      let de0 := f0 + d.p0
      let de1 := f1 + d.p1
      let acc (k ty a rows cols s1 s2 : Nat) : Bool := decide (k = 2) &&
        (decide (x.b.tileCount ≤ a % 16 ∨ 128 < a / 2 ^ 4 % 2 ^ 7 + rows ∨ 256 < a / 2 ^ 11 % 2 ^ 8 + cols)
          || ty ≠ 11 || d.e2 ≠ 1 || s1 ≠ 0 || s2 ≠ 0)
      let reasons : List (Bool × Nat) :=
        [(d.sk = 3 || d.dk = 3 || wide d.sk d.saddr || wide d.dk d.daddr || wide d.bk d.baddr
            || (if kind = 0 then d.ik ≠ 0 || d.iaddr ≠ 0 else wide d.ik d.iaddr), 1),
          (!listed, 2),
          (d.tr && (kind ≠ 0 || (d.xf = 0 && (mx d.stype || 32 < typeBits d.stype)) || d.xf = 3), 3),
          (d.rb && (kind = 2 || d.dk ≠ 1 || !(mx d.dtype || d.dtype = 9 || d.dtype = 10) || d.e2 ≠ 1 || d.d1 ≠ 0 || d.d2 ≠ 0
            || (!mx d.dtype && de0 % 16 ≠ 0)), 4),
          (d.e0 = 0 || d.e1 = 0 || d.e2 = 0 || (mx d.stype && d.e0 % 32 ≠ 0) || (mx d.dtype && de0 % 32 ≠ 0) || 65535 < de0
            || 65535 < de1, 5),
          (acc d.sk d.stype d.saddr d.e1 d.e0 d.s1 d.s2 || acc d.dk d.dtype d.daddr de1 de0 d.d1 d.d2, 6),
          (2 ^ 24 ≤ d.units, 7),
          (!planarOk x.b kind d, 8),
          (d.rnd = 5 || d.rnd = 6 || (d.fit && d.xf ≠ 1) || (d.delta ≠ 0 && d.xf ≠ 3), 9),
          (kind ≠ 0 && (d.e2 ≠ 1 || (if kind = 1 then d.sk = 2 else d.dk = 2 || d.p1 ≠ 0)), 10)]
      let rowsFault (sd : CopySide) (idx : List Word) : Option (Nat × Nat) :=
        (((sd.starts idx).find? (fun a => !sd.aligned a)).map (fun a => (0x0A, a)))
      (rgnV g = false → traps 0x10 (1 * 2 ^ 57 + place))
      ∧ (rgnV g = true → off % 64 ≠ 0 → traps 0x0A place)
      ∧ (rgnV g = true → off % 64 = 0 → rgnSize g < off + 64 → traps 0x10 (2 * 2 ^ 57 + place))
      ∧ (rgnV g = true → off % 64 = 0 → off + 64 ≤ rgnSize g →
        (rgnPlanar g = true → traps 0x28 (1 * 2 ^ 57 + off))
        ∧ (rgnPlanar g = false → poisoned = true → traps 0x0C place)
        ∧ (rgnPlanar g = false → poisoned = false →
          (∀ c, reasons.find? (·.1) = some c → traps 0x28 (c.2 * 2 ^ 57 + off))
          ∧ (reasons.find? (·.1) = none →
            (∀ tr, copyAligned x kind d = some tr → tr.cause = 0x0A ∧ tr.mask = x.t.active ∧ TrapsOnly (i o) s x tr)
            ∧ (copyAligned x kind d = none → ∀ tr, copyBounds x kind d = some tr →
                (tr.cause = 0x10 ∨ tr.cause = 0x0B) ∧ tr.mask = x.t.active ∧ TrapsOnly (i o) s x tr)
            ∧ (copyAligned x kind d = none → copyBounds x kind d = none →
              (∀ tr, kind ≠ 0 → readIndex x s0 d = .error tr → TrapsOnly (i o) s x tr)
              ∧ (∀ idx, (if kind = 0 then idx = [] else readIndex x s0 d = .ok idx) →
                let placed := if kind = 1 then srcSide kind d else dstSide kind d
                (∀ a, kind ≠ 0 → rowsFault placed idx = some (0x0A, a) → traps 0x0A
                    (if placed.kind = 1 then a % 2 ^ 32 + adrRegion placed.addr * 2 ^ 32 else a % 2 ^ 57))
                ∧ (indexedRows x (srcSide kind d) idx = none → indexedRows x (dstSide kind d) idx = none →
                  (∀ f, copyPages x s0 kind d idx = .error f → FaultTraps (i o) s x .engine f)
                  ∧ (∀ pages key, copyPages x s0 kind d idx = .ok (pages, key) →
                    (∀ side, x.t.det = true → copyOverlap x.b kind d idx = some side → traps 0x29 (side * 2 ^ 57 + off))
                    ∧ ((x.t.det = true → copyOverlap x.b kind d idx = none) →
                        2 ^ 32 ≤ (s0.readBarrier (copyBarrier x.r d key)).sec + d.units → traps 0x28 (7 * 2 ^ 57 + off)))))))))

/-- TCLAIM takes indices from a claim queue that its launch owns or shares (14 R341); LAUNCH puts the 256-byte record at its
address at the end of its queue and returns its arrival number, or the count of the troupe's launches in a deterministic
launch, and finds a full queue; a misaligned or failing address traps, and nothing is enqueued (14 R329, R330); SLEEP ends the
run and wakes no earlier than the clocks it names (R342). -/
def Obligations.QueueInstructions : Prop :=
  ∀ (s : State) (x : Env) (o : Op) (hdr : DWord),
    let t := x.t
    let d := o.dst.toNat
    (Runs s x 0x185 o hdr →
      let n := o.c.toNat % 32
      let q := (s.claims[n]?).getD ⟨0, 0, []⟩
      let k := max 1 (min 64 (t.operand 6 o o.b 0))
      let got := min k (q.limit.toNat - q.next.toNat)
      let holds := x.cl.launch ∈ q.owners ∧ q.next.toNat < q.limit.toNat
      (holds → Answers (.tclaim o) s x (ends 0x185 o x) 1 (goesTo x hdr t.frontier)
        ((Effect.none t).toS t false o.w d [q.next, BitVec.ofNat 32 got])
        { s with claims := s.claims.set n { q with next := q.next + BitVec.ofNat 32 got } })
      ∧ (¬ holds → Completes (.tclaim o) s x (ends 0x185 o x) 1 hdr ((Effect.none t).toS t false o.w d [0xFFFFFFFF, 0])))
    ∧ (Runs s x 0x186 o hdr →
      let n := 12 + o.c.toNat % 4
      let va := (t.rawPair o.a 0).toNat
      let s1 := s.flushCore x.core
      (64 ≤ (s.queue n).length → t.det = false →
        Completes (.launch o) s x (ends 0x186 o x) 1 hdr ((Effect.none t).toS t false o.w d [0xFFFFFFFF]))
      ∧ (64 ≤ (s.queue n).length → t.det = true → Stalls (.launch o) s x)
      ∧ ((s.queue n).length < 64 → va % 256 ≠ 0 → TrapsOnly (.launch o) s x ⟨0x0A, BitVec.ofNat 64 (va % 2 ^ 57), t.active, none⟩)
      ∧ (∀ f, (s.queue n).length < 64 → s1.checkLoad x.core x.ctx .plain 256 256 va (pageChoice va) = .error f →
          FaultTraps (.launch o) s x .load f)
      ∧ (∀ l k s3, (s.queue n).length < 64 → s1.checkLoad x.core x.ctx .plain 256 256 va (pageChoice va) = .ok (l, k) →
        s1.takeEntries x.core [(pointOf 1 0 l, k, 256)] = some s3 →
        let s2 := (s3.lookPage x.core x.ctx va).yieldLines x.core [k]
        let bytes := s2.rdBytes k 256
        let r : QRec := ⟨bytes, s.arrivals, x.ctx, 0xFFFFFFFF, some x.cl.launch, decide (recBits bytes 94 94 = 1) && x.la.grant⟩
        Drained s s2 ∧ Answers (.launch o) s x (ends 0x186 o x) 1 (goesTo x hdr t.frontier)
          { (Effect.none t).toS t false o.w d [if t.det then BitVec.ofNat 32 t.launches else s.arrivals] with
            launches := t.launches + 1 }
          { s2 with
            lq := s.lq.set n (s.queue n ++ [r])
            arrivals := if s.arrivals = 0xFFFFFFFE then 0 else s.arrivals + 1 }))
    ∧ (Runs s x 0x187 o hdr →
      let n := min 1048575 (t.operand 6 o o.b 0)
      (n = 0 → Completes (.sleep o) s x true 1 hdr { Effect.none t with waitw := 0 })
      ∧ (n ≠ 0 → ∃ t', Leaves x true 1 (goesTo x hdr t.frontier) (Effect.none t) t'
        ∧ exec (.sleep o) s = .next { s.setTroupe x.r { t' with status := .sleeping (s.clk + n) } with
            slots := s.slots.filter (fun e => e.2 ≠ x.r) }))

/-- The transaction barriers (16 R359 to R368): TBINIT sets one up, TBEXPECT adds to its pending count, TBARRIVE subtracts
from its arrivals (or its pending count) and delivers the phase, each with the completion step of R360; TBWAIT and TBTEST
look whether the phase named is over, the troupe then having observed the copies complete there (R368; 13 R322; log entry
89). -/
def Sys2Proof.Claims.TransactionBarriers : Prop :=
  ∀ (s s1 : State) (x : Env) (o : Op) (hdr : DWord) (p : BarrierAt), s.findBarrier o x = .ok (p, s1) →
    let n := x.t.operand 6 o o.b 0
    let b := s1.readBarrier p
    let scope := if o.c.getLsbD 4 then 1 else 3
    let noted (q : State) : State := if x.b.landed.any (fun c => c.bar = p.place) then
        { q with seq := q.seq + 1 }.modBlock x.r.cluster x.r.block (fun b => { b with landed := b.landed.map (fun c : Landed =>
          if c.bar = p.place then { c with seen := (x.r.troupe, q.seq + 1) :: c.seen } else c) })
      else q
    let goes (i : Instr) (code : Nat) (e : Effect) (q : State) : Prop :=
      Drained s s1 ∧ Answers i s x (ends code o x) 1 (goesTo x hdr x.t.frontier) e q
    (Runs s x 0x1A0 o hdr → n ≠ 0 → n < 2 ^ 20 →
      goes (.tbinit o) 0x1A0 (Effect.none x.t) (s1.writeBarrier p ⟨0, n, 0, n, 0, 0⟩))
    ∧ (Runs s x 0x1A1 o hdr → b.sec + n < 2 ^ 32 →
      goes (.tbexpect o) 0x1A1 (Effect.none x.t) (s1.writeBarrier p { b with sec := b.sec + n }.step))
    ∧ (Runs s x 0x1A2 o hdr →
      let s2 := s1.releaseAt x.core scope
      let c := s2.readBarrier p
      let e := (Effect.none x.t).toS x.t false o.w o.dst.toNat [BitVec.ofNat 32 c.phase]
      (o.c.getLsbD 5 = false → max n 1 ≤ c.arv →
        goes (.tbarrive o) 0x1A2 e (s2.writeBarrier p { c with arv := c.arv - max n 1 }.step))
      ∧ (o.c.getLsbD 5 = true → n ≤ c.sec →
        goes (.tbarrive o) 0x1A2 e (s2.writeBarrier p { c with sec := c.sec - n }.step)))
    ∧ (Runs s x 0x1A3 o hdr →
      (b.phase ≠ n % 16 → b.err &&& 0b1011 = 0 →
        Drained s s1 ∧ Answers (.tbwait o) s x true 1 (goesTo x hdr x.t.frontier) (Effect.none x.t)
          (noted (s1.acquireAt x.core scope)))
      ∧ (b.phase = n % 16 → Waits (.tbwait o) s x .tbwait s1))
    ∧ (Runs s x 0x1A4 o hdr →
      let e (v : Lanes) : Effect := (Effect.none x.t).toP o.dst.toNat x.t.active v
      (b.phase ≠ n % 16 → b.err &&& 0b1011 = 0 → 
        goes (.tbtest o) 0x1A4 (e (BitVec.allOnes 128)) (noted (s1.acquireAt x.core scope)))
      ∧ (b.phase = n % 16 → x.t.det = false → goes (.tbtest o) 0x1A4 (e 0) s1)
      ∧ (b.phase = n % 16 → x.t.det = true → Waits (.tbtest o) s x .tbtest s1))

/-- The traps of transaction barriers and tags (16 R366, R371, R373, R374): a TBWAIT or TBTEST that finds the phase over
with POISON, FAULT or CANCEL set traps COPY_POISON with the error bits and the place of the barrier in TVAL; BARRIER_PHASE names
in TVAL what R371 lists, with the barrier's place or the tag. None of them changes the barrier, the tag or memory. -/
def Sys2Proof.Claims.BarrierTraps : Prop :=
  ∀ (s : State) (x : Env) (o : Op) (hdr : DWord),
    let n := x.t.operand 6 o o.b 0
    let place : Nat := if o.c.getLsbD 4 then (x.t.readS o.a.num.toNat).toNat + 2 ^ 32 * (o.c.toNat % 16)
      else (x.t.rawPair o.a 0).toNat % 2 ^ 57
    let phase (i : Instr) (reason low : Nat) : Prop :=
      TrapsOnly i s x ⟨0x31, BitVec.ofNat 64 (reason * 2 ^ 57 + low), x.t.active, none⟩
    let tag (i : Instr) (reason : Nat) : Prop :=
      Traps i s x 0x31 (BitVec.ofNat 64 (reason * 2 ^ 57 + o.c.toNat % 8)) x.t.active
    let g : Tag := (x.cl.tags[o.c.toNat % 8]?).getD ⟨0, 0, [], []⟩
    let me := x.r.block * 64 + x.r.troupe
    (∀ p s1, s.findBarrier o x = .ok (p, s1) →
      let b := s1.readBarrier p
      let c := (s1.releaseAt x.core (if o.c.getLsbD 4 then 1 else 3)).readBarrier p
      (∀ (i : Op → Instr) (code : Nat), ((i = .tbwait ∧ code = 0x1A3) ∨ (i = .tbtest ∧ code = 0x1A4)) → Runs s x code o hdr →
        b.phase ≠ n % 16 → b.err &&& 0b1011 ≠ 0 →
        TrapsOnly (i o) s x ⟨0x2A, BitVec.ofNat 64 (b.err % 128 * 2 ^ 57 + place), x.t.active, none⟩)
      ∧ (Runs s x 0x1A0 o hdr → (n = 0 ∨ 2 ^ 20 ≤ n) → phase (.tbinit o) 1 place)
      ∧ (Runs s x 0x1A1 o hdr → 2 ^ 32 ≤ b.sec + n → phase (.tbexpect o) 2 place)
      ∧ (Runs s x 0x1A2 o hdr →
        ((o.c.getLsbD 5 = false ∧ c.arv < max n 1) ∨ (o.c.getLsbD 5 = true ∧ c.sec < n)) → phase (.tbarrive o) 3 place))
    ∧ (Runs s x 0x1A5 o hdr →
      let cs : List (Bool × Nat) := [(n = 0 || x.cl.troupeCount < n, 5), (g.arv.contains me && !g.done.contains me, 6),
        (x.t.active ≠ x.t.live, 8), (g.count ≠ 0 && n ≠ g.total, 4)]
      ∀ c, cs.find? (·.1) = some c → tag (.bara o) c.2)
    ∧ (Runs s x 0x1A6 o hdr →
      (me ∉ g.arv → tag (.barw o) 7)
      ∧ (me ∈ g.arv → x.t.active ≠ x.t.live → tag (.barw o) 8))

/-- The completion step of a transaction barrier, and the settling of a transfer unit (16 R360, R369): when arrivals and
units have both run out, the phase advances modulo 16 and the arrivals are reloaded; a unit that none was expected for sets
FAULT. A barrier's fields keep their values through its 128 bits (R359). -/
def Sys2Proof.Claims.BarrierArithmetic : Prop :=
  ∀ b : Barrier,
    (b.arv = 0 → b.sec = 0 → b.step = { b with phase := (b.phase + 1) % 16, arv := b.reload })
    ∧ (b.arv ≠ 0 ∨ b.sec ≠ 0 → b.step = b)
    ∧ (b.sec ≠ 0 → b.settleUnit = { b with sec := b.sec - 1 }.step)
    ∧ (b.sec = 0 → b.settleUnit = { b with err := b.err ||| 2 }.step)
    ∧ (b.phase < 2 ^ 4 → b.arv < 2 ^ 20 → b.sec < 2 ^ 32 → b.reload < 2 ^ 20 → b.err < 2 ^ 4 → b.rsv < 2 ^ 48 →
        b.toNat < 2 ^ 128 ∧ Barrier.ofNat b.toNat = b)

/-- BARA records the troupe's arrival at a tag of its cluster, the last arrival opening it for all of them, and BARW passes a
troupe for which the tag has opened and waits otherwise (16 R372 to R374); CNTRD reads a counter (R375). That RETIRED counts
the words before the reading one is log entry 65. -/
def Obligations.TagsAndCounters : Prop :=
  ∀ (s : State) (x : Env) (o : Op) (hdr : DWord),
    let n := x.t.operand 6 o o.b 0
    let tag := o.c.toNat % 8
    let g : Tag := (x.cl.tags[tag]?).getD ⟨0, 0, [], []⟩
    let me := x.r.block * 64 + x.r.troupe
    let put (q : State) (g : Tag) : State := q.modCluster x.r.cluster (fun cl => { cl with tags := x.cl.tags.set tag g })
    (Runs s x 0x1A5 o hdr → n ≠ 0 → n ≤ x.cl.troupeCount → (me ∈ g.arv → me ∈ g.done) →
      x.t.active = x.t.live → (g.count ≠ 0 → n = g.total) →
      ∃ s1 g', Drained s s1
        ∧ Answers (.bara o) s x (ends 0x1A5 o x) 1 (goesTo x hdr x.t.frontier) (Effect.none x.t) (put s1 g')
        ∧ g'.total = n ∧ me ∈ g'.arv ∧ (∀ u ∈ g.arv, u ∈ g'.arv) ∧ (∀ u ∈ g'.arv, u = me ∨ u ∈ g.arv)
        ∧ (g.count + 1 ≠ n → g'.count = g.count + 1 ∧ me ∉ g'.done ∧ ∀ u, u ≠ me → (u ∈ g'.done ↔ u ∈ g.done))
        ∧ (g.count + 1 = n → g'.count = 0 ∧ ∀ u, u ∈ g'.done ↔ u ∈ g'.arv))
    ∧ (Runs s x 0x1A6 o hdr → me ∈ g.arv → x.t.active = x.t.live →
      (me ∈ g.done → ∃ s1, Drained s s1 ∧ Answers (.barw o) s x true 1 (goesTo x hdr x.t.frontier) (Effect.none x.t)
        (put s1 { g with arv := g.arv.filter (fun u => u ≠ me) }))
      ∧ (me ∉ g.done → Waits (.barw o) s x (.barw tag) s))
    ∧ (Runs s x 0x1A7 o hdr →
      (n ≤ 4 ∨ (0x10 ≤ n ∧ n ≤ 0x16) →
        let c := x.t.counters
        let v : DWord := BitVec.ofNat 64 (if x.t.det && n ≠ 0 then 0
          else ([c.retired, c.runs, c.hold, c.readyw, c.spills][n]?).getD (sget 0 s.coreCount (x.core * 32 + n)))
        Completes (.cntrd o) s x (ends 0x1A7 o x) 1 hdr
          ((Effect.none x.t).toS x.t false o.w o.dst.toNat [v.extractLsb' 0 32, v.extractLsb' 32 32]))
      ∧ (¬ (n ≤ 4 ∨ (0x10 ≤ n ∧ n ≤ 0x16)) → Traps (.cntrd o) s x 0x01
          ((if o.ext.isSome then x.c.hiExt else x.c.hi).setWidth 64) x.t.active))

/-! ## Issue slots, stalls and waits (03 R85, R97; 14 R326, R328, R342 to R345) -/

/-- A free issue slot goes to the troupe that asks for it with the highest effective class, then the longest wait, then the
first slot, whose order is the model's (14 R343 to R345; log entry 34); one that has the word of a pending fault to execute
again takes no part (18 R410). It begins a fresh run at the entry of highest priority and lowest address among those
that wait behind no entry that still owes a run to a YIELD (01 R24, R27; 03 R85; log entry 69), and every troupe of its
hardware troupe waits anew (R345). -/
def Sys2Proof.Claims.IssueSlotGrants : Prop :=
  ∀ (s : State) (core q : Nat), q < 4 → s.slotOf core q = none →
    ((s.clusters.map (·.1)).Nodup →
      ∀ b : Bid, b ∈ s.bids core q ↔ ∃ cl la blk t, s.cluster? b.r.cluster = some cl ∧ s.launch? cl.launch = some la
        ∧ cl.blocks[b.r.block]? = some blk ∧ blk.core = core ∧ blk.troupes[b.r.troupe]? = some t ∧ t.status = .ready
        ∧ t.redo = false ∧ t.frontier ≠ [] ∧ s.mayIssue b.r.cluster = true ∧ la.hwTroupe b.r.troupe % 4 = q
        ∧ b.wait = sharedWait la blk b.r.troupe ∧ b.cls = min 3 (la.cls + b.wait / 256)
        ∧ b.slot = (cl.placed * 16 + b.r.block) * 64 + b.r.troupe)
    ∧ (s.bids core q = [] → exec (.issueSlotGrant core q) s = .next s)
    ∧ (∀ (b : Bid) (t : Troupe) (cl : Cluster) (la : Launch), b ∈ s.bids core q →
      (∀ c ∈ s.bids core q, c ≠ b → c.cls < b.cls ∨ (c.cls = b.cls ∧ (c.wait < b.wait ∨ (c.wait = b.wait ∧ b.slot < c.slot)))) →
      s.troupe? b.r = some t → s.cluster? b.r.cluster = some cl → s.launch? cl.launch = some la →
      let waitsAnew (blk : Block) : Block :=
        { blk with troupes := blk.troupes.mapIdx (fun k u => if la.hwTroupe k = la.hwTroupe b.r.troupe then { u with waitw := 0 } else u) }
      ∃ t', exec (.issueSlotGrant core q) s
          = .next { (s.setTroupe b.r t').modBlock b.r.cluster b.r.block waitsAnew with slots := s.slots ++ [(core * 4 + q, b.r)] }
        ∧ (t.midRun = true → t' = { t with waitw := 0 })
        ∧ (t.midRun = false →
          t' = { t with
            waitw := 0, midRun := true, run := ⟨[none, none, none, none], 0, 0⟩, frontier := t'.frontier
            counters := { t.counters with runs := (t.counters.runs + 1) % 2 ^ 64 } }
          ∧ (let live := t.frontier.filter (fun f => f.mask ≠ 0)
            let waits (f : FEntry) : Bool := live.any (fun g => g.pc ≠ f.pc && g.owes ≠ 0 && g.owes ≤ f.yielded)
            live ≠ [] → ∃ f ∈ live, t'.frontier.head? = some { f with owes := 0, yielded := 0 }
              ∧ ((∃ g ∈ live, waits g = false) → waits f = false)
              ∧ ∀ g ∈ live, waits g = waits f → g.prio < f.prio ∨ (g.prio = f.prio ∧ f.pc.toNat ≤ g.pc.toNat))))

/-- The word of a pending fault issues first (18 R410): while a resident troupe is ready for one, the next move is that word's, by
the first such troupe, which needs no slot and asks for none; whatever the agenda holds, since the word belongs to the placement
of its cluster (log entry 22). -/
def Sys2Proof.Claims.PendingFaultIssuesFirst : Prop :=
  ∀ (s : State) (core q : Nat) (r : TRef) (es : List (Nat × Nat × TRef)), s.replay = none →
    (s.redos = (core, q, r) :: es → step s = afterMove s (.word core q) (makeMove (.word core q) s) ∧ s.issuerAt core q = some r)
    ∧ ((s.clusters.map (·.1)).Nodup → ((core, q, r) ∈ s.redos ↔ ∃ cl la blk t, s.cluster? r.cluster = some cl
      ∧ s.launch? cl.launch = some la ∧ cl.blocks[r.block]? = some blk ∧ blk.troupes[r.troupe]? = some t ∧ blk.core = core
      ∧ la.hwTroupe r.troupe % 4 = q ∧ s.mayIssue r.cluster = true ∧ t.status = .ready ∧ t.frontier ≠ [] ∧ t.redo = true))

namespace Sys2Proof.Claims

/-- Troupe `r` is `t`, stalled at the word `i`, and may issue (03 R85; 18 R406). -/
def StalledAt (s : State) (r : TRef) (t : Troupe) (i : Instr) : Prop :=
  s.mayIssue r.cluster = true ∧ s.troupe? r = some t ∧ ∃ c, t.status = .stalled i c

/-- Where `free` holds, the event makes the stalled troupe ready again at its word, with its slot; where it does not, nothing
changes. -/
def EndsStall (ev : Instr) (s : State) (r : TRef) (t : Troupe) (free : Prop) : Prop :=
  (free → exec ev s = .next (s.setTroupe r { t with status := .ready })) ∧ (¬ free → exec ev s = .next s)

/-- Troupe `r` waits at the word `i` with the wait `k`, and may issue; `s1` is the state in which it looks again, and `x` its
environment there. -/
def WaitsAt (s : State) (r : TRef) (k : WaitKind) (i : Instr) (s1 : State) (x : Env) : Prop :=
  s.mayIssue r.cluster = true ∧ ∃ t c, s.troupe? r = some t ∧ t.status = .waiting k i c ∧ c.r = r
    ∧ s1 = { s.setTroupe r { t with status := .ready, waitw := 0 } with cur := some c } ∧ s1.env? = some x

/-- The event lets the waiting word look again, and where `passes` holds, the troupe then waits no longer. -/
def LooksAgain (ev : Instr) (s : State) (r : TRef) (i : Instr) (s1 : State) (passes : Prop) : Prop :=
  exec ev s = exec i s1 ∧ (passes → ∃ s' q, exec ev s = .next s' ∧ s'.troupe? r = some q ∧ q.status = .ready)

end Sys2Proof.Claims

/-- A stalled troupe goes on at its word when what it lacks is there (03 R85): an SFU entry of its eight (06 R163), a
miss-status entry of its core's 1,536 (09 R204), which LAUNCH needs beside its place, a batch of the eight of a member (14
R326), an entry of the 64 of the copy queue (13 R301), a place among the 64 of a device launch queue (14 R329); or when its
arena stores have been performed (12 R296). -/
def Sys2Proof.Claims.StallsEnd : Prop :=
  ∀ (s : State) (r : TRef) (t : Troupe) (b : Block) (o : Op) (i : Instr), StalledAt s r t i →
    s.block? r.cluster r.block = some b →
    (∀ code, i.op? = some (code, o) → code / 32 = 6 →
      EndsStall (.sfuEntryFree r) s r t ((t.late.filter (fun p => p.sfu)).length < 8))
    ∧ (∀ code, i.op? = some (code, o) → code / 32 = 8 ∨ code / 32 = 9 →
      EndsStall (.missStatusEntryFree r) s r t ((s.mshr.filter (fun e => e.1 = b.core)).length < 1536))
    ∧ (i = .mcommit o → EndsStall (.batchQueueSlotFree r) s r t (b.committedOf r.troupe < 8))
    ∧ (i = .copy o ∨ i = .copyg o ∨ i = .copys o →
      EndsStall (.copyQueueEntryFree r) s r t ((s.copies.filter (fun c => c.core = b.core)).length < 64))
    ∧ (i = .launch o → ∀ ev, ev = .launchQueueRoom r ∨ ev = .missStatusEntryFree r → EndsStall ev s r t
        ((s.queue (12 + o.c.toNat % 4)).length < 64 ∧ (s.mshr.filter (fun e => e.1 = b.core)).length < 1536))
    ∧ (i = .mfence o → exec (.mfenceRelease r) s = .next (s.setTroupe r { t with arenaBusy := false, status := .ready }))

/-- A troupe that waits at MWAIT, TBWAIT, TBTEST or BARW executes its word again, and goes on when what it waits for has
happened (14 R328; 16 R366, R367, R374); one that sleeps goes on no earlier than its clock (14 R342). That a word that waits
keeps its place without a slot and is completed there is log entry 47. -/
def Sys2Proof.Claims.WaitsEnd : Prop :=
  (∀ (s s1 : State) (r : TRef) (x : Env) (o : Op) (hdr : DWord),
    (WaitsAt s r .mwait (.mwait o) s1 x → LooksAgain (.mwaitRelease r) s r (.mwait o) s1
      (Runs s1 x 0x184 o hdr ∧ ∃ b, x.b.mwait r.troupe o.b.imm11.toNat = .done b))
    ∧ (∀ k, WaitsAt s r (.barw k) (.barw o) s1 x → LooksAgain (.barwRelease r) s r (.barw o) s1
      (Runs s1 x 0x1A6 o hdr ∧ x.t.active = x.t.live ∧
        let g : Tag := (x.cl.tags[o.c.toNat % 8]?).getD ⟨0, 0, [], []⟩
        r.block * 64 + r.troupe ∈ g.arv ∧ r.block * 64 + r.troupe ∈ g.done))
    ∧ (∀ p s2, s1.findBarrier o x = .ok (p, s2) →
      let b := s2.readBarrier p
      let passed := b.phase ≠ x.t.operand 6 o o.b 0 % 16 ∧ b.err &&& 0b1011 = 0
      (WaitsAt s r .tbwait (.tbwait o) s1 x → LooksAgain (.tbwaitRelease r) s r (.tbwait o) s1 (Runs s1 x 0x1A3 o hdr ∧ passed))
      ∧ (WaitsAt s r .tbtest (.tbtest o) s1 x → LooksAgain (.tbwaitRelease r) s r (.tbtest o) s1 (Runs s1 x 0x1A4 o hdr ∧ passed))))
  ∧ (∀ (s : State) (r : TRef) (t : Troupe) (u : Nat), s.mayIssue r.cluster = true → s.troupe? r = some t → t.status = .sleeping u →
    (u ≤ s.clk → exec (.sleepExpiry r) s = .next (s.setTroupe r { t with status := .ready, waitw := 0 }))
    ∧ (s.clk < u → exec (.sleepExpiry r) s = .next s))

/-- The oldest pending result of its kind is written to the registers (03 R86, R97; 06 R163, R164): no register and no tag
reads otherwise than before, and one result fewer is pending. -/
def Sys2Proof.Claims.LateResultsArrive : Prop :=
  ∀ (s : State) (r : TRef) (t : Troupe) (ev : Instr) (sfu : Bool) (before after : List Late) (p : Late),
    ((ev = .lateResult r ∧ sfu = false) ∨ (ev = .sfuResult r ∧ sfu = true)) →
    s.troupe? r = some t → t.late = before ++ p :: after → p.sfu = sfu → (∀ q ∈ before, q.sfu ≠ sfu) →
    (∀ q ∈ t.late, (q.v.map (·.1)).Nodup ∧ (q.s.map (·.1)).Nodup ∧ (q.sc.map (·.1)).Nodup) →
    ∃ t', exec ev s = .next (s.setTroupe r t') ∧ t' = { t with v := t'.v, s := t'.s, sc := t'.sc, late := t'.late }
      ∧ t'.late.length + 1 = t.late.length
      ∧ (t'.late.filter (fun q => q.sfu = sfu)).length + 1 = (t.late.filter (fun q => q.sfu = sfu)).length
      ∧ (∀ c ∈ p.v, sget 0 t'.v c.1 = c.2) ∧ (∀ c ∈ p.s, sget 0 t'.s c.1 = c.2) ∧ (∀ c ∈ p.sc, sget 0x7F t'.sc c.1 = c.2)
      ∧ (∀ d l, t'.readV d l = t.readV d l) ∧ (∀ d, t'.readS d = t.readS d) ∧ (∀ d k, t'.readTag d k = t.readTag d k)

/-! ## The memory pipeline (09 R204, R206, R216, R220) -/

/-- A sector has entered L2, or was in it (09 R201, R206): from the full 256 MiB of its die at most one other sector leaves, of a
line that is evicted first where there is one. -/
def Sys2Proof.Claims.EntersL2 (s s' : State) (sector : Nat) : Prop :=
  let die (q : Nat) : Nat := State.homeDie (64 * q)
  let had (q : Nat) : Bool := sget false s.l2 q
  let has (q : Nat) : Bool := sget false s'.l2 q
  has sector = true ∧ (∀ q, q ≠ sector → has q = true → had q = true)
    ∧ ∃ out, (∀ q, q ≠ out → had q = true → has q = true)
      ∧ (had out = true → has out = false → die out = die sector
        ∧ 2 ^ 22 ≤ (s.l2.filter (fun e => die e.1 = die sector)).length
        ∧ ((∃ q, q ≠ sector ∧ had q = true ∧ die q = die sector ∧ sget false s.l2First (q / 4) = true) →
            sget false s.l2First (out / 4) = true))

/-- The fill of a sector frees its miss-status entry, and the sector is where it was awaited: in this module's L2, but for host
memory, which is not cached (09 R208); of another module at the domain home alone, where its own L2 holds no copy (R206); and for
a .ca load in L2 and in L1, which takes memory's values for the bytes of the sector and the sideband of its line that it does not
hold as stores (R204, R206, R210). What leaves a full L1 or L2 to make room is unspecified (01 R37; log entry 25). A table walk
enters its translation in the core's cache, for a whole run where the leaf is of one (R215, R216). An invalidation completes when
no access under an older translation remains: the context's translations leave every cache and STATUS is sent (R220; the payload
is log entry 35). That L1 is held byte by byte, and when its stores are written through, is log entry 12. -/
def Sys2Proof.Claims.MemoryPipelineEvents : Prop :=
  (∀ (s : State) (core sector f : Nat), f < 3 → sector < 2 ^ 57 → swf false s.l2 = true → (core, sector * 4 + f) ∈ s.mshr →
    (∀ e ∈ s.mshrOf core, e / 4 = sector → e = sector * 4 + f) →
    let own := isLocalKey (64 * sector)
    let host := isHostKey (64 * sector)
    ∃ s', exec (.lineFill core sector) s = .next s' ∧ s'.mshr = s.mshr.filter (fun e => e ≠ (core, sector * 4 + f))
      ∧ ((f = 0 ∨ (f = 2 ∧ own = true)) → s' = { s with mshr := s'.mshr, l2 := s'.l2 }
        ∧ (host = true → s'.l2 = s.l2) ∧ (host = false → EntersL2 s s' sector))
      ∧ (f = 2 → own = false → s' = { s with mshr := s'.mshr, l2 := s'.l2, far := s'.far }
        ∧ (host = true → s'.l2 = s.l2 ∧ s'.far = s.far)
        ∧ (host = false → ∀ q, sget false s'.l2 q = (sget false s.l2 q && decide (q ≠ sector))
          ∧ sget false s'.far q = (sget false s.far q || decide (q = sector))))
      ∧ (f = 1 →
        (s.l1.length + 80 ≤ 2048 → (host = true → s'.l2 = s.l2) ∧ (host = false → EntersL2 s s' sector))
        ∧ (∀ i, i < 64 →
          let k := sector * 64 + i
          (∀ b, s.l1Byte core k = .dirty b → s'.l1Byte core k = .dirty b)
          ∧ ((∀ b, s.l1Byte core k ≠ .dirty b) → s'.l1Byte core k = .clean (s.rdByte k))
          ∧ s'.rdByte k = s.rdByte k)
        ∧ (∀ i, i < 16 →
          let k := State.l1SideKey (sector * 64) i
          (∀ b, s.l1Byte core k = .dirty b → s'.l1Byte core k = .dirty b)
          ∧ ((∀ b, s.l1Byte core k ≠ .dirty b) → s'.l1Byte core k = .clean (s.rdSide (sector * 64) i)))
        ∧ (∀ p, (∀ i, i < 64 → p ≠ State.l1Key core (sector * 64 + i)) →
          (∀ i, i < 16 → p ≠ State.l1Key core (State.l1SideKey (sector * 64) i)) →
          sget L1Byte.absent s'.l1 p = sget L1Byte.absent s.l1 p
            ∨ (s.l1.length + 80 > 2048 ∧ State.l1Core p = core ∧ State.l1Addr (State.l1Phys p) / 256 ≠ sector / 4
              ∧ sget L1Byte.absent s'.l1 p = .absent))
        ∧ (∀ k, KeptByte s s' k) ∧ (∀ i, KeptSide s s' i)
        ∧ s' = { s with
            mem := s'.mem, side := s'.side, poison := s'.poison, sidePoison := s'.sidePoison, frames := s'.frames, l1 := s'.l1
            l2 := s'.l2, mshr := s'.mshr }))
  ∧ (∀ (s : State) (core ctx : Nat) (va : DWord) (c : Ctx), va.toNat < 2 ^ 57 → s.ctx? ctx = some c →
    ((∀ l, s.walk c.l1 va.toNat ≠ .leaf l) → exec (.tableWalk core ctx va) s = .next s)
    ∧ (∀ l, s.walk c.l1 va.toNat = .leaf l →
      ∃ s', exec (.tableWalk core ctx va) s = .next s' ∧ s' = { s with tlb := s'.tlb, coreCount := s'.coreCount }
        ∧ (s.tlbLookup core ctx va.toNat = none → s'.tlbLookup core ctx va.toNat = some l)
        ∧ (∀ m, s.tlbLookup core ctx va.toNat = some m → s' = s)
        ∧ (∀ e ∈ s'.tlb, e ∈ s.tlb ∨ (e.core = core ∧ e.ctx = ctx ∧ e.va = va.toNat / 2 ^ e.leaf.bits * 2 ^ e.leaf.bits
          ∧ (e.leaf = l ∨ (l.run = true ∧ l.bits = 18
            ∧ e.leaf = { l with bits := 25, frame := l.frame - va.toNat % 2 ^ 25 / 2 ^ 18 * 2 ^ 18 }))))))
  ∧ (∀ (s : State) (ctx : Nat) (v : Invalidation), s.invals.find? (fun u => u.ctx = ctx) = some v →
    (s.invalPending v = true → exec (.invalidationComplete ctx) s = .next s)
    ∧ (s.invalPending v = false →
      ∃ s', exec (.invalidationComplete ctx) s = .next s' ∧ (∀ e, e ∈ s'.tlb ↔ e ∈ s.tlb ∧ e.ctx ≠ ctx)
        ∧ s'.invals = s.invals.erase v ∧ s'.devSeq = s.devSeq + 1
        ∧ s'.link = s.link ++ [⟨s.devSeq, s.ack, 0x82, ctx, 1, 0, bytesOf 4 v.seq.toNat ++ List.replicate 60 0⟩]
        ∧ s' = { s with
            tlb := s'.tlb, invals := s'.invals, devSeq := s'.devSeq, link := s'.link, responses := s'.responses }))

/-! ## Turns (10 R239, R240) -/

/-- When every troupe of a turn has arrived or retired, and none of their writes into its regions is still to come, the planes of
its regions are swapped where no word of a FAULT region is collided: what was written shows as present, the new next plane is
zero, a copy of it, or as it was, by INIT; and each troupe that waited goes on at the next word (10 R229, R239, R240). Where a
word is collided, each of them traps PLANE_COLLISION with reason 2 at its TURN, with the lowest such word of the lowest such
region in TVAL and its live lanes in TMASK; the marks of collision are cleared, the written marks stay, and no plane is swapped
(R239 step 3). `m` below names the regions of the turn, which share no byte. -/
def Sys2Proof.Claims.TurnSwapsPlanes : Prop :=
  ∀ (s : State) (c i k : Nat) (b : Block) (cl : Cluster) (u : Turn), s.block? c i = some b → s.cluster? c = some cl →
    b.turns[k]? = some u → s.mayIssue c = true → turnArrived b u = true → turnPending s c i b u = false →
    b.rgn.length = 16 → swf none b.marks = true →
    let m (r : Nat) : Prop := r < 16 ∧ u.m.getLsbD r = true
    let base (r : Nat) : Nat := rgnBase (b.region r)
    let past (r : Nat) : Nat := base r + 2 * rgnSize (b.region r)
    let hit (r off : Nat) : Prop := m r ∧ rgnRule (b.region r) = 2 ∧ off < rgnSize (b.region r)
      ∧ ((sget none b.marks (nextAt (b.region r) + off)).map (·.collided)) = some true
    (∀ r, m r → rgnPlanar (b.region r) = true) → (∀ r q, m r → m q → r ≠ q → past r ≤ base q ∨ past q ≤ base r) →
    ((∀ r off, ¬ hit r off) →
      ∃ s' b', exec (.turnSwap c i k) s = .next s' ∧ s'.block? c i = some b' ∧ (∀ a, s'.rdByte a = s.rdByte a)
      ∧ b'.turns = b.turns.filter (fun v => v ≠ u)
      ∧ b' = { b with
          troupes := b'.troupes, rgn := b'.rgn, arena := b'.arena, apoison := b'.apoison, stamps := b'.stamps
          marks := b'.marks, turns := b'.turns, acts := b'.acts }
      ∧ (let bare (a : MAct) : MAct := { a with batches := a.batches.map (fun x => { x with words := [] }) }
        b'.acts.map bare = b.acts.map bare)
      ∧ (∀ r, m r → b'.region r = b.region r ^^^ 0x200) ∧ (∀ r, ¬ m r → b'.region r = b.region r)
      ∧ (∀ r off, m r → off < rgnSize (b.region r) →
        let d := b'.region r
        b'.rdArena (presentAt d + off) = b.rdArena (nextAt (b.region r) + off)
        ∧ sget none b'.marks (presentAt d + off) = none
        ∧ b'.rdArena (nextAt d + off) = (if rgnInit d = 1 then b.rdArena (nextAt (b.region r) + off)
            else if rgnInit d = 2 then b.rdArena (presentAt (b.region r) + off) else 0))
      ∧ (∀ a, (∀ r, m r → a < base r ∨ past r ≤ a) → b'.rdArena a = b.rdArena a)
      ∧ (∀ t q o w e es, t < 64 → u.arrived.getLsbD t = true → b.troupes[t]? = some q →
        q.status = .waiting .turn (.turn o) w → w.r = ⟨c, i, t⟩ → w.last = false → q.frontier = e :: es → e.mask ≠ 0 →
        b'.troupes[t]? = some { q with
          status := .ready, waitw := 0, midRun := false, run := ⟨[none, none, none, none], 0, 0⟩, rm := none, redo := false
          served := 0, kept := [], keptTag := []
          retiredInsns := q.retiredInsns + 1
          counters := { q.counters with retired := (q.counters.retired + 1) % 2 ^ 64 }
          frontier := { e with pc := w.pc + BitVec.ofNat 64 (8 * w.len) } :: es }))
    ∧ (∀ r off, hit r off → (∀ q p, hit q p → r < q ∨ (r = q ∧ off ≤ p)) →
      ∃ s' b', exec (.turnSwap c i k) s = .next s' ∧ s'.block? c i = some b' ∧ (∀ a, s'.rdByte a = s.rdByte a)
      ∧ b' = { b with troupes := b'.troupes, marks := b'.marks, turns := b.turns.filter (fun v => v ≠ u) }
      ∧ (∀ a, sget none b'.marks a = (sget none b.marks a).map (fun x =>
          if (List.range 16).any (fun q => u.m.getLsbD q && decide (nextAt (b.region q) ≤ a)
            && decide (a < nextAt (b.region q) + rgnSize (b.region q))) then { x with collided := false } else x))
      ∧ (∀ t q kind o w, t < 64 → u.arrived.getLsbD t = true → b.troupes[t]? = some q → q.status = .waiting kind o w →
        ∃ q', b'.troupes[t]? = some q' ∧ q'.tcause = 0x11 ∧ q'.tpc = w.pc
          ∧ q'.tval = BitVec.ofNat 64 (2 * 2 ^ 57 + r * 2 ^ 32 + off % 2 ^ 32) ∧ q'.tmask = q.launched &&& ~~~q.exited))


/-! ## The matrix engine (12 R278 to R299) -/

namespace Sys2Proof.Claims

/-- The entry that the act performs next is `j`, whose first instruction is `i`, of a batch that holds no error (12 R273,
R299). -/
def Next (s : State) (a : ActRef) (j : Job) (i : Instr) : Prop :=
  s.job? a = some j ∧ j.head.i = i ∧ ((j.a.batches[j.batch]?).getD Batch.fresh).err = none

/-- The event performs the entry, which leaves `s1`, and counts it in its batch with no error (14 R325), where the A groups and
the operand words that it has read stand (04 R101; 12 R282), after what copies unordered with it leave undefined (13 R317,
R322). -/
def Performed (ev : Instr) (s : State) (j : Job) (s1 : State) : Prop :=
  exec ev s = .next ((j.spoilBy (j.meetCopies s s1)).countEntry j none j.groupReads j.wordReads)

/-- The event stops the entry with an error of its batch, and has no other effect (12 R292, R299). -/
def Stopped (ev : Instr) (s : State) (j : Job) (e : BatchErr) : Prop := exec ev s = .next (s.countEntry j (some e) [] [])

/-- The troupes of the members of an act as `f` leaves them; the others as they were. -/
def members (j : Job) (f : Troupe → Troupe) (t : Nat) (q : Troupe) : Troupe :=
  if j.a.members.any (fun m => m.troupe = t) then f q else q

/-- A step leaves `s1`: each element of the rows and columns is accumulated by `acc` into its tile, at reduced precision
where the launch allows it and A is of a 16-bit type, which sets STICKY of the members (R285, R296); nothing else of the
module changes but the counters of cores. -/
def StepWrites (s : State) (j : Job) (o : Op) (c : StepCtl) (rows cols : List (List KBlock))
    (acc : Fmt → Fmt → Nat → List KBlock → List KBlock → Nat → Nat) (s1 : State) : Prop :=
  let low := j.grant && !typeMx c.ta
  let tile := o.dst.toNat % 16
  let fa := if low then Fmt.e4m3 else fmtOf c.ta
  let fb := if low then Fmt.e4m3 else fmtOf c.tb
  let ra := if low then rows.map (fun x => (degrade c.ta x).1) else rows
  let cb := if low then cols.map (fun x => (degrade c.tb x).1) else cols
  let ovf := rows.any (fun x => (degrade c.ta x).2) || cols.any (fun x => (degrade c.tb x).2)
  let bits : Word := if ovf then 5 else 4
  ∃ b1, s1 = { s.setBlock j.act.cluster j.act.block b1 with coreCount := s1.coreCount }
    ∧ b1 = { j.b with tiles := b1.tiles, tilePoison := b1.tilePoison, troupes := b1.troupes }
    ∧ (∀ t, b1.troupes[t]? = (j.b.troupes[t]?).map (fun q =>
        if low then members j (fun q => { q with sticky := q.sticky ||| bits }) t q else q))
    ∧ (∀ m n, m < rows.length → n < c.n →
        b1.elem tile m (c.col + n)
          = acc fa fb m (ra.getD m []) (cb.getD n []) (j.b.elem tile m (c.col + n)) % 2 ^ 32)
    ∧ (∀ k m n, m < 128 → n < 256 → ¬ (k = tile ∧ m < rows.length ∧ c.col ≤ n ∧ n < c.col + c.n) →
        b1.elem k m n = j.b.elem k m n)

end Sys2Proof.Claims

/-- A step of MMA, MMA.G or MLOOP accumulates, block by block, the products of each row of A and column of B into its tile
element (12 R279 to R282, R285, R287, R288); a poisoned operand word stops it (R299). What stands in an arena word that a store
may or may not have reached is unspecified or undefined (11 R267; log entry 3). How the order of a store and a step is told is
log entry 16. -/
def Sys2Proof.Claims.DenseSteps : Prop :=
  ∀ (s : State) (a : ActRef) (j : Job) (o : Op) (src : ASource) (off : Nat) (i : Instr), Next s a j i →
    let c := stepCtl o
    ((i = .mma o ∧ o.a.cls = .v ∧ src = .regs ∧ off = j.sval 0)
      ∨ (i = .mma o ∧ o.a.cls ≠ .v ∧ src = .table (j.sval 0) ∧ off = j.sval 1)
      ∨ (i = .mmaG o ∧ src = .indexed (j.sval 1) ∧ off = j.sval 0)
      ∨ (i = .mloop o ∧ src = .table (j.sval 0 + j.head.step * (j.a.members.length * j.a.rm * rowStride c.ta c.kb))
          ∧ off = j.sval 1 + j.head.step * panelBytes c.tb c.n c.kb)) →
    (∀ p r, j.poisonAt c src c.kb off = some (p, r) → Stopped (.matrixStep a) s j (.poison p r j.index))
    ∧ (let rows := j.rowsA s o c src
      j.poisonAt c src c.kb off = none → c.col + c.n ≤ 256 → rows.length ≤ 128 →
      ∃ s1, Performed (.matrixStep a) s j s1
        ∧ StepWrites s j o c rows (j.columnsB s c c.kb off) (fun TA TB _ x y e => denseAcc TA TB x y e) s1)

/-- A step of MMA.SP accumulates the products of the stored elements of each row of A with the elements of B that the row's
pattern names (12 R289, R290); an illegal or marked pattern byte or a poisoned operand word stops it (R292, R299). That the
pattern is looked at first is log entry 63. -/
def Sys2Proof.Claims.SparseSteps : Prop :=
  ∀ (s : State) (a : ActRef) (j : Job) (o : Op) (src : ASource) (off pat : Nat), Next s a j (.mmaSp o) →
    let c := stepCtl o
    let kind := o.dst.toNat / 16 % 4
    let g := patG kind
    let n := patN kind
    let kbB := c.kb * g / n
    let used := c.kb * blockElemsOf c.ta / 2
    ((o.a.cls = .v ∧ src = .regs ∧ off = j.sval 0 ∧ pat = j.sval 1)
      ∨ (o.a.cls ≠ .v ∧ src = .table (j.sval 0) ∧ off = j.sval 1 ∧ pat = j.sval 2)) →
    let bad (m : Nat) := j.b.badPattern kind (pat + m * c.kb * 16) used
    (∀ m p why, m < j.a.members.length * j.a.rm → (∀ k, k < m → bad k = none) → bad m = some (p, why) →
      Stopped (.sparseStep a) s j (.pattern p j.index why))
    ∧ ((∀ m, m < j.a.members.length * j.a.rm → bad m = none) →
      (∀ p r, j.poisonAt c src kbB off = some (p, r) → Stopped (.sparseStep a) s j (.poison p r j.index))
      ∧ (let rows := j.rowsA s o c src
        let entry (m e : Nat) : Nat := (sget 0 j.b.pat (pat + m * c.kb * 16 + e / 2)).toNat / 16 ^ (e % 2) % 16
        j.poisonAt c src kbB off = none → c.col + c.n ≤ 256 → rows.length ≤ 128 →
        ∃ s1, Performed (.sparseStep a) s j s1
          ∧ StepWrites s j o c rows (j.columnsB s c kbB off)
              (fun TA TB m x y e => sparseAcc TA TB n g (c.kb * blockElemsOf c.ta) (entry m) y 0 x e) s1))

/-- Copies that are not ordered with an entry of their block (13 R317, R322; 12 R282; 11 R267): a tile element that the entry
writes, and that a copy writes which is in flight, or complete and not observed before the entry, is undefined, and every other
element is as the entry left it; a copy in flight that writes or has still to read the entry's elements leaves, or takes,
undefined values from then on; and a copy in flight that was issued after a step, over operand words that the step has read,
leaves the step's tile undefined. Where no copy of the block is in flight or unobserved, nothing changes. An entry then leaves
the queue of its act and counts in its batch, which keeps the first error (14 R325; 12 R299). That an unordered copy leaves old
values, undefined ones or its own, and when its completion counts as observed, is the model's reading (log entry 89). -/
def Sys2Proof.Claims.EntriesMeetCopies : Prop :=
  ∀ (s0 s : State) (j : Job) (b : Block), s.block? j.act.cluster j.act.block = some b →
    let here (q : CopyReq) : Bool := q.cluster = j.act.cluster && q.block = j.act.block
    let unseen : List TileArea := (s0.copies.filter here).filterMap CopyReq.dstArea
      ++ j.b.landed.filterMap (fun c => if j.b.observed c.id j.issuers then none else c.area)
    let inside (x : TileArea) (k m n : Nat) : Bool :=
      x.tile = k && x.row ≤ m && m < x.row + x.rows && x.col ≤ n && n < x.col + x.cols
    let writes (k m n : Nat) : Bool := (j.area.map (fun w => inside w k m n)).getD false
    let shares (x : Option TileArea) : Prop := ∃ y k m n, x = some y ∧ inside y k m n = true ∧ writes k m n = true
    let late (q : CopyReq) : Prop := here q = true ∧ q.seq > ((j.issuers.find? (fun i => i.1 = q.troupe)).map (fun i => i.2.1)).getD
        (((j.issuers.map (fun i => i.2.1)).min?).getD 0)
      ∧ ∃ w ∈ j.wordReads, q.covers j.b w.first w.len = true
    (∀ x ∈ unseen, x.row + x.rows ≤ 128 ∧ x.col + x.cols ≤ 256) →
    (∃ s' b', j.meetCopies s0 s = s' ∧ s'.block? j.act.cluster j.act.block = some b'
      ∧ s' = { s.setBlock j.act.cluster j.act.block b' with copies := s'.copies }
      ∧ b' = { b with tiles := b'.tiles, tilePoison := b'.tilePoison }
      ∧ (∀ k m n, m < 128 → n < 256 → b'.elem k m n =
          if writes k m n && unseen.any (fun x => inside x k m n) then
            (s.freeWord (tileChoice (k * 32768 + m * 256 + n))).toNat
          else b.elem k m n)
      ∧ s'.copies.length = s.copies.length
      ∧ (∀ (i : Nat) (q : CopyReq), s.copies[i]? = some q → ∃ q', s'.copies[i]? = some q' ∧ q' = { q with loose := q'.loose }
          ∧ ((here q = true ∧ (shares q.dstArea ∨ (q.image = none ∧ shares q.srcArea))) → q'.loose = true)
          ∧ (¬ (here q = true ∧ (shares q.dstArea ∨ (q.image = none ∧ shares q.srcArea))) → q'.loose = q.loose)))
    ∧ ((∀ q ∈ s.copies, ¬ late q) → j.spoilBy s = s)
    ∧ ((∃ q ∈ s.copies, late q) → ∃ b', (j.spoilBy s) = s.setBlock j.act.cluster j.act.block b'
        ∧ b' = { b with undef := b'.undef, fixed := b'.fixed }
        ∧ ∀ k, k < 16 → b'.undef.getLsbD k = (b.undef.getLsbD k || decide (k = (j.area.map (·.tile)).getD 0)))
    ∧ (∀ err reads words a, b.acts[j.act.act]? = some a →
      let y := (a.batches[j.batch]?).getD Batch.fresh
      let y' := { y with
        done := y.done + 1, err := if y.err.isSome then y.err else err, reads := y.reads ++ reads, words := y.words ++ words }
      let a' := { a with queue := a.queue.drop 1, batches := a.batches.set j.batch y' }
      ∃ b', s.countEntry j err reads words = s.setBlock j.act.cluster j.act.block b'
        ∧ b' = { b with acts := (b.acts.set j.act.act a').filter (fun c => !(c.members.all (·.left) && c.queue.isEmpty))
                        undef := b'.undef, fixed := b'.fixed }
        ∧ ({ b with acts := b.acts.set j.act.act a' }.brokenTiles = 0 → b'.undef = b.undef ∧ b'.fixed = b.fixed))

/-- ACCZ makes every element of its tile zero (12 R294), and clears its marks: with no other act on the tile its elements hold
defined values again (R272), and no read for it by a step counts any more (04 R101). PATLD copies bytes of memory into the
pattern memory and marks those of illegal groups or poisoned sectors (R291). -/
def Sys2Proof.Claims.ZeroAndPatternEntries : Prop :=
  ∀ (s : State) (a : ActRef) (j : Job) (o : Op),
    (Next s a j (.accz o) →
      let tile := o.dst.toNat % 16
      ∃ b1, Performed (.acczPerform a) s j (s.setBlock a.cluster a.block b1)
        ∧ b1 = { j.b with tiles := b1.tiles, tilePoison := b1.tilePoison, undef := b1.undef, fixed := b1.fixed, acts := b1.acts }
        ∧ b1.acts = j.b.acts.map (fun p => { p with batches := p.batches.map (fun q =>
            { q with reads := q.reads.filter (fun g => g.tile ≠ tile), words := q.words.filter (fun w => w.tile ≠ tile) }) })
        ∧ (∀ m n, m < 128 → n < 256 → b1.elem tile m n = 0)
        ∧ (∀ k m n, k ≠ tile → m < 128 → n < 256 → b1.elem k m n = j.b.elem k m n)
        ∧ (∀ k, k < 16 → k ≠ tile → b1.undef.getLsbD k = j.b.undef.getLsbD k)
        ∧ ((∀ p q, p ∈ List.range j.b.acts.length → q ∈ List.range j.b.acts.length →
            ((j.b.acts[p]?).map (fun x => x.tiles.getLsbD tile)).getD false = true →
            ((j.b.acts[q]?).map (fun x => x.tiles.getLsbD tile)).getD false = true → p = q) →
          b1.undef.getLsbD tile = false))
    ∧ (Next s a j (.patld o) →
      let va := j.sval 0 + 2 ^ 32 * j.sval 1
      let off := j.sval 2
      let n := j.sval 3
      let key (i : Nat) : Nat := s.pageKey j.head.pages (va + i)
      let ill := illegalBytes o.dst.toNat ((List.range n).map (fun i => (s.rdByte (key i)).toNat))
      ∃ b1, Performed (.patldPerform a) s j (s.setBlock a.cluster a.block b1)
        ∧ b1 = { j.b with pat := b1.pat, patPoison := b1.patPoison }
        ∧ (∀ i, i < n → sget 0 b1.pat (off + i) = s.rdByte (key i)
          ∧ sget false b1.patPoison (off + i) = (ill.getD i false || s.poisoned (key i)))
        ∧ (∀ k, k < off ∨ off + n ≤ k → sget 0 b1.pat k = sget 0 j.b.pat k
          ∧ sget false b1.patPoison k = sget false j.b.patPoison k))

/-- ACCST stores a window of a tile as FP32, rounded to 16 bits, or quantised to an MX type, row by row: into a flat region,
the unwritten words of a next plane, or global memory (12 R294; 10 R231); converting, it updates AMAX and STICKY.OVF of the
members (02 R63, R64). No other byte changes. That of several members the first gives rounding and SEED is log entry 63. -/
def Sys2Proof.Claims.AccumulatorStores : Prop :=
  ∀ (s : State) (a : ActRef) (j : Job) (o : Op), Next s a j (.accst o) → (j.a.members.map (·.troupe)).Nodup →
    let ty := accstType o
    let global := accstGlobal o
    let w := accstWindow (j.sval (if global then 2 else 1))
    let tile := o.dst.toNat % 16
    let elem (r c : Nat) : Nat := s.readElem j.b false tile (w.row + r) (w.col + c)
    let wid0 := ((j.troupe 0).map (fun t => (t.wid 0).toNat)).getD 0
    let rnd (r c : Nat) : Rnd :=
      Rnd.at (rmode (accstRnd o) j.head.rnd) j.head.seed ((wid0 * 2 ^ 15 + (w.row + r) * 256 + w.col + c) % 2 ^ 64)
    let row (r : Nat) := accstRow ty (accstFit o) w.cols (elem r) (rnd r)
    let rs := accstStride ty w.cols
    let inputs := (List.range w.rows).flatMap (fun r => (List.range w.cols).map (fun c => decodeF .fp32 (elem r c)))
    let ovf := (List.range w.rows).any (fun r => (row r).2)
    let troupes (b1 : Block) : Prop := ∀ t, b1.troupes[t]? = (j.b.troupes[t]?).map (fun q =>
      if ty = 11 then q else members j (fun q => (q.amaxIn inputs).stickyOvf ovf) t q)
    (ty = 9 ∨ ty = 10 ∨ ty = 11 ∨ (typeMx ty = true ∧ w.cols % 32 = 0)) →
    (∀ x ∈ j.loose s, x.tile ≠ tile) →
    (∀ r, (row r).1.length = rs)
    ∧ (global = false →
      let d := j.b.region (accstRegion o)
      let at_ := nextAt d + j.sval 0
      (rgnPlanar d = true → at_ % rgnWord d = 0 ∧ ∀ k, k < w.rows * rs → sget none j.b.marks (at_ + k) = none) →
      ∃ b1, Performed (.accstPerform a) s j (s.setBlock a.cluster a.block b1) ∧ troupes b1
        ∧ b1 = { j.b with
            troupes := b1.troupes, arena := b1.arena, apoison := b1.apoison, stamps := b1.stamps, marks := b1.marks }
        ∧ (∀ r k, r < w.rows → k < rs → b1.rdArena (at_ + r * rs + k) = (row r).1.getD k 0)
        ∧ (∀ k, k < at_ ∨ at_ + w.rows * rs ≤ k → b1.rdArena k = j.b.rdArena k))
    ∧ (global = true →
      let va := j.sval 0 + 2 ^ 32 * j.sval 1
      let key (k : Nat) : Nat := s.pageKey j.head.pages (va + k)
      (∀ k l, k < w.rows * rs → l < w.rows * rs → key k = key l → k = l) →
      ∃ s1 b1, Performed (.accstPerform a) s j s1 ∧ troupes b1 ∧ b1 = { j.b with troupes := b1.troupes }
        ∧ s1 = { s.setBlock a.cluster a.block b1 with
            mem := s1.mem, side := s1.side, poison := s1.poison, sidePoison := s1.sidePoison, frames := s1.frames
            l1 := s1.l1, l2 := s1.l2 }
        ∧ (∀ i, KeptSide s s1 i)
        ∧ (∀ r k, r < w.rows → k < rs → s1.rdByte (key (r * rs + k)) = (row r).1.getD k 0)
        ∧ (∀ q, (∀ k, k < w.rows * rs → q ≠ key k) → KeptByte s s1 q))

/-- What a step adds to an accumulator, block after block in ascending K (12 R285, R290): of a dense step each block of A with
that of B; of a sparse step, for each compressed block of A, its stored elements with the B elements that the pattern entries
select, under the scales of their blocks, order 1 of R61 testing every scale of the span. A NaN stays a NaN (R61). -/
def Sys2Proof.Claims.StepValues : Prop :=
  (∀ (TA TB : Fmt) (as bs as' bs' : List KBlock) (a b : KBlock) (acc : Nat), as.length = bs.length →
    denseAcc TA TB (as ++ as') (bs ++ bs') acc = denseAcc TA TB as' bs' (denseAcc TA TB as bs acc)
    ∧ denseAcc TA TB [] bs acc = acc
    ∧ (a.codes.length = b.codes.length → ∃ es : List DotElem, es.length = a.codes.length
      ∧ (∀ (i : Nat) (d : DotElem), es[i]? = some d → d = ⟨a.codes.getD i 0, b.codes.getD i 0, b.scale⟩)
      ∧ denseAcc TA TB [a] [b] acc = dotBlock TA TB a.scale [b.scale] es acc)
    ∧ (isNanF .fp32 acc = true → isNanF .fp32 (denseAcc TA TB as bs acc) = true))
  ∧ (∀ (TA TB : Fmt) (n g total kb : Nat) (entry : Nat → Nat) (bs as as' : List KBlock) (a : KBlock) (acc : Nat),
    let go := sparseAcc TA TB n g total entry bs
    go kb (as ++ as') acc = go (kb + as.length) as' (go kb as acc) ∧ go kb [] acc = acc
    ∧ (let size := a.codes.length
      let stored := min size (total - kb * size)
      let pos (i : Nat) : Nat := (kb * size + i) / n * g + entry (kb * size + i)
      let blk (i : Nat) : KBlock := bs.getD (pos i / size) ⟨[], 0x7F⟩
      (kb + 1) * (g / n) ≤ bs.length →
      ∃ (es : List DotElem) (span : List Nat), go kb [a] acc = dotBlock TA TB a.scale span es acc
        ∧ es.length = stored
        ∧ (∀ (i : Nat) (d : DotElem), es[i]? = some d → d = ⟨a.codes.getD i 0, (blk i).codes.getD (pos i % size) 0, (blk i).scale⟩)
        ∧ span.length = g / n ∧ ∀ i, i < g / n → span.getD i 0 = (bs.getD (kb * (g / n) + i) ⟨[], 0⟩).scale)
    ∧ (isNanF .fp32 acc = true → isNanF .fp32 (go kb as acc) = true))

/-- The bytes of a window row that ACCST stores (12 R294): FP32 codes as they are, FP16 and BF16 codes converted (02 R50, R59),
and for an MX type the packed codes of each block of 32, then their scales, then zeros up to the row's stride (12 R280; 02
R56). -/
def Sys2Proof.Claims.RowValues : Prop :=
  ∀ (ty cols : Nat) (fit : Bool) (x : Nat → Nat) (rnd : Nat → Rnd), (∀ c, x c < 2 ^ 32) →
    let out := (accstRow ty fit cols x rnd).1
    let ovf := (accstRow ty fit cols x rnd).2
    let at_ (k n : Nat) : Nat := ofBytes ((out.drop k).take n)
    (ty = 11 → ovf = false ∧ out.length = 4 * cols ∧ ∀ c, c < cols → at_ (4 * c) 4 = x c)
    ∧ (ty = 9 ∨ ty = 10 → ovf = false ∧ out.length = 2 * cols
      ∧ ∀ c, c < cols → at_ (2 * c) 2 = (convF .fp32 (fmtOf ty) (rnd c) (x c)).1)
    ∧ (12 ≤ ty → ty ≤ 17 →
      let T := fmtOf ty
      let n := cols / 32
      let bb := T.blockBytes
      let q (k : Nat) : QBlock := quantBlock T fit ((List.range 32).map (fun i => (decodeF .fp32 (x (32 * k + i)), rnd (32 * k + i))))
      out.length = rowStride ty n ∧ (ovf = true ↔ ∃ k, k < n ∧ (q k).ovf = true)
      ∧ (∀ k i, k < n → i < 32 → elemOf T.bits (at_ (bb * k) bb) i = (q k).codes.getD i 0)
      ∧ (∀ k, k < n → out.getD (bb * n + k) 0 = BitVec.ofNat 8 (q k).scale)
      ∧ ∀ k, bb * n + n ≤ k → out.getD k 0 = 0)

/-! ## The copy engine (13 R301, R305 to R309, R314, R316, R317, R323, R324) -/

namespace Sys2Proof.Claims

/-- A complete copy `q` into the arena or a tile is kept in its block, where the block has tiles: what it wrote and its barrier,
which no troupe has observed yet (13 R322; log entry 89). -/
def landed (q : CopyReq) (p : BarrierAt) (b : Block) : Block :=
  if b.tileCount = 0 ∨ (copyDesc q.desc).dk = 0 then b
  else { b with landed := b.landed ++ [⟨q.id, q.dstArea, p.place, []⟩] }

/-- Memory differs between `s` and `s'` in the bytes of the barrier alone, if it lies in memory; the block of the copy `q` keeps
it if it is complete (`over`), and the copies, the bytes of an arena barrier and the counters of cores may differ besides. -/
def BarrierOnly (s s' : State) (q : CopyReq) (p : BarrierAt) (ended : Bool) : Prop :=
  match p with
  | .global k => (∀ a, a < k ∨ k + 16 ≤ a → s'.rdByte a = s.rdByte a)
      ∧ s'.clusters = (if ended then s.modBlock q.cluster q.block (landed q p) else s).clusters
  | .arena c i r off => (∀ a, s'.rdByte a = s.rdByte a) ∧
      ∀ b b', s.block? c i = some b → s'.block? c i = some b' →
        b' = { (if ended then landed q p b else b) with arena := b'.arena, apoison := b'.apoison, stamps := b'.stamps }
        ∧ ∀ a, a < presentAt (b.region r) + off ∨ presentAt (b.region r) + off + 16 ≤ a → b'.rdArena a = b.rdArena a

/-- The barrier operand is at home: in memory, or in a block that is there. -/
def AtHome (s : State) (p : BarrierAt) : Prop :=
  match p with
  | .global _ => True
  | .arena c i _ _ => ∃ b, s.block? c i = some b

/-- Between `s` and `s'` units of the copy `q` have been counted at its barrier, which `f` changes; the copy holds
`settled`, or is gone when those are all of its units (13 R301, R314, R322). -/
def Counted (s s' : State) (q : CopyReq) (p : BarrierAt) (f : Barrier → Barrier) (stop : Option Nat) (settled : List Nat) : Prop :=
  s'.readBarrier p = f (s.readBarrier p) ∧ BarrierOnly s s' q p (q.total ≤ settled.length)
    ∧ (∀ c, c.id ≠ q.id → (c ∈ s'.copies ↔ c ∈ s.copies))
    ∧ (settled.length < q.total → { q with settled := settled, stop := stop } ∈ s'.copies)
    ∧ (q.total ≤ settled.length → ∀ c ∈ s'.copies, c.id ≠ q.id)

/-- Bytes at consecutive places of a region's next plane, `b1` being the block after them: a flat region, or words of a planar
one that nothing has written (10 R231). A tile of a pending step that has read the bytes may be undefined then (12 R282). -/
def ArenaTakes (b b1 : Block) (d : DWord) (off : Nat) (bytes : List Byte) (bad : Bool) : Prop :=
  let at_ := nextAt d + off
  (rgnPlanar d = true → bytes.length % rgnWord d = 0 ∧ ∀ k, k < bytes.length → sget none b.marks (at_ + k) = none) →
  b1 = { b with
      arena := b1.arena, apoison := b1.apoison, stamps := b1.stamps, marks := b1.marks, undef := b1.undef, fixed := b1.fixed }
    ∧ (b.undef &&& b1.undef) = b.undef
    ∧ (∀ k, k < bytes.length → b1.rdArena (at_ + k) = bytes.getD k 0)
    ∧ (∀ k, k < at_ ∨ at_ + bytes.length ≤ k → b1.rdArena k = b.rdArena k)
    ∧ (bad = true → ∀ k, k < bytes.length → sget false b1.apoison ((at_ + k) / 8) = true)

end Sys2Proof.Claims

/-- A transfer unit of a copy whose source has been read is written to its place and counted at the barrier: 64 bytes of a
destination row in global memory, the blocks of typed lines that begin in it with their sideband bytes, bytes of the arena, of
a panel, or elements of a tile (13 R301, R307, R308, R314, R316, R317); poison goes along with it, into the sideband of typed
lines too, and from the row on at which the copy stops nothing is written (R323). Elements that conflict with an entry are free
(R317). A unit that may not be settled yet stays (R318). That units may be settled in any order that R318 leaves is log entry
32. -/
def Sys2Proof.Claims.CopyUnitsSettle : Prop :=
  ∀ (s : State) (core id unit : Nat) (j : CopyJob) (rows : List RowImage), s.copyJob? core id = some j →
    j.q.image = some rows → (∀ q ∈ s.copies, q.id = id → q = j.q) → AtHome s j.barrier →
    let r := unit / j.d.rowUnits
    let piece := unit % j.d.rowUnits
    let row := if j.d.rb then rows.headD ⟨[], [], []⟩ else rows.getD r ⟨[], [], []⟩
    let start := if j.d.rb then 64 * unit else 64 * piece
    let bytes := (row.bytes.drop start).take 64
    let bad := ((row.bad.drop start).take 64).any (fun x => x)
    let dk := j.d.dk
    let mx := typeMx j.d.dtype
    (j.unitReady unit = false → exec (.copyUnitSettled core id unit) s = .next s)
    ∧ (j.unitReady unit = true →
      ∃ s2 s3, exec (.copyUnitSettled core id unit) s = .next s3
        ∧ Counted s2 s3 j.q j.barrier Barrier.settleUnit j.q.stop (j.q.settled ++ [unit]) ∧ s2.copies = s.copies
        ∧ ((∃ n, j.q.stop = some n ∧ n ≤ j.rowOf unit) → s2 = s)
        ∧ ((∀ n, j.q.stop = some n → j.rowOf unit < n) →
          (j.d.rb = true →
            ∃ b1, s2 = { s.setBlock j.q.cluster j.q.block b1 with seq := s.seq + 1 }
              ∧ ArenaTakes j.b b1 (j.b.region (adrRegion j.d.daddr)) (adrOff j.d.daddr + 64 * unit) bytes bad)
          ∧ (j.d.rb = false → j.rowStart r = none → s2 = s)
          ∧ (∀ a, j.d.rb = false → j.rowStart r = some a →
            (dk = 1 →
              ∃ b1, s2 = { s.setBlock j.q.cluster j.q.block b1 with seq := s.seq + 1 }
                ∧ ArenaTakes j.b b1 (j.b.region (adrRegion j.d.daddr)) (a + 64 * piece) bytes bad)
            ∧ (dk = 0 → mx = false →
              let key (k : Nat) : Nat := s.pageKey j.q.pages (a + 64 * piece + k)
              (∀ k l, k < bytes.length → l < bytes.length → key k = key l → k = l) →
              (∀ k, k < bytes.length → s2.rdByte (key k) = bytes.getD k 0 ∧ (bad = true → s2.poisoned (key k) = true))
                ∧ (∀ q, (∀ k, k < bytes.length → q ≠ key k) → KeptByte s s2 q) ∧ (∀ i, KeptSide s s2 i)
                ∧ s2 = { s with
                    mem := s2.mem, side := s2.side, poison := s2.poison, sidePoison := s2.sidePoison, frames := s2.frames
                    l1 := s2.l1, l2 := s2.l2 })
            ∧ (dk = 0 → mx = true →
              let bb := blockBytesOf j.d.dtype
              let line (k : Nat) : Nat := s.pageKey j.q.pages (CopyJob.lineSlot j.d.dtype a k).1
              let slot (k : Nat) : Nat := (CopyJob.lineSlot j.d.dtype a k).2
              let mine (k : Nat) : Prop := 64 * piece ≤ k * bb ∧ k * bb < 64 * piece + 64 ∧ k * bb + bb ≤ row.bytes.length
              (∀ k, mine k → slot k < lineBlocks (fmtOf j.d.dtype) ∧ line k % 256 = slot k * bb) →
              (∀ k l, mine k → mine l → k ≠ l → line k / 256 = line l / 256 → slot k ≠ slot l) →
              (∀ k, mine k → (∀ i, i < bb → s2.rdByte (line k + i) = row.bytes.getD (k * bb + i) 0)
                ∧ s2.rdSide (line k) (slot k) = row.scales.getD k 0)
                ∧ (bad = true → ∀ k, 64 * piece ≤ k → k < 64 * piece + bytes.length →
                    let key := s.pageKey j.q.pages ((CopyJob.lineSlot j.d.dtype a (k / bb)).1 + k % bb)
                    s2.poisoned key = true ∧ sget false s2.sidePoison (key / 64) = true)
                ∧ (∀ q, (∀ k, mine k → q / 256 ≠ line k / 256) → KeptByte s s2 q)
                ∧ (∀ i, (∀ k, mine k → i / 16 ≠ line k / 256) → KeptSide s s2 i)
                ∧ s2 = { s with
                    mem := s2.mem, side := s2.side, poison := s2.poison, sidePoison := s2.sidePoison, frames := s2.frames
                    l1 := s2.l1, l2 := s2.l2 })
            ∧ (dk = 2 → j.d.de1 ≤ 128 → adrRow j.d.daddr + r % j.d.de1 < 128 →
              adrCol j.d.daddr + 16 * piece + bytes.length / 4 ≤ 256 →
              let tile := adrTile j.d.daddr
              let m := adrRow j.d.daddr + r % j.d.de1
              ∃ b1, s2 = s.setBlock j.q.cluster j.q.block b1
                ∧ b1 = { j.b with tiles := b1.tiles, tilePoison := b1.tilePoison, fixed := b1.fixed }
                ∧ (∀ k, k < bytes.length / 4 → j.b.undef.getLsbD tile = true → j.b.aloneOn tile = true →
                    sget false b1.fixed (tileKey tile m (adrCol j.d.daddr + 16 * piece + k)) = true)
                ∧ (∀ k, k < bytes.length / 4 → j.q.loose = false →
                    b1.elem tile m (adrCol j.d.daddr + 16 * piece + k)
                      = (if bad then nanc 6 .fp32 else ofBytes ((bytes.drop (4 * k)).take 4)))
                ∧ (∀ t x y, x < 128 → y < 256 → ¬ (t = tile ∧ x = m ∧ adrCol j.d.daddr + 16 * piece ≤ y
                    ∧ y < adrCol j.d.daddr + 16 * piece + bytes.length / 4) → b1.elem t x y = j.b.elem t x y)))))

/-- With its first unit a copy reads and transforms its source, the time of which is the model's choice (log entry 32): every
destination row, with the poison that its bytes derive from; QUANT and RESCALE update AMAX and STICKY.OVF of the issuing troupe
from the rows that are written, and the first row with poison sets POISON at the barrier and ends the writing after it (13
R305, R306, R323). Which rows and elements these are is log entry 17. -/
def Sys2Proof.Claims.CopiesReadTheirSource : Prop :=
  ∀ (s : State) (core id unit : Nat) (j : CopyJob), s.copyJob? core id = some j → j.q.image = none → j.q.stop = none →
    (∀ q ∈ s.copies, q.id = id → q = j.q) → AtHome s j.barrier → j.unitReady unit = true →
    let parts := (List.range j.d.e2).flatMap (fun e2 => (List.range j.d.de1).map (j.rowParts e2))
    let rows := if j.d.rb then [j.panelImage parts] else parts.map j.rowImage
    let stop := (j.firstBad rows).map (· + 1)
    let used := if j.d.rb then parts else parts.take (stop.getD parts.length)
    let me : TRef := ⟨j.q.cluster, j.q.block, j.q.troupe⟩
    ∃ s1, exec (.copyUnitSettled core id unit) s = exec (.copyUnitSettled core id unit) s1
      ∧ s1.copies = s.copies.map (fun q => if q.id = id then { q with image := some rows, stop := stop } else q)
      ∧ (stop = none → s1.readBarrier j.barrier = s.readBarrier j.barrier ∧ ∀ a, s1.rdByte a = s.rdByte a)
      ∧ (stop ≠ none → s1.readBarrier j.barrier = (s.readBarrier j.barrier).setErr 0)
      ∧ (∀ q, s.troupe? me = some q → s1.troupe? me = some (if j.d.xf = 1 ∨ j.d.xf = 3 then
          (q.amaxIn (used.flatMap (·.inputs))).stickyOvf (used.any (·.ovf)) else q))

/-- The elements of a destination row: zero where the source has none; the source's code (MOVE), its value rounded to the
destination's type (DEQ), and by blocks of 32 quantised (QUANT) or rescaled (RESCALE) (13 R305, R306, R309; 02 R57, R59). -/
def Sys2Proof.Claims.CopyTransforms : Prop :=
  ∀ (j : CopyJob) (e2 e1 e0 k : Nat),
    (j.d.f0 ≤ e0 ∨ j.d.f1 ≤ e1 → j.source e2 e1 e0 = none ∧ j.plainElem e2 e1 e0 = (0, false))
    ∧ (∀ c, j.source e2 e1 e0 = some c →
      (j.d.xf = 0 → j.plainElem e2 e1 e0 = (c.code, c.bad))
      ∧ (j.d.xf ≠ 0 →
        let T := fmtOf j.d.dtype
        (j.plainElem e2 e1 e0).2 = c.bad
        ∧ (∀ n m e, j.value c = .fin n m e → (j.plainElem e2 e1 e0).1 = (rndF T (j.rounding e2 e1 e0) n m e).1)
        ∧ (∀ n, j.value c = .inf n → (j.plainElem e2 e1 e0).1 = signed T n T.infMag)
        ∧ (j.value c = .nan → (j.plainElem e2 e1 e0).1 = nanc (dqCause c.scale) T)))
    ∧ (j.d.xf = 1 → (∃ i, i < 32 ∧ (j.source e2 e1 (32 * k + i)).isSome = true) →
      (j.mxBlock e2 e1 k).block = quantBlock (fmtOf j.d.dtype) j.d.fit ((List.range 32).map (fun i =>
        (((j.source e2 e1 (32 * k + i)).map j.value).getD (.fin false 0 0), j.rounding e2 e1 (32 * k + i)))))
    ∧ (∀ c, j.d.xf = 3 → j.source e2 e1 (32 * k) = some c →
      (j.mxBlock e2 e1 k).block = brescaleBlock (fmtOf j.d.dtype) c.scale j.d.delta ((List.range 32).map (fun i =>
        (((j.source e2 e1 (32 * k + i)).map (·.code)).getD 0, j.rounding e2 e1 (32 * k + i)))))

/-- A copy whose access to another module fails in a row sets FAULT at its barrier and settles every unit from that row on
without writing any (13 R324). -/
def Sys2Proof.Claims.RemoteCopyFaults : Prop :=
  ∀ (s : State) (core id row : Nat) (j : CopyJob), s.copyJob? core id = some j →
    (∀ q ∈ s.copies, q.id = id → q = j.q) → AtHome s j.barrier → j.q.settled.length ≤ j.q.total →
    s.remoteCopy j.q = true →
    let rest := (List.range j.q.total).filter (fun u => decide (row ≤ j.rowOf u) && !j.q.settled.contains u)
    (rest = [] → exec (.copyRemoteFault core id row) s = .next s)
    ∧ (rest ≠ [] → j.q.settled.Nodup → (∀ u ∈ j.q.settled, u < j.q.total) →
      ∃ s', exec (.copyRemoteFault core id row) s = .next s'
        ∧ Counted s s' j.q j.barrier (fun b => (b.setErr 1).settleMany rest.length) (some (min row (j.q.stop.getD row)))
            (j.q.settled ++ rest))

/-! ## The ringmaster (14 R329 to R340; 15 R349, R355, R356; 17 R381, R382, R390) -/

namespace Sys2Proof.Claims

/-- An admitted launch and a record conflict: ranges of the two overlap and one of them writes, or both bind a claim queue
(14 R333; 15 R349). -/
def Conflict (la : Launch) (r : LRec) (outs : List BEnt) : Prop :=
  (∃ x ∈ State.launchSpans la.lrec (la.bindings.map (·.ent)), ∃ y ∈ State.launchSpans r outs,
    (x.write = true ∨ y.write = true) ∧ x.lo < y.hi ∧ y.lo < x.hi)
  ∨ ∃ q ∈ la.lrec.claimQueues, q ∈ r.claimQueues

end Sys2Proof.Claims

/-- The head of a launch queue that comes first in class and arrival is admitted when a dependence entry is free: it takes the
lowest, and waits on the admitted launches of its context that it conflicts with, its issuing launch apart; with none, its
state is 1 and it takes its claim queues (14 R331 to R333, R340; 15 R355, R356). A record that the checks refuse is answered by
a COMPLETION with their status (14 R332; 22 R436). Sharing a claim queue is log entry 19, heads of objects that load log entry
38. -/
def Sys2Proof.Claims.LaunchesAreAdmitted : Prop :=
  ∀ s : State,
    (s.freeIndex = none → exec .launchAdmission s = .next s)
    ∧ (∀ (entry n : Nat) (q : QRec), s.freeIndex = some entry → (n, q) ∈ s.heads →
      (∀ h ∈ s.heads, h ≠ (n, q) → State.headBefore (n, q) h = true ∧ State.headBefore h (n, q) = false) →
      let s1 : State := { s with lq := s.lq.set n (s.queue n).tail }
      let r : LRec := ⟨q.bytes⟩
      (∀ st, s1.checkRecord q.ctx r = .error st →
        ∃ s', exec .launchAdmission s = .next s' ∧ s'.lq = s1.lq ∧ s'.launches = s.launches ∧ s'.devSeq = s.devSeq + 1
          ∧ s'.link = s.link ++ [⟨s.devSeq, s.ack, 0x81, q.ctx, 2, 0, State.completionHead st q.ctx q.arrival 0 q.hseq none⟩]
          ∧ (r.crec = 0 → ∀ a, s'.rdByte a = s.rdByte a))
      ∧ (∀ t, s1.checkRecord q.ctx r = .ok t → (∀ e ∈ s.launches, e.1 ≠ s.nextId) →
        ∃ s' la, exec .launchAdmission s = .next s' ∧ s'.lq = s1.lq ∧ s'.launches = s.launches ++ [(s.nextId, la)]
          ∧ s'.nextId = s.nextId + 1 ∧ (∀ a, s'.rdByte a = s.rdByte a) ∧ s'.link = s.link
          ∧ la.bytes = q.bytes ∧ la.arrival = q.arrival ∧ la.ctx = q.ctx ∧ la.parent = q.parent ∧ la.next = 0 ∧ la.done = 0
          ∧ la.entry = entry ∧ entry < 64 ∧ (∀ e ∈ s.launches, e.2.entry ≠ entry)
          ∧ (∀ k, k < entry → ∃ e ∈ s.launches, e.2.entry = k)
          ∧ (∀ w, w ∈ la.waits ↔ ∃ e ∈ s.launches, e.2.entry = w ∧ e.2.ctx = q.ctx ∧ q.parent ≠ some e.1
              ∧ Conflict e.2 r (t.bindings.map (·.ent)))
          ∧ la.state = (if la.waits = [] then 1 else 0)
          ∧ (la.waits ≠ [] → s'.claims = s.claims)
          ∧ (la.waits = [] → r.cq 0 ≠ r.cq 1 → ∀ (i : Nat) (c : Claim), (i = 0 ∨ i = 1) → r.cv i = true →
              s.claims[r.cq i]? = some c →
              ((∃ p, q.parent = some p ∧ p ∈ c.owners) →
                s'.claims[r.cq i]? = some { c with owners := c.owners ++ [s.nextId] })
              ∧ (¬ (∃ p, q.parent = some p ∧ p ∈ c.owners) →
                s'.claims[r.cq i]? = some ⟨BitVec.ofNat 32 (r.first i), BitVec.ofNat 32 (r.limit i), [s.nextId]⟩))))

/-- A launch whose dependences have retired reserves the staging slots of its bindings, all or none, when no binding of its
CIDs is reserved, its slots are free, and no launch with a lower CID can reserve now (17 R381, R390); that a launch which
cannot reserve yet holds nothing back is the model's reading (log entry 90). Each binding takes the count of its CID's completed
bindings as its EPOCH and sends a ready notify to every other peer (R382). Where the slots lie is the model's choice (log entry
40). When a launch reserves is log entry 19. -/
def Sys2Proof.Claims.BindingsAreReserved : Prop :=
  ∀ (s : State) (id : Nat) (la : Launch), s.launch? id = some la → s.mayReserve (id, la) = true →
    s.reservedCount + la.bindings.length ≤ reduceSlots →
    (∀ f ∈ s.launches, f.1 = id ∨ s.lowestCid (id, la) ≤ s.lowestCid f ∨ s.mayReserve f = false
      ∨ reduceSlots < s.reservedCount + f.2.bindings.length ∨ State.reserveMany (s.byCid f) s = none) →
    (State.reserveMany (s.byCid (id, la)) s = none → exec (.bindingReservation id) s = .next s)
    ∧ ((State.reserveMany (s.byCid (id, la)) s).isSome = true →
      ∃ s' la', exec (.bindingReservation id) s = .next s' ∧ s'.launch? id = some la' ∧ la'.reservedAll = true
        ∧ la'.bindings.length = la.bindings.length ∧ (∀ a, s'.rdByte a = s.rdByte a)
        ∧ ∀ (i : Nat) (b : Binding), la.bindings[i]? = some b → ∃ b' : Binding, la'.bindings[i]? = some b' ∧ b'.reserved = true ∧ b'.entry = b.entry
          ∧ b'.epoch = sget 0 s.epochs b.ent.cid
          ∧ (0 < b.ent.nchunk → b'.txbase + b.ent.nchunk ≤ stagingSlots
              ∧ ∀ u ∈ s.stagingUse, b'.txbase + b.ent.nchunk ≤ u.1 ∨ u.1 + u.2 ≤ b'.txbase)
          ∧ ∀ k, k < b.peers.length → k ≠ b.rankOf s.member → ∃ m ∈ s'.outbox, m.member = b.peers.getD k 0 ∧ m.kind = 2
              ∧ m.note.cid = b.ent.cid ∧ m.note.epoch = b'.epoch % 256 ∧ m.note.nchunk = b.ent.nchunk)

/-- The first candidate in the order of 14 R336 that fits on a die is placed: its blocks take cores of one die in ascending
order that can hold them, and a fresh cluster counts in its launch (01 R28, R29; 14 R336); a saved one resumes (14 R339; 18
R410). The L1 of its cores then holds no line, and what stood there has been written through (11 R262; log entry 52). The
candidates before it have been skipped since then or since before; one that has been skipped for 2^20 clocks holds back every
candidate behind it (14 R336). Over the coolant limit nothing is placed, which is the model's reading (22 R449; log entry 39).
How a saved troupe with a pending fault goes on is log entry 22. -/
def Obligations.ClustersArePlaced : Prop :=
  (∀ s : State, s.overLimit = true → exec .clusterPlacement s = .next s)
  ∧ (∀ (s : State) (pre post : List Candidate) (k : Candidate) (die : Nat) (cores : List Nat),
    s.overLimit = false → s.reduceDue = false → s.candidates = pre ++ k :: post →
    (∀ c ∈ pre, s.fit c = none ∧ c.cluster.ordinal ∉ c.la.blocking) → s.fit k = some (die, cores) →
    s.launch? k.id = some k.la →
    ∃ s' cl la', exec .clusterPlacement s = .next s' ∧ s'.nextId = s.nextId + 1
      ∧ cl = { k.cluster with
          die := die, placed := s.nextId, state := .resident
          blocks := State.seatBlocks k.saved.isSome k.cluster.blocks cores }
      ∧ (k.saved = none → s'.clusters = s.clusters ++ [(s.nextId, cl)])
      ∧ (∀ c, k.saved = some c → s'.clusters = aset s.clusters c cl)
      ∧ s'.launch? k.id = some la' ∧ la'.next = k.la.next + (if k.saved = none then 1 else 0)
      ∧ (k.saved = none → la'.state = max 2 k.la.state)
      ∧ s' = { s with
          clusters := s'.clusters, launches := s'.launches, nextId := s'.nextId, mem := s'.mem, side := s'.side
          poison := s'.poison, sidePoison := s'.sidePoison, frames := s'.frames, l1 := s'.l1, l2 := s'.l2 }
      ∧ (∀ a, KeptByte s s' a) ∧ (∀ i, KeptSide s s' i)
      ∧ (∀ p, sget L1Byte.absent s'.l1 p = if State.l1Core p ∈ cores then .absent else sget L1Byte.absent s.l1 p)
      ∧ (∀ c ∈ pre, ∀ x, s.launch? c.id = some x → c.id ≠ k.id ∨ c.cluster.ordinal ≠ k.cluster.ordinal →
          ∃ x' e, s'.launch? c.id = some x' ∧ e ∈ x'.skipped ∧ e.1 = c.cluster.ordinal ∧ (e ∈ x.skipped ∨ e.2 = s.clk))
      ∧ cores.length = k.needs.length ∧ cores.Pairwise (· < ·)
      ∧ ∀ (i c : Nat) (n : Use), cores[i]? = some c → k.needs[i]? = some n →
          c / coresPerDie = die ∧ ((s.coreUse (fun _ => false) c).add n).ok = true)
  ∧ (∀ (bs : List Block) (cores : List Nat) (resumes : Bool), (∀ b ∈ bs, b.exited = false) → cores.length = bs.length →
    ∀ (i : Nat) (b : Block) (c : Nat), bs[i]? = some b → cores[i]? = some c → (State.seatBlocks resumes bs cores)[i]? = some { b with
      core := c
      troupes := if resumes then b.troupes.map (fun t => match t.status with
          | .parked rep => { t with status := .ready, rm := some rep.lanes, waitw := 0, redo := true }
          | _ => { t with waitw := 0 })
        else b.troupes })
  ∧ (∀ (s : State) (id : Nat) (la : Launch), s.launch? id = some la → ∃ la',
    exec (.placementSkipLimit id) s = .next { s with launches := aset s.launches id la' }
    ∧ la' = { la with blocking := la'.blocking } ∧ ∀ n, n ∈ la'.blocking ↔ ∃ e ∈ la.skipped, e.1 = n ∧ e.2 + 2 ^ 20 ≤ s.clk)

/-! ## Pre-emption and the context save (14 R339; 18 R406 to R409) -/

namespace Sys2Proof.Claims

/-- A resident cluster that has been told to stop (18 R406): its troupes stop at their instruction boundaries, those that wait
for memory or sleep to issue their word again. -/
def stopped (cl : Cluster) : Cluster :=
  { cl with
    state := .stopping
    reason := if cl.blocks.any (fun b => b.troupes.any (fun t => t.status = .breakpoint)) then 0x38 else 0x3A
    blocks := cl.blocks.map (fun b => { b with troupes := b.troupes.map (fun t => match t.status with
      | .waiting .tbwait _ _ | .waiting .tbtest _ _ | .waiting .mwait _ _ | .stalled _ _ => { t with status := .ready }
      | .sleeping _ => { t with status := .ready }
      | _ => t) }) }

end Sys2Proof.Claims

/-- A cluster that a candidate of a higher class or a reduce block needs out of the way is told to stop: its troupes give up
their slots and stop at their instruction boundaries, those that wait for memory or sleep to issue their word again, or inside
a long instruction (14 R339; 18 R406). When its copies and entries have drained it is saved: stores of its cores are written
through, and every register reads as before (18 R407). A troupe's save holds its v registers below H and those written since
its placement, and its size is that of 04 R109 (log entry 75). -/
def Sys2Proof.Claims.ClustersAreSaved : Prop :=
  ∀ (s : State) (c : Nat) (cl : Cluster), s.cluster? c = some cl →
    (s.nextVictim ≠ some c → exec (.preemption c) s = .next s)
    ∧ (s.nextVictim = some c → cl.state = .resident →
      let s1 := (s.slots.filter (fun e => e.2.cluster = c)).foldl (fun q e => q.stopInside e.2) s
      ∀ cl1, s1.cluster? c = some cl1 → cl1.state = .resident →
        exec (.preemption c) s = .next { s1.setCluster c (stopped cl1) with slots := s1.slots.filter (fun e => e.2.cluster ≠ c) })
    ∧ (s.drained c cl = false → exec (.contextSave c) s = .next s)
    ∧ (cl.state = .stopping → s.drained c cl = true →
      ∃ s' cl', exec (.contextSave c) s = .next s' ∧ s'.cluster? c = some cl' ∧ cl' = { cl with state := .saved, saved := cl'.saved, blocks := cl'.blocks }
        ∧ (∀ k, KeptByte s s' k) ∧ (∀ k, KeptSide s s' k)
        ∧ (∀ b k v, b ∈ cl.blocks → k < 2 ^ 64 → s'.l1Byte b.core k ≠ .dirty v)
        ∧ s' = { s with
            clusters := s'.clusters, mem := s'.mem, side := s'.side, poison := s'.poison, sidePoison := s'.sidePoison
            frames := s'.frames, l1 := s'.l1, l2 := s'.l2 }
        ∧ (∀ b, cl.blocks = [b] → cl'.saved = ((b.troupes.filter (fun t => t.status ≠ .retired)).map Troupe.saveBytes).sum)
        ∧ ∀ (i : Nat) (b : Block), cl.blocks[i]? = some b → ∃ b' : Block, cl'.blocks[i]? = some b' ∧ b' = { b with troupes := b'.troupes }
          ∧ ∀ (k : Nat) (t : Troupe), b.troupes[k]? = some t → ∃ t' : Troupe, b'.troupes[k]? = some t'
            ∧ t' = { t with v := t'.v, s := t'.s, sc := t'.sc, late := [], arenaBusy := false }
            ∧ ((∀ q ∈ t.late, (q.v.map (·.1)).Nodup ∧ (q.s.map (·.1)).Nodup ∧ (q.sc.map (·.1)).Nodup) →
              (∀ d l, t'.readV d l = t.readV d l) ∧ (∀ d, t'.readS d = t.readS d) ∧ (∀ d l, t'.readTag d l = t.readTag d l)))
    ∧ (∀ t : Troupe,
      (∀ w n, n = t.savedRegs.length →
        (t.width = 128 → w = 64 → t.saveBytes = 2 * (n * (4 * w + 16) + 256 + w + 512 + 4 * (4 * w + 16) + 512))
        ∧ (t.width ≠ 128 → w = t.width → t.saveBytes = n * (4 * w + 16) + 256 + w + 512 + 4 * (4 * w + 16) + 512))
      ∧ ∀ r, r ∈ t.savedRegs ↔ r < t.nregs
        ∧ ((∃ e ∈ t.frontier ++ ((t.held.map (·.frontier)).getD []), r < e.live) ∨ sget 0 t.wrote r ≠ 0))

namespace Sys2Proof.Claims

/-- Troupe `r` has stopped inside its word: `s1` is what the part before leaves, PROG is `prog`, and the lanes `m` are still to
be served; the run and every other register of the troupe are as they were, TPC among them (01 R32; 04 R102, R105). -/
def LeftInside (s1 : State) (x : Env) (prog : Nat) (m : Lanes) : State :=
  s1.modTroupe x.r (fun q => { q with run := x.t.run, prog := BitVec.ofNat 32 prog, rm := some m })

/-- What a part with W has yielded for the lanes `ls` is kept for the latch that the whole word pushes (03 R86; 08 R199). -/
def Yielded (w : Bool) (s1 : State) (x : Env) (ls : List Nat) : State :=
  if w then s1.modTroupe x.r (fun q => q.keep (State.pushed x.t q ls) []) else s1

end Sys2Proof.Claims

/-- A stop falls inside no word but FBNEXT, LDG, STG and MLOOP (01 R32; 18 R406; log entry 52). Inside FBNEXT, LDG or STG it
leaves the effect on the first selected lanes, at least one and not all: PROG counts the lanes served (08 R198), or the
elements of the lanes before the first that is not (11 R250). Inside MLOOP it leaves the first steps issued, and PROG counts
them (12 R287). Where it falls is free. -/
def Sys2Proof.Claims.LongInstructionsStop : Prop :=
  ∀ (s s1 : State) (r : TRef) (i : Instr) (code : Nat) (o : Op) (x : Env), NextWord s r i code o x s1 →
    let t := x.t
    (code ≠ 0x103 ∧ code ≠ 0x125 ∧ code ≠ 0x126 ∧ code ≠ 0x166 → s.stopInside r = s)
    ∧ (code = 0x166 →
      let start := if t.rm.isSome then t.prog.toNat else 0
      s.stopInside r = s ∨ ∃ n s2, 0 < n ∧ start + n < o.dst.toNat / 16 + 1
        ∧ mloopFrom o x n start s = .done s2 ∧ s.stopInside r = LeftInside s2 x (start + n) (t.rm.getD t.active))
    ∧ (∀ body : Op → Env → State → Res,
      ((code = 0x103 ∧ body = fbnextBody) ∨ (code = 0x125 ∧ body = ldgBody) ∨ (code = 0x126 ∧ body = stgBody)) →
      let sel := lanesOf t.width (t.selected o.guard)
      s.stopInside r = s ∨ ∃ n s2, 0 < n ∧ n < sel.length
        ∧ body o { x with t := { t with rm := some (maskOf (sel.take n)) } } s = .done s2
        ∧ ∃ prog, s.stopInside r = LeftInside (Yielded (o.w ∧ code ≠ 0x126) s2 x (sel.take n)) x prog (maskOf (sel.drop n))
          ∧ (code = 0x103 → prog = t.servedBefore + n)
          ∧ (code ≠ 0x103 → ∀ l, sel[n]? = some l → prog
            = rowCount o * ((lanesOf t.width (t.selected o.guard ||| t.served)).filter (fun k => k < l)).length))

/-! ## Exit points, retirement, the end of a launch (01 R30, R32; 14 R335, R338; 17 R379; 18 R398; 22 R436) -/

namespace Sys2Proof.Claims

/-- The event ends the launch `la` with a status (14 R335; 15 R356; 22 R436): one COMPLETION response is sent, and the record
is written at CREC where its pages can be stored to (log entry 37); its clusters are gone, its dependence entry is free,
no launch waits on it any more, those that wait on nothing have state 1, and it owns no claim queue. -/
def EndsLaunch (ev : Instr) (s : State) (id : Nat) (la : Launch) (status : Nat) (trap : Option TrapReport) : Prop :=
  let head := State.completionHead status la.ctx la.arrival (s.launchSticky id la) la.hseq trap
  let record := head ++ la.bindings.flatMap State.completionEntry
  let s2 := s.flushAll.removeClusters (fun _ cl => cl.launch = id)
  ∃ s', exec ev s = .next s' ∧ s'.launch? id = none ∧ s'.devSeq = s.devSeq + 1
    ∧ s'.link = s.link ++ [⟨s.devSeq, s.ack, 0x81, la.ctx, 2, 0, head⟩]
    ∧ (∀ c cl, s.cluster? c = some cl → s'.cluster? c = if cl.launch = id then none else some cl)
    ∧ (∀ k x, k ≠ id → s.launch? k = some x → ∃ x', s'.launch? k = some x'
        ∧ x'.waits = x.waits.filter (fun w => w ≠ la.entry)
        ∧ x'.state = (if x.state = 0 ∧ x'.waits = [] then 1 else x.state))
    ∧ (∀ q ∈ s'.claims, id ∉ q.owners)
    ∧ (la.lrec.crec = 0 → ∀ a, s'.rdByte a = s2.rdByte a)
    ∧ (∀ ps, la.lrec.crec ≠ 0 → s2.pagesFor coreTotal la.ctx .store .plain [(la.lrec.crec, record.length)] = .ok ps →
        let key (i : Nat) : Nat := s2.pageKey ps (la.lrec.crec + i)
        (∀ i k, i < record.length → k < record.length → key i = key k → i = k) →
        ∀ i, i < record.length → s'.rdByte (key i) = record.getD i 0)

end Sys2Proof.Claims

/-- A block reaches its exit point when its troupes have retired and no copy or entry of it remains: it counts down FIRE of the
chunk that it selects in every binding, and the last block's exit finishes the cluster (01 R30; 14 R338; 17 R379, R392). -/
def Sys2Proof.Claims.BlocksExit : Prop :=
  ∀ (s : State) (c i : Nat) (cl : Cluster) (b : Block) (la : Launch), s.cluster? c = some cl → cl.blocks[i]? = some b →
    s.launch? cl.launch = some la → cl.state = .resident →
    (s.atExit c i b = false → exec (.blockExitPoint c i) s = .next s)
    ∧ (b.exited = false → (∀ t ∈ b.troupes, t.status = .retired) → (∀ q ∈ s.copies, ¬ (q.cluster = c ∧ q.block = i)) →
      b.pend = [] → (∀ a ∈ b.acts, a.queue = []) →
      ∃ s' cl' la', exec (.blockExitPoint c i) s = .next s' ∧ s'.cluster? c = some cl' ∧ s'.launch? cl.launch = some la'
        ∧ cl' = { cl with
            state := if cl'.blocks.all (·.exited) then .finished else .resident
            blocks := cl.blocks.set i { b with exited := true, acts := [], turns := [] } }
        ∧ (∀ k, KeptByte s s' k) ∧ la' = { la with bindings := la'.bindings } ∧ la'.bindings.length = la.bindings.length
        ∧ ∀ (n : Nat) (q : Binding), la.bindings[n]? = some q → ∃ q' : Binding, la'.bindings[n]? = some q' ∧ q' = { q with fire := q'.fire }
          ∧ ∀ k, sget 0 q'.fire k = sget 0 q.fire k
            - (if q.live ∧ k < q.ent.nchunk ∧ k = State.gridIndex la.lrec cl i / 2 ^ q.ent.ms then 1 else 0))

/-- A finished cluster whose due chunks have fired retires, in curve order in a deterministic launch: it hands its chunks on,
leaves the module, and counts in its launch, the last one making its state 3 (14 R338; 15 R355; 02 R64). -/
def Sys2Proof.Claims.ClustersRetire : Prop :=
  ∀ (s : State) (c : Nat) (cl : Cluster) (la : Launch), s.cluster? c = some cl → s.launch? cl.launch = some la →
    cl.state = .finished → (s.clusters.map (·.1)).Nodup → (∀ q ∈ s.copies, q.cluster ≠ c) →
    (la.det = true ∧ cl.ordinal ≠ la.done ∨ State.firedAll la.lrec cl la.bindings = false →
      exec (.clusterRetirement c) s = .next s)
    ∧ ((la.det = true → cl.ordinal = la.done) → State.firedAll la.lrec cl la.bindings = true →
      ∃ s' la', exec (.clusterRetirement c) s = .next s' ∧ s'.cluster? c = none
        ∧ (∀ d, d ≠ c → s'.cluster? d = s.cluster? d) ∧ s'.launch? cl.launch = some la' ∧ la'.done = la.done + 1
        ∧ la'.sticky = la.sticky ||| State.clusterSticky cl
        ∧ la'.state = (if la.lrec.clusters ≤ la.done + 1 then 3 else la.state)
        ∧ (∀ k, s'.rdByte k = s.rdByte k)
        ∧ ∀ (n : Nat) (b : Binding), la.bindings[n]? = some b → b.live = true → ∃ b' : Binding, la'.bindings[n]? = some b'
          ∧ ∀ k, k ∈ State.toHand la cl b → k ∈ b'.handed)

/-- A launch with every cluster retired and every binding complete ends with status 0 (14 R335, R338); one that a trap has
ended, when nothing of it can go on, with the status of that trap and the trap of lowest WID (18 R398; log entry 46). -/
def Sys2Proof.Claims.LaunchesEnd : Prop :=
  ∀ (s : State) (id : Nat) (la : Launch), s.launch? id = some la → (s.launches.map (·.1)).Nodup → (s.clusters.map (·.1)).Nodup →
    (la.ended = false → la.state = 3 → (∀ b ∈ la.bindings, b.complete = true) → EndsLaunch (.launchRetirement id) s id la 0 none)
    ∧ (la.ended = true ∨ la.state ≠ 3 ∨ (∃ b ∈ la.bindings, b.complete = false) → exec (.launchRetirement id) s = .next s)
    ∧ (∀ t ts, la.ended = true → la.traps = t :: ts → s.quiescent id la = true →
      ∃ u ∈ la.traps, (∀ v ∈ la.traps, u.wid.toNat ≤ v.wid.toNat)
        ∧ EndsLaunch (.launchQuiescent id) s id la t.status (some u))
    ∧ (s.quiescent id la = false → exec (.launchQuiescent id) s = .next s)

/-! ## Collectives (17 R378 to R390) -/

namespace Sys2Proof.Claims

/-- A binding has become `b'`; no other binding and no byte of memory has changed. -/
def OnlyBinding (s s' : State) (r : BindRef) (b' : Binding) : Prop :=
  s'.binding? r = some b' ∧ (∀ q, q ≠ r → s'.binding? q = s.binding? q) ∧ ∀ a, s'.rdByte a = s.rdByte a

/-- Chunk `c` of a binding's output range has been written: its elements, and for an MX wire format each block with its
sideband byte (17 R377, R385; 09 R210). -/
def ChunkWritten (s s' : State) (b : Binding) (c : Nat) (bytes : List Byte) : Prop :=
  let va := b.ent.out + 4096 * c
  (b.ent.isMx = false →
    let key (i : Nat) : Nat := s.pageKey b.pages (va + i)
    (∀ i k, i < 4096 → k < 4096 → key i = key k → i = k) →
    (∀ i, i < 4096 → i < bytes.length → s'.rdByte (key i) = bytes.getD i 0)
      ∧ ∀ q, (∀ i, i < 4096 → q ≠ key i) → s'.rdByte q = s.rdByte q)
  ∧ (b.ent.isMx = true →
    let line (k : Nat) : Nat := s.pageKey b.pages (va + k / 8 * 256)
    (∀ k, k < 128 → line k % 256 = 0) → (∀ k l, k < 128 → l < 128 → line k = line l → k / 8 = l / 8) →
    (∀ k, k < 128 → (∀ i, i < 32 → 32 * k + i < bytes.length → s'.rdByte (line k + k % 8 * 32 + i) = bytes.getD (32 * k + i) 0)
      ∧ s'.rdSide (line k) (k % 8) = bytes.getD (4096 + k) 0)
      ∧ ∀ q, (∀ k, k < 128 → q / 256 ≠ line k / 256) → s'.rdByte q = s.rdByte q)

end Sys2Proof.Claims

/-- A chunk whose blocks have exited is read into its send slot; it is handed to its owner at once, or, when blocks of a
deterministic launch select it, with the cluster's retirement (14 R338; 17 R379): into the module's own receive slot, as a
contribution to the owner when READY of it has come, and otherwise it waits for that. Which sectors PMAP names, and that SPOIS is
not set where the chunk is fired, are the model's choice (log entry 41). -/
def Sys2Proof.Claims.ChunksFire : Prop :=
  ∀ (s : State) (r : BindRef) (c : Nat) (b : Binding) (la : Launch), s.binding? r = some b → s.launch? r.launch = some la →
    (b.live = false ∨ b.ent.nchunk ≤ c ∨ sget 0 b.fire c ≠ 0 ∨ c ∈ b.fired → exec (.chunkFire r c) s = .next s)
    ∧ (let own := b.rankOf s.member
      let P := b.peerCount
      let image := s.chunkImage b c
      let pmap := s.chunkPoison b c
      let rx := b.rxbase + c / P * P + own
      b.live = true → c < b.ent.nchunk → sget 0 b.fire c = 0 → c ∉ b.fired → (∀ p ∈ b.pmaps, ¬ (p.1 = c ∧ p.2.1 = own)) →
      rx ≠ b.txbase + c →
      ∃ s' b', exec (.chunkFire r c) s = .next s' ∧ OnlyBinding s s' r b' ∧ b'.fired = b.fired ++ [c]
        ∧ b'.poison = (b.poison || pmap ≠ 0)
        ∧ (∀ i, i < image.length → sget 0 s'.staging ((b.txbase + c) * 4224 + i) = image.getD i 0)
        ∧ (la.det = true → State.selecting la.lrec.blocks b.ent.ms c ≠ 0 → b'.handed = b.handed ∧ s'.outbox = s.outbox)
        ∧ ((la.det = false ∨ State.selecting la.lrec.blocks b.ent.ms c = 0) →
          b'.handed = b.handed ++ [c]
          ∧ (c % P = own → s'.outbox = s.outbox ∧ sget 0 b'.arrive c = sget 0 b.arrive c - 1
            ∧ ∀ i, i < image.length → sget 0 s'.staging (rx * 4224 + i) = image.getD i 0)
          ∧ (∀ p, c % P ≠ own → b.ready.find? (fun p => p.rank = c % P) = some p →
            ∃ m, s'.outbox = s.outbox ++ [m] ∧ m.member = b.peers.getD (c % P) 0 ∧ m.kind = 0 ∧ m.bytes = image
              ∧ m.slot = p.rx.toNat + (c / P * P + own) * 4224 ∧ m.note.chunk = c ∧ m.note.rank = own ∧ m.note.pmap = pmap
              ∧ m.note.spois = false)
          ∧ (c % P ≠ own → b.ready.find? (fun p => p.rank = c % P) = none → s'.outbox = s.outbox ∧ c ∈ b'.sendWait)))

/-- A ready notify of a reserved binding's EPOCH whose fields agree marks its sender READY and lets the chunks that waited for
it, and the results, go; one that disagrees ends the binding with FAULT; one for a binding that is about to be reserved is
held, whatever its fields, until that binding takes it up (17 R379, R382, R389). A contribution notify counts down ARRIVE of
its chunk at the owner with its poison (R378, R382, R384). That a past EPOCH is dropped, and a chunk of another owner ends the
binding, is log entry 43. -/
def Sys2Proof.Claims.NotifiesArrive : Prop :=
  ∀ (s : State) (n : Notify),
    (s.reservedFor n.cid = none →
      let soon := n.epoch = sget 0 s.epochs n.cid % 256 ∨ n.epoch = (sget 0 s.epochs n.cid + 1) % 256
      (soon → exec (.readyNotify n) s = .next { s with heldNotes := s.heldNotes ++ [n] })
      ∧ (¬ soon → exec (.readyNotify n) s = .next s)
      ∧ exec (.contributionNotify n) s = .next s ∧ exec (.resultNotify n) s = .next s)
    ∧ (∀ (r : BindRef) (b : Binding), s.reservedFor n.cid = some r → s.binding? r = some b → b.live = true →
      let P := b.peerCount
      (n.epoch = b.epoch % 256 →
        (s.noteFits b n = true → State.readyFits b n = true →
          ∃ s' b', exec (.readyNotify n) s = .next s' ∧ OnlyBinding s s' r b' ∧ ⟨n.rank, n.rxbase, n.txbase⟩ ∈ b'.ready
            ∧ (∀ p ∈ b'.ready, p.rank = n.rank → p = ⟨n.rank, n.rxbase, n.txbase⟩) ∧ b'.fault = b.fault
            ∧ (∀ c, c ∈ b'.sendWait ↔ c ∈ b.sendWait ∧ c % P ≠ n.rank)
            ∧ b'.resWait = b.resWait.filter (fun x => x.rank ≠ n.rank)
            ∧ ∀ x ∈ b.resWait, x.rank = n.rank →
              ⟨b.peers.getD n.rank 0, 1, x.note, n.txbase.toNat + x.note.chunk * 4224, x.bytes⟩ ∈ s'.outbox)
        ∧ (s.noteFits b n = false ∨ State.readyFits b n = false →
          ∃ s', exec (.readyNotify n) s = .next s' ∧ OnlyBinding s s' r { b with fault := true, dispatched := [] })
        ∧ (s.noteFits b n = true → n.chunk % P = b.rankOf s.member →
          ∃ s' b', exec (.contributionNotify n) s = .next s' ∧ OnlyBinding s s' r b'
            ∧ sget 0 b'.arrive n.chunk = sget 0 b.arrive n.chunk - 1 ∧ (n.chunk, n.rank, n.pmap, n.spois) ∈ b'.pmaps
            ∧ b'.poison = (b.poison || n.pmap ≠ 0 || n.spois)
            ∧ b' = { b with arrive := b'.arrive, pmaps := b'.pmaps, poison := b'.poison })
        ∧ (s.noteFits b n = false ∨ n.chunk % P ≠ b.rankOf s.member →
          ∃ s', exec (.contributionNotify n) s = .next s' ∧ OnlyBinding s s' r { b with fault := true, dispatched := [] }))
      ∧ (n.epoch = (b.epoch + 1) % 256 →
        exec (.readyNotify n) s = .next { s with heldNotes := s.heldNotes ++ [n] })
      ∧ (n.epoch ≠ b.epoch % 256 → State.pastEpoch b.epoch n.epoch = true →
        exec (.contributionNotify n) s = .next s ∧ exec (.resultNotify n) s = .next s))

/-- A reduce block that has every contribution is dispatched to the lowest core and quadrant with room, a choice of the model
(17 R383; log entry 42), and folds the contributions in ascending rank order: its result is written, counted, and sent to the
send slot of every other peer whose ready notify has come, or waits for that (R382, R384 to R387). A result notify of the
chunk's owner writes and counts the chunk likewise (R385 to R387); from another rank it ends the binding (R389). That a result
from another rank ends it is log entry 43. -/
def Sys2Proof.Claims.ChunksAreReduced : Prop :=
  ∀ (s : State) (r : BindRef) (c : Nat) (b : Binding) (la : Launch), s.binding? r = some b → s.launch? r.launch = some la →
    let others := (List.range b.peers.length).filter (fun k => k ≠ b.rankOf s.member)
    let counts (b' : Binding) (bytes : List Byte) (s' : State) (amax sticky : Word) (bins : List Nat) : Prop :=
      s'.binding? r = some b' ∧ (∀ q, q ≠ r → s'.binding? q = s.binding? q) ∧ ChunkWritten s s' b c bytes
        ∧ b'.results = b.results - 1 ∧ b'.written = b.written ++ [c] ∧ b'.sticky = b.sticky ||| sticky
        ∧ b'.amax = State.mergeAmax b.amax amax
        ∧ ∀ k, k < 64 → b'.hist.getD k 0 = (b.hist.getD k 0 + bins.getD k 0) % 2 ^ 32
    (∀ seat, (r, c) ∈ s.dueReduces (r.launch, la) → s.reduceSeat = some seat →
      (∃ s', exec (.reduceDispatch r c) s = .next s' ∧ OnlyBinding s s' r { b with dispatched := b.dispatched ++ [(c, seat)] })
      ∧ ((s.coreUse (fun _ => false) (seat / 4)).add (reduceUse (seat % 4))).ok = true
      ∧ ∀ k, k < seat → ((s.coreUse (fun _ => false) (k / 4)).add (reduceUse (k % 4))).ok = false)
    ∧ ((r, c) ∉ s.dueReduces (r.launch, la) ∨ s.reduceSeat = none → exec (.reduceDispatch r c) s = .next s)
    ∧ (b.live = true → (∃ d ∈ b.dispatched, d.1 = c) →
      let x := s.reduceChunk la b c
      ∃ s' b', exec (.reduceResult r c) s = .next s' ∧ counts b' x.bytes s' x.amax x.sticky x.bins
        ∧ b'.reduced = b.reduced ++ [c] ∧ b'.dispatched = b.dispatched.filter (fun d => d.1 ≠ c)
        ∧ b'.poison = (b.poison || (s.contributions b c).any (fun q => q.2.1 ≠ 0 || q.2.2))
        ∧ (let note : Notify := { s.plainNote b c with amax := x.amax, sticky := x.sticky, bins := x.bins }
          let base (k : Nat) := b.ready.find? (fun p => p.rank = k)
          s'.outbox = s.outbox ++ others.filterMap (fun k => (base k).map (fun p =>
              ⟨b.peers.getD k 0, 1, note, p.tx.toNat + c * 4224, x.bytes⟩))
          ∧ b'.resWait = b.resWait ++ (others.filter (fun k => (base k).isNone)).map (fun k => ⟨k, note, x.bytes⟩)))
    ∧ (b.ent.wire = 4 → let cs := s.contributions b c
      ∀ j, j < 1024 → ∀ i, i < 4 → (s.reduceChunk la b c).bytes.getD (4 * j + i) 0
        = (bytesOf 4 (match cs.map (fun k => State.slotElem b.ent k.1 k.2.1 k.2.2 j) with
          | [] => 0
          | y :: ys => ys.foldl (if b.ent.op = 0 then addF .fp32 Rnd.rne else maxF .fp32) y)).getD i 0)
    ∧ (∀ n : Notify, s.reservedFor n.cid = some r → b.live = true → n.chunk = c → n.epoch = b.epoch % 256 →
      (s.noteFits b n = true → c % b.peerCount = n.rank →
        ∃ s' b', exec (.resultNotify n) s = .next s'
          ∧ counts b' (s.readSlot (b.txbase + c) b.ent.used) s' n.amax n.sticky n.bins)
      ∧ (s.noteFits b n = false ∨ c % b.peerCount ≠ n.rank →
        ∃ s', exec (.resultNotify n) s = .next s' ∧ OnlyBinding s s' r { b with fault := true, dispatched := [] }))

/-- A binding is complete when every result has been written, and those that wait for a ready notify have been sent (the
model's reading, log entry 43), or it has ended, and then counts as a completed binding of its CID (17 R382, R388, R389); a
failed write over the fabric ends it with FAULT (R389). -/
def Sys2Proof.Claims.BindingsComplete : Prop :=
  ∀ (s : State) (r : BindRef) (b : Binding), s.binding? r = some b →
    (b.reserved = true → b.complete = false → (b.results = 0 ∧ b.resWait = []) ∨ b.fault = true →
      ∃ s', exec (.bindingComplete r) s = .next s' ∧ OnlyBinding s s' r { b with complete := true, dispatched := [] }
        ∧ sget 0 s'.epochs b.ent.cid = sget 0 s.epochs b.ent.cid + 1
        ∧ ∀ c, c ≠ b.ent.cid → sget 0 s'.epochs c = sget 0 s.epochs c)
    ∧ (b.reserved = false ∨ b.complete = true ∨ ((b.results ≠ 0 ∨ b.resWait ≠ []) ∧ b.fault = false) → exec (.bindingComplete r) s = .next s)
    ∧ (b.live = true →
      ∃ s', exec (.fabricWriteFailure r) s = .next s' ∧ OnlyBinding s s' r { b with fault := true, dispatched := [] })
    ∧ (b.live = false → exec (.fabricWriteFailure r) s = .next s)

/-! ## Recording and replay (18 R411, R412) -/

/-- A recorded launch that has retired its interval takes a checkpoint when its copies and entries have drained: its troupes
stop and go on in place, its stores are written through, and the checkpoint holds the launch, its clusters and memory as
they stand then (18 R407, R411; log entry 44); that save is a move in the log of the checkpoint before it, and a replay makes it
again. A full log buffer holds the launch until the host supplies space (R411; the 16 bytes of a log entry are log entry 44). A
replay restores a checkpoint, and what comes next are the moves logged since, those after later checkpoints too (R412). -/
def Sys2Proof.Claims.RecordingAndReplay : Prop :=
  ∀ (s : State) (id : Nat) (la : Launch), s.launch? id = some la →
    (∀ r, la.record = some r →
      let n := s.retiredBy id la
      (s.replay = none →
          r.full = true ∨ n < r.since + r.interval ∨ (∃ e ∈ s.clustersOf id, s.drained e.1 e.2 = false) →
        exec (.recordCheckpoint id) s = .next s)
      ∧ (∀ p, s.replay = some p → p.launch ≠ id → exec (.recordCheckpoint id) s = .next s)
      ∧ (∀ p, s.replay = some p → p.launch = id →
        ∃ s', exec (.recordCheckpoint id) s = .next s' ∧ s'.checkpoints = s.checkpoints ∧ s'.launches = s.launches
          ∧ s'.replay = s.replay ∧ (∀ a, KeptByte s s' a) ∧ s'.clusters.length = s.clusters.length)
      ∧ (r.full = false → r.since + r.interval ≤ n → s.replay = none → (∀ e ∈ s.clustersOf id, s.drained e.1 e.2 = true) →
        ∃ s' k la' ks, exec (.recordCheckpoint id) s = .next s' ∧ s'.checkpoints = ks ++ [k]
          ∧ ((∀ d ∈ s.checkpoints, d.launch ≠ id) → ks = s.checkpoints)
          ∧ (∀ pre c post, s.checkpoints = pre ++ c :: post → c.launch = id → (∀ d ∈ post, d.launch ≠ id) →
            ∃ c' m, ks = pre ++ c' :: post ∧ c' = { c with moves := c.moves ++ [m], touched := c'.touched }
              ∧ m.act = .ev (.recordCheckpoint id) ∧ m.found = s.setting)
          ∧ s'.launch? id = some la' ∧ la' = { la with record := some { r with since := n } }
          ∧ k = ⟨id, la', s'.clustersOf id, s'.mem, s'.side, s'.poison, s'.sidePoison, s'.frames, s'.claims, s'.staging,
              s'.debugged la.ctx, s'.clk, s'.seq, s'.free, [], []⟩
          ∧ (∀ a, KeptByte s s' a) ∧ s'.clusters.length = s.clusters.length
          ∧ ∀ e ∈ s'.slots, e ∈ s.slots ∧ ∀ cl, s.cluster? e.2.cluster = some cl → cl.launch ≠ id)
      ∧ (r.full = true ∨ r.used + 16 ≤ r.size → exec (.logBufferFull id) s = .next s)
      ∧ (r.full = false → r.size < r.used + 16 →
        ∃ s' la', exec (.logBufferFull id) s = .next s' ∧ s'.launch? id = some la'
          ∧ la' = { la with record := some { r with full := true } } ∧ s'.mayRun id la' = false
          ∧ ∀ a, s'.rdByte a = s.rdByte a))
    ∧ (la.record = none → exec (.recordCheckpoint id) s = .next s ∧ exec (.logBufferFull id) s = .next s)
    ∧ (∀ (k : Nat) (c : Checkpoint) (upTo : Option (TRef × Nat)),
      let mine := s.checkpoints.filter (fun x => x.launch = id)
      let moves := (mine.drop k).flatMap (·.moves)
      let touched := (mine.drop k).foldl (fun t d => d.touched.foldl (fun t e => sset false t e.1 e.2) t) []
      mine[k]? = some c → s.replay = none →
      ∃ s', exec (.replay id k upTo) s = .next s' ∧ s'.slots = []
        ∧ s'.clusters = s.clusters.filter (fun e => e.2.launch ≠ id) ++ c.clusters
        ∧ s'.launch? id = some { c.la with record := la.record }
        ∧ (∀ (i : Nat) (a b : Claim), c.claims[i]? = some a → s.claims[i]? = some b →
          s'.claims[i]? = some (if id ∈ a.owners ∨ id ∈ b.owners then a else b))
        ∧ (moves = [] → s'.replay = none ∧ s'.clk = s.clk
          ∧ (∀ e ∈ touched, s'.rdByte e.1 = sget emptyByte c.mem e.1)
          ∧ ∀ a, (∀ e ∈ touched, e.1 ≠ a) → KeptByte s s' a)
        ∧ (moves ≠ [] → s'.mem = c.mem ∧ s'.side = c.side ∧ s'.poison = c.poison ∧ s'.sidePoison = c.sidePoison
          ∧ s'.frames = c.frames ∧ s'.staging = c.staging ∧ s'.clk = c.clk ∧ s'.seq = c.seq ∧ s'.free = c.free
          ∧ (∃ p, s'.replay = some p ∧ p.launch = id ∧ p.todo = moves ∧ p.upTo = upTo ∧ p.touched = touched
            ∧ p.found = s.setting ∧ ∀ a, sget emptyByte p.mem a = s.rdByte a
              ∨ ∃ e ∈ s.l1, State.l1Phys e.1 = a ∧ e.2 = .dirty (sget emptyByte p.mem a))
          ∧ ∀ j x, j ≠ id → s.launch? j = some x → s'.mayRun j x = false))

/-- Each move of a recorded launch is added to its last checkpoint with the counts that it found and the bytes that it changed,
and an entry to its log buffer, which names the troupe and its retired count; what a full buffer has no room for waits (18 R411;
that the log is one of moves is log entry 44). In a replay a step makes the next logged move with those counts; what
lies outside the launch's module memory is not written again, and after the last move the launch's bytes stand as the replay
left them and every other byte as before it (R412). -/
def Sys2Proof.Claims.MovesAreLoggedAndReplayed : Prop :=
  (∀ (s t : State) (a : Act) (pre post : List Checkpoint) (c : Checkpoint), t.checkpoints = pre ++ c :: post →
    (∀ d ∈ post, d.launch ≠ c.launch) → s.replay = none →
    (s.moveOf c.launch a = false → ((s.logMove a t).checkpoints)[pre.length]? = some c)
    ∧ (s.moveOf c.launch a = true →
      ∃ (c' : Checkpoint) (wrote : List Nat), ((s.logMove a t).checkpoints)[pre.length]? = some c'
        ∧ c' = { c with moves := c.moves ++ [⟨a, s.setting, wrote⟩], touched := c'.touched }
        ∧ (∀ k, k ∈ wrote ↔ s.rdByte k ≠ t.rdByte k)
        ∧ ∀ k, sget false c'.touched k = true ↔ sget false c.touched k = true ∨ s.rdByte k ≠ t.rdByte k))
  ∧ (∀ (s t : State) (a : Act) (c : Checkpoint) (la : Launch) (r : Recording), t.checkpoints = [c] → s.replay = none →
    s.moveOf c.launch a = true → t.launch? c.launch = some la → la.record = some r →
    (r.used + 16 ≤ r.size →
      (∀ i, i < 16 → (s.logMove a t).rdByte (hostBase + r.addr + r.used + i) = (s.logEntry a).getD i 0)
      ∧ (∀ k, k < hostBase + r.addr + r.used ∨ hostBase + r.addr + r.used + 16 ≤ k → (s.logMove a t).rdByte k = t.rdByte k)
      ∧ (s.logMove a t).launch? c.launch = some { la with record := some { r with used := r.used + 16 } })
    ∧ (r.size < r.used + 16 → (∀ k, (s.logMove a t).rdByte k = t.rdByte k)
      ∧ (s.logMove a t).launch? c.launch = some { la with record := some { r with unsent := r.unsent ++ s.logEntry a } }))
  ∧ (∀ (s : State) (core q : Nat) (r : TRef) (t : Troupe), s.issuerAt core q = some r → s.troupe? r = some t →
    s.logEntry (.word core q) = bytesOf 8 (r.cluster * 2 ^ 16 + r.block * 2 ^ 8 + r.troupe) ++ bytesOf 8 t.retiredInsns)
  ∧ (∀ (s : State) (p : Replay) (m : LogMove) (ms : List LogMove), s.replay = some p → p.todo = m :: ms →
    step s = afterMove s m.act (makeMove m.act (s.withSetting m.found))
    ∧ ∀ t : State, let t' := s.afterReplay t
      (∀ k, 2 ^ 52 ≤ k → p.upTo = none → ms ≠ [] → t'.rdByte k = s.rdByte k)
      ∧ t'.link = s.link ∧ t'.outbox = s.outbox ∧ t'.responses = s.responses ∧ t'.devSeq = s.devSeq
      ∧ (p.upTo = none → ms ≠ [] → t'.replay = some { p with todo := ms } ∧ ∀ k, k < 2 ^ 52 → t'.rdByte k = t.rdByte k)
      ∧ (ms = [] → t'.replay = none ∧ ∀ k, t'.rdByte k = if (∃ e ∈ p.touched, e.1 = k)
          then (if k < 2 ^ 52 then t.rdByte k else s.rdByte k) else sget emptyByte p.mem k))

/-! ## Host commands (22 R430 to R434, R437 to R447; 18 R396, R403, R406, R411) -/

namespace Sys2Proof.Claims

/-- The host command that an event carries, the length that its kind asks for, and whether the kind requires its context
(22 R434; log entry 35 for the lengths, 80 for that of an image segment). -/
def commandOf : Instr → Option (Cmd × Nat × Bool)
  | .ctxCreate h _ _ => some (h, 1, false)
  | .ctxDestroy h => some (h, 0, true)
  | .bindQueue h _ => some (h, 1, true)
  | .invalidate h => some (h, 0, true)
  | .pagerResolved h _ => some (h, 1, false)
  | .pagerDeliver h _ => some (h, 1, false)
  | .pagerAbort h _ => some (h, 1, false)
  | .preempt h _ => some (h, 1, false)
  | .debugAttach h => some (h, 1, true)
  | .debugDetach h => some (h, 1, true)
  | .recordCmd h _ _ _ => some (h, 1, true)
  | .readState h _ => some (h, 1, false)
  | .objectLoad h p => some (h, 1 + (p.data.length + 63) / 64, true)
  | .attest h _ => some (h, 1, false)
  | .resend h _ => some (h, 1, false)
  | .fwUpdate h svn image _ _ => some (h, (image.length + (if svn.isSome then 2768 else 0) + 63) / 64, false)
  | .reservedCommand h => some (h, h.len, false)
  | _ => none

/-- The link takes a command next: it is in sequence, its header is well formed, and no LAUNCH is held before it (R430,
R431). -/
def Taken (s : State) (h : Cmd) : Prop := h.seq = s.ack + 1 ∧ h.ctx < 256 ∧ h.len ≤ 64 ∧ s.heldLaunch = none

/-- The link does not take the command: one that comes next in sequence behind a held LAUNCH, and behind those that wait there
already, waits, and any other is dropped (R431). -/
def TurnedAway (ev : Instr) (s : State) (h : Cmd) : Prop :=
  let n := (if s.heldLaunch.isSome then 1 else 0) + s.waiting.length
  let behind := n ≠ 0 ∧ h.seq = s.ack + 1 + BitVec.ofNat 32 n ∧ h.ctx < 256 ∧ h.len ≤ 64
  (behind → exec ev s = .next { s with waiting := s.waiting ++ [(h.seq, ev)] }) ∧ (¬ behind → exec ev s = .next s)

/-- The state in which the command has been accepted (R431; the context keeps its SEQ, R437). -/
def acked (s : State) (h : Cmd) : State :=
  { s with
    ack := h.seq, waiting := s.waiting.filter (fun w => w.1 ≠ h.seq)
    ctxs := s.ctxs.map (fun c => if c.num = h.ctx then { c with last := h.seq } else c) }

/-- A response goes over the link, numbered next, with its payload in whole units of 64 bytes filled with zeros, and the last
1,024 are kept (R430, R432); nothing else changes. -/
def Sends (s s' : State) (kind ctx : Nat) (payload : List Byte) : Prop :=
  let len := (payload.length + 63) / 64
  let r : Resp := ⟨s.devSeq, s.ack, kind, ctx, len, 0, payload ++ List.replicate (64 * len - payload.length) 0⟩
  s' = { s with link := s.link ++ [r], devSeq := s.devSeq + 1, responses := s'.responses }
    ∧ s'.responses = (s.responses ++ [r]).drop (s.responses.length + 1 - 1024)

/-- The event answers the state in which STATUS with a code has been sent for the command after `s1` (R434). -/
def Answered (ev : Instr) (s s1 : State) (h : Cmd) (code : Nat) : Prop :=
  ∃ s', exec ev s = .next s' ∧ Sends s1 s' 0x82 h.ctx (bytesOf 4 h.seq.toNat ++ bytesOf 4 code)

/-- The command of the event is taken, with the length that its kind asks for and the context that it requires. -/
def Good (ev : Instr) (s : State) (h : Cmd) : Prop :=
  Taken s h ∧ ∃ len needs, commandOf ev = some (h, len, needs) ∧ h.len = len ∧ (needs = true → (s.ctx? h.ctx).isSome = true)

/-- The work of a context has been discarded (R437): none of its clusters, launches, queued records or waiting commands is left,
and no store in the L1 of its cores; each launch has had one COMPLETION with status 7, and DISCARD follows with the SEQ of the
last command accepted for the context. -/
def Discards (s s' : State) (ctx : Nat) : Prop :=
  (∀ e ∈ s'.clusters, e ∈ s.clusters → s.ctxOfLaunch e.2.launch ≠ some ctx) ∧ (∀ e ∈ s'.launches, e.2.ctx ≠ ctx)
    ∧ (∀ q ∈ s'.lq.flatten, q.ctx ≠ ctx) ∧ (∀ x, s'.heldLaunch = some x → x.1.ctx ≠ ctx)
    ∧ (∀ w ∈ s'.waiting, ∀ h, hostCmd w.2 = some h → h.ctx ≠ ctx)
    ∧ (∀ c cl b k v, s.cluster? c = some cl → s.ctxOfLaunch cl.launch = some ctx → b ∈ cl.blocks → k < 2 ^ 64 →
      s'.l1Byte b.core k ≠ .dirty v)
    ∧ ∃ cs : List Resp, cs.length = (s.launches.filter (fun e => e.2.ctx = ctx)).length + (s.lq.flatten.filter (fun q => q.ctx = ctx)).length
      ∧ (∀ r ∈ cs, r.kind = 0x81 ∧ r.ctx = ctx ∧ r.payload.take 2 = [7, BitVec.ofNat 8 ctx])
      ∧ s'.link = s.link ++ cs
          ++ [⟨s.devSeq + BitVec.ofNat 32 cs.length, ((s.ctx? ctx).map Ctx.last).getD s.ack, 0x84, ctx, 0, 0, []⟩]

end Sys2Proof.Claims

/-- A command out of sequence or with a malformed header is dropped without effect, one that comes next behind a held LAUNCH
waits there, and ACK does not change; a reserved kind, another length than its kind's, or a missing context is accepted and
answered with STATUS 1, and has no other effect (22 R431, R434). The payload of STATUS is the model's choice (log entry 35).
Which kinds ask for a context is log entry 28. -/
def Sys2Proof.Claims.CommandsAreTakenInSequence : Prop :=
  (∀ (s : State) (ev : Instr) (h : Cmd) (len : Nat) (needs : Bool), commandOf ev = some (h, len, needs) →
    (¬ Taken s h → TurnedAway ev s h)
    ∧ (Taken s h → h.len ≠ len ∨ (needs = true ∧ s.ctx? h.ctx = none) → Answered ev s (acked s h) h 1))
  ∧ (∀ (s : State) (h : Cmd), (Taken s h → Answered (.reservedCommand h) s (acked s h) h 1)
    ∧ exec (.outOfSequenceCommand h) s = .next s)

/-- LAUNCH on a queue that is bound to its context enters its record at the queue's end with the next arrival number, and on
another queue it is answered with STATUS 1; with the queue full, or the coolant over its limit, it is held unaccepted until
that ends (14 R329; 22 R431, R433, R434, R449). That LAUNCH is held over the coolant limit as at a full queue is log entry 39.
-/
def Sys2Proof.Claims.LaunchCommands : Prop :=
  ∀ (s : State) (h : Cmd) (n : Nat) (record : List Byte),
    let ev := Instr.hostLaunch h n record
    let bound := h.len = 5 ∧ n < 12 ∧ (s.ctx? h.ctx).isSome = true ∧ s.bound[n]? = some (some h.ctx)
    let hold := s.overLimit = true ∨ (bound ∧ 256 ≤ (s.queue n).length)
    let r : QRec := ⟨record.take 256, s.arrivals, h.ctx, h.seq, none, decide (recBits record 94 94 = 1)⟩
    let entered (s : State) : State := { acked s h with
      lq := s.lq.set n (s.queue n ++ [r]), arrivals := if s.arrivals = 0xFFFFFFFE then 0 else s.arrivals + 1 }
    (¬ Taken s h → TurnedAway ev s h)
    ∧ (Taken s h → hold → exec ev s = .next { s with
        heldLaunch := some (h, n, record), waiting := s.waiting.filter (fun w => w.1 ≠ h.seq) })
    ∧ (Taken s h → ¬ hold → (bound → exec ev s = .next (entered s)) ∧ (¬ bound → Answered ev s (acked s h) h 1))
    ∧ (s.heldLaunch = some (h, n, record) →
      let free : State := { s with heldLaunch := none }
      (hold → exec .heldLaunchAccept s = .next s)
      ∧ (¬ hold → (bound → exec .heldLaunchAccept s = .next (entered free))
        ∧ (¬ bound → Answered .heldLaunchAccept s (acked free h) h 1)))
    ∧ (s.heldLaunch = none → exec .heldLaunchAccept s = .next s)

/-- CTX_CREATE makes a context, unless its number is in use; CTX_DESTROY removes it with its queues, translations and objects,
and is refused with code 2 while it has launches; BIND_QUEUE binds one of the queues 0 to 11; INVALIDATE begins an invalidation
(22 R434; 09 R213, R220; 14 R348). What becomes of records when a queue is bound anew is log entry 66, what CTX_DESTROY
releases log entry 27. -/
def Sys2Proof.Claims.ContextCommands : Prop :=
  ∀ (s : State) (h : Cmd),
    let a := acked s h
    (∀ l1 pager, Good (.ctxCreate h l1 pager) s h →
      (s.ctx? h.ctx = none → exec (.ctxCreate h l1 pager) s = .next { a with
        ctxs := a.ctxs ++ [⟨h.ctx, l1 / 2 ^ 16 % 2 ^ 36 * 2 ^ 16, pager, false, h.seq⟩] })
      ∧ ((s.ctx? h.ctx).isSome = true → Answered (.ctxCreate h l1 pager) s a h 1))
    ∧ (Good (.ctxDestroy h) s h →
      let busy := (∃ e ∈ s.launches, e.2.ctx = h.ctx) ∨ ∃ q ∈ s.lq.flatten, q.ctx = h.ctx
      (busy → Answered (.ctxDestroy h) s a h 2)
      ∧ (¬ busy → ∃ s', exec (.ctxDestroy h) s = .next s' ∧ s' = { a with
          ctxs := a.ctxs.filter (fun c => c.num ≠ h.ctx)
          bound := s.bound.map (fun b => if b = some h.ctx then none else b)
          tlb := s.tlb.filter (fun e => e.ctx ≠ h.ctx)
          objects := s.objects.filter (fun o => o.ctx ≠ h.ctx)
          frames := s'.frames }
        ∧ (∀ p, sget .unverified s'.frames p = sget .unverified s.frames p ∨ sget .unverified s'.frames p = .unverified)
        ∧ ((∀ o ∈ s.objects, o.ctx = h.ctx → o.loaded = true) → s'.frames = s.frames)))
    ∧ (∀ n, Good (.bindQueue h n) s h →
      (n < 12 → exec (.bindQueue h n) s = .next { a with bound := s.bound.set n (some h.ctx) })
      ∧ (12 ≤ n → Answered (.bindQueue h n) s a h 1))
    ∧ (Good (.invalidate h) s h → exec (.invalidate h) s = .next { a with invals := s.invals ++ [⟨h.ctx, h.seq⟩] })

/-- The pager's answer to a report wakes the troupe that is parked with it (18 R396): RESOLVED executes its word again for the
report's lanes; DELIVER enters its handler with PAGE_FAULT, or ends the troupe when it has none; ABORT discards its context's
work (22 R437). A report that no troupe is parked with has no effect. PREEMPT stops the resident clusters of the launch with an
arrival number, as a pre-emption does (18 R406). The ACK of DISCARD is log entry 27, that these commands ask for no context log
entry 28. -/
def Sys2Proof.Claims.PagerAnswersAndPreemption : Prop :=
  ∀ (s : State) (h : Cmd) (n : Word),
    let a := acked s h
    (a.parkedWith n = none →
      (Good (.pagerResolved h n) s h → exec (.pagerResolved h n) s = .next a)
      ∧ (Good (.pagerDeliver h n) s h → exec (.pagerDeliver h n) s = .next a)
      ∧ (Good (.pagerAbort h n) s h → exec (.pagerAbort h n) s = .next a))
    ∧ (∀ (r : TRef) (rep : Report) (l : Nat) (t : Troupe) (la : Launch), a.parkedWith n = some (r, rep, l) → s.troupe? r = some t →
      s.launch? l = some la →
      (Good (.pagerResolved h n) s h →
        exec (.pagerResolved h n) s = .next (a.setTroupe r { t with status := .ready, rm := some rep.lanes, waitw := 0 }))
      ∧ (Good (.pagerDeliver h n) s h →
        let pc := ((t.frontier.head?).map (·.pc)).getD 0
        let x : TrapX := ⟨0x08, BitVec.ofNat 64 (rep.level % 128 * 2 ^ 57 + rep.va.toNat % 2 ^ 57), rep.lanes, none⟩
        exec (.pagerDeliver h n) s = .next ((a.setTroupe r { t with status := .ready, waitw := 0 }).takeTrap r l pc x)
        ∧ ∀ hd, t.held = none → la.ended = false → handlerOf t la = some hd →
          ∃ s' q, exec (.pagerDeliver h n) s = .next s' ∧ s'.troupe? r = some q ∧ q.tcause = 0x08 ∧ q.tpc = pc ∧ q.tval = x.tval
            ∧ q.tmask = rep.lanes ∧ q.held.isSome = true ∧ q.status = .ready
            ∧ q.frontier = [⟨hd, 0, t.active &&& t.live, .handler, 0, 0, 0⟩])
      ∧ (Good (.pagerAbort h n) s h → (s.launches.map (·.1)).Nodup →
        ∃ s', exec (.pagerAbort h n) s = .next s' ∧ Discards a s' la.ctx))
    ∧ (Good (.preempt h n) s h →
      let named (e : Nat × Cluster) : Bool := s.launches.any (fun la => la.2.arrival = n && la.1 = e.2.launch)
      exec (.preempt h n) s = .next (((s.clusters.filter named).map (·.1)).foldl State.stopCluster a)
      ∧ ((s.clusters.map (·.1)).Nodup → (∀ q ∈ s.slots, ∀ e ∈ s.clusters, named e = true → q.2.cluster ≠ e.1) →
        ∃ s', exec (.preempt h n) s = .next s' ∧ (∀ k, s'.rdByte k = s.rdByte k) ∧ s'.slots = s.slots
          ∧ ∀ c cl, s.cluster? c = some cl →
            (named (c, cl) = true → cl.state = .resident → s'.cluster? c = some (stopped cl))
            ∧ (¬ (named (c, cl) = true ∧ cl.state = .resident) → s'.cluster? c = some cl)))

/-- DEBUG attaches or detaches a debugger (18 R403); RECORD starts the recording of the context's launches that are not
deterministic, the model's reading, and gives a log buffer anew to one whose log has no room (18 R411; log entry 44);
READ_STATE, ATTEST and RESEND answer over the link, with payloads that are the model's choice (15 R355, R357; 16 R375; 22 R432,
R446; log entry 35); the segments of FW_UPDATE make an image, which is installed when its signatures verify and its SVN is not
below the fuse counter, which then advances to it (22 R447; log entries 20, 80). That DETACH leaves a parked troupe parked is
log entry 23; RESEND and a refused image are log entry 28. -/
def Obligations.DebugRecordAndStateCommands : Prop :=
  ∀ (s : State) (h : Cmd),
    let a := acked s h
    let attached (on : Bool) : State := { a with ctxs := a.ctxs.map (fun c => if c.num = h.ctx then { c with debugger := on } else c) }
    (Good (.debugAttach h) s h → exec (.debugAttach h) s = .next (attached true))
    ∧ (Good (.debugDetach h) s h → exec (.debugDetach h) s = .next (attached false))
    ∧ (∀ interval addr size, Good (.recordCmd h interval addr size) s h →
      (s.launches.map (·.1)).Nodup →
      let started (id : Nat) (la : Launch) (used : Nat) : Launch := { la with record := match la.record with
        | some r => some { r with
            interval := interval, addr := addr, size := size, used := used, full := false, unsent := r.unsent.drop used }
        | none => some ⟨interval, addr, size, 0, s.retiredBy id la, 0, false, []⟩ }
      let room (la : Launch) : Nat := ((la.record.map (fun r => min r.unsent.length (size / 16 * 16))).getD 0)
      ∃ s', exec (.recordCmd h interval addr size) s = .next s'
        ∧ (∀ id la, s.launch? id = some la → s'.launch? id = some (if la.ctx = h.ctx ∧ la.det = false then started id la (room la) else la))
        ∧ (∀ id la r, s.launches.filter (fun e => e.2.ctx = h.ctx && !e.2.det) = [(id, la)] → la.record = some r →
          ∀ k, s'.rdByte k = if hostBase + addr ≤ k ∧ k < hostBase + addr + room la then r.unsent.getD (k - (hostBase + addr)) 0
            else s.rdByte k)
        ∧ ((∀ e ∈ s.launches, room e.2 = 0) → s' = { a with launches := s'.launches }))
    ∧ (let answer (sel : Selector) (bytes : List Byte) : Prop :=
        ∃ s', exec (.readState h sel) s = .next s' ∧ Sends a s' 0x82 h.ctx (bytesOf 4 h.seq.toNat ++ bytesOf 4 0 ++ bytes)
      (∀ k, Good (.readState h (.dependence k)) s h →
        (64 ≤ k → Answered (.readState h (.dependence k)) s a h 1)
        ∧ (k < 64 → (∀ e ∈ s.launches, e.2.entry ≠ k) → answer (.dependence k) (List.replicate 40 0))
        ∧ (∀ id la, k < 64 → s.launches.find? (fun e => e.2.entry = k) = some (id, la) →
          answer (.dependence k)
            (bytesOf 8 (1 + 2 * la.state + 8 * la.cls + 32 * (if la.det then 1 else 0) + 2 ^ 8 * la.ctx + 2 ^ 16 * la.arrival.toNat)
              ++ bytesOf 8 (la.waits.foldl (fun m j => m ||| 2 ^ j) 0) ++ State.shapeEntry la)))
      ∧ (∀ core, Good (.readState h (.counters core)) s h →
        (core < 96 → answer (.counters core)
          ((List.range 7).flatMap (fun i => bytesOf 8 (sget 0 s.coreCount (core * 32 + 16 + i)))))
        ∧ (96 ≤ core → Answered (.readState h (.counters core)) s a h 1))
      ∧ (∀ r, Good (.readState h (.troupeCounters r)) s h →
        (s.troupe? r = none → Answered (.readState h (.troupeCounters r)) s a h 1)
        ∧ ∀ t, s.troupe? r = some t → let c := t.counters
          answer (.troupeCounters r) (bytesOf 8 c.retired ++ if t.det then List.replicate 32 0
            else bytesOf 8 c.runs ++ bytesOf 8 c.hold ++ bytesOf 8 c.readyw ++ bytesOf 8 c.spills)))
    ∧ (∀ nonce, Good (.attest h nonce) s h →
      (nonce.length = 48 →
        let m := s.measure ++ nonce ++ bytesOf 4 s.fuse ++ bytesOf 4 s.member
        ∃ s', exec (.attest h nonce) s = .next s' ∧ Sends a s' 0x86 h.ctx (m ++ Config.ecdsaSign m ++ Config.lmsSign m))
      ∧ (nonce.length ≠ 48 → Answered (.attest h nonce) s a h 1))
    ∧ (∀ (n : Word) (k : Nat), Good (.resend h n) s h → n + BitVec.ofNat 32 k = s.devSeq → k < 2 ^ 32 →
      (0 < k → k ≤ s.responses.length → exec (.resend h n) s = .next { a with
        link := s.link ++ (s.responses.drop (s.responses.length - k)).map (fun r => { r with ack := h.seq }) })
      ∧ (k = 0 ∨ s.responses.length < k →
        ((∃ r ∈ s.link, r.seq = n) → ∃ s', exec (.resend h n) s = .next s' ∧ Sends a s' 0x87 0 [])
        ∧ ((∀ r ∈ s.link, r.seq ≠ n) → exec (.resend h n) s = .next a)))
    ∧ (∀ close segment sigE sigL, Good (.fwUpdate h close segment sigE sigL) s h →
      let ev := Instr.fwUpdate h close segment sigE sigL
      let image := s.fwParts ++ segment
      (close = none → sigE = [] → sigL = [] → exec ev s = .next { a with fwParts := image })
      ∧ (close = none → sigE ≠ [] ∨ sigL ≠ [] → Answered ev s a h 1)
      ∧ (∀ svn, close = some svn →
        let m := bytesOf 4 svn ++ image
        let ok := Config.ecdsaAccepts m sigE = true ∧ Config.lmsAccepts m sigL = true ∧ s.fuse ≤ svn
        let fits := svn < 2 ^ 32 ∧ sigE.length = 96 ∧ sigL.length = 2668
        (¬ fits → Answered ev s a h 1)
        ∧ (fits → ¬ ok → exec ev s = .next { a with fwParts := [] })
        ∧ (fits → ok → ∃ s', exec ev s = .next s'
          ∧ s' = { a with fwParts := [], fuse := svn, firmware := image, codeCache := s'.codeCache, frames := s'.frames }
          ∧ (∀ e, e ∈ s'.codeCache ↔ e ∈ s.codeCache ∧ svn ≤ e.svn)
          ∧ ∀ e ∈ s.codeCache, e.svn < svn → ∀ k ∈ e.frames, sget .unverified s'.frames k = .unverified)))

/-- OBJECT_LOAD takes the parts of an object's segments in order (22 R439, R440): a part out of order is answered with STATUS
1; a part of the header adds to it; the header is refused with code 16 when a signature fails and 17 when its SVN is below the
fuse counter, and with code 1 when it is malformed though signed (R439, R441, R443), both signatures being opaque (log entry
20); a segment whose digest does not match the one carried before it discards the context's work, however short it is (R437,
R439); and one that matches joins the verified image, unless it is too short to carry the next digest (R439; log entry 45), or
a record in it is malformed (log entry 76). SHA-384 is log entry 36, the refusals with code 1 log entry 45. -/
def Obligations.ObjectsAreLoaded : Prop :=
  ∀ (s : State) (h : Cmd) (p : ObjectPart), Good (.objectLoad h p) s h →
    let a := acked s h
    let ev := Instr.objectLoad h p
    let named (o : Obj) : Bool := o.handle = p.handle && o.ctx = h.ctx
    (p.reservedOk = false ∨ 4032 < p.data.length → Answered ev s a h 1)
    ∧ (p.reservedOk = true → p.data.length ≤ 4032 →
      (s.objects.find? named = none →
        (p.seg ≠ 0 ∨ p.off ≠ 0 ∨ p.codeva % 2 ^ 18 ≠ 0 ∨ 2 ^ 57 ≤ p.codeva → Answered ev s a h 1)
        ∧ (p.seg = 0 → p.off = 0 → p.codeva % 2 ^ 18 = 0 → p.codeva < 2 ^ 57 → p.data.length < 3072 → p.last = false →
          exec ev s = .next { a with objects := s.objects ++ [
            { handle := p.handle, ctx := h.ctx, codeva := p.codeva, seg := 0, buf := p.data, digest := [], header := []
              image := [], segEnds := [], done := [], cached := false, loaded := false }] }))
      ∧ (∀ o, s.objects.find? named = some o → (∀ q ∈ s.objects, named q = true → q = o) →
        (o.loaded = true ∨ p.seg ≠ o.seg ∨ p.off ≠ o.buf.length ∨ p.codeva ≠ 0 → Answered ev s a h 1)
        ∧ (o.loaded = false → p.seg = o.seg → p.off = o.buf.length → p.codeva = 0 →
          let buf := o.buf ++ p.data
          let whole := { o with buf := buf, header := buf.take 3072 }
          let m := whole.header.take 256
          let E := (whole.header.drop 256).take 96
          let L := (whole.header.drop 352).take 2668
          let gone := s.objects.filter (fun q => !named q)
          let refused (code : Nat) : Prop := ∃ s1 s', exec ev s = .next s' ∧ Sends s1 s' 0x82 h.ctx (bytesOf 4 h.seq.toNat ++ bytesOf 4 code)
            ∧ s1.objects = gone ∧ s1.link = s.link ∧ (∀ k, s1.rdByte k = s.rdByte k)
            ∧ (code ≠ 1 → ∀ e ∈ s1.codeCache, e.key ≠ Sha.sha384 m)
          (p.last = false → (o.seg ≠ 0 ∨ o.header ≠ [] ∨ buf.length < 3072) →
            exec ev s = .next { a with objects := s.objects.map (fun q => if named q then { o with buf := buf } else q) })
          ∧ (o.seg = 0 → o.header = [] → 3072 ≤ buf.length →
            (¬ (Config.ecdsaAccepts m E = true ∧ Config.lmsAccepts m L = true) → refused 16)
            ∧ (Config.ecdsaAccepts m E = true → Config.lmsAccepts m L = true → whole.svn < s.fuse → refused 17)
            ∧ (Config.ecdsaAccepts m E = true → Config.lmsAccepts m L = true → s.fuse ≤ whole.svn → whole.headerOk = false → refused 1)
            ∧ (Config.ecdsaAccepts m E = true → Config.lmsAccepts m L = true → s.fuse ≤ whole.svn → whole.headerOk = true →
              p.last = false →
              exec ev s = .next { a with objects := s.objects.map (fun q => if named q then
                { whole with digest := (whole.header.drop 16).take 48, cached := decide (∃ e ∈ s.codeCache, e.key = Sha.sha384 m) }
                else q) }))
          ∧ (o.seg ≠ 0 → p.last = true → o.header ≠ [] →
            let final := o.nseg ≤ o.seg + 1
            (Sha.sha384 buf ≠ o.digest → (s.launches.map (·.1)).Nodup →
              ∃ s', exec ev s = .next s' ∧ Discards { a with objects := gone } s' h.ctx ∧ s'.objects = gone)
            ∧ (Sha.sha384 buf = o.digest → ¬ final → buf.length < 48 → refused 1)
            ∧ (Sha.sha384 buf = o.digest → final ∨ 48 ≤ buf.length → o.cached = true →
              let keep := if final then buf else buf.take (buf.length - 48)
              let next := { o with
                seg := o.seg + 1, buf := [], digest := if final then [] else buf.drop (buf.length - 48)
                image := o.image ++ keep, segEnds := o.segEnds ++ [o.image.length + keep.length], loaded := decide final }
              next.funcs ≠ [] → (∀ f ∈ next.funcs, f.ok = true) →
              exec ev s = .next { a with objects := s.objects.map (fun q => if named q then next else q) })))))

/-! ## The module and its surroundings (22 R445, R448, R449; 09 R201, R202, R212; 10 R223; 12 R270; 17 R380; 18 R403) -/

/-- Module reset starts the numbering of commands and responses, the arrival numbers and the clock anew and leaves no launch,
cluster, copy or context; the measurement is extended by each firmware stage from zero, an image that FW_UPDATE has installed
after the others (22 R430, R445; 14 R329; its place is log entry 80); the fuse counter, the firmware and the memories outside
the module stay (22 R447). What local memory holds afterwards is the model's choice (log entry 2). SHA-384 is log entry 36. -/
def Sys2Proof.Claims.ModuleResets : Prop :=
  ∀ (s : State) (member : Nat) (stages : List (List Byte)) (bad : List (Nat × Nat)),
    ∃ s', exec (.moduleReset member stages bad) s = .next s' ∧ s'.clk = 0 ∧ s'.member = member ∧ s'.ack = 0xFFFFFFFF
      ∧ s'.arrivals = 0 ∧ s'.launches = [] ∧ s'.clusters = [] ∧ s'.copies = [] ∧ s'.ctxs = [] ∧ s'.slots = []
      ∧ (∀ n, s'.queue n = []) ∧ s'.clockMhz = 1600 ∧ s'.fuse = s.fuse ∧ s'.firmware = s.firmware
      ∧ s'.measure = (stages ++ if s.firmware = [] then [] else [s.firmware]).foldl (fun m x => Sha.sha384 (m ++ Sha.sha384 x)) (List.replicate 48 0)
      ∧ s'.link.map Resp.kind = bad.map (fun _ => 0x85) ∧ s'.devSeq = BitVec.ofNat 32 bad.length
      ∧ (∀ k, s'.rdByte k = if 2 ^ 52 ≤ k then s.rdByte k else emptyByte)
      ∧ (∀ k, s'.poisoned k = false) ∧ ∀ p, sget FrameState.unverified s'.frames p = .unverified

/-- Degraded operation changes no result (22 R448): the clock steps down and up and a fenced channel is reported by EVENT, and
nothing else changes (09 R202); over the coolant limit the resident clusters are stopped, as by a pre-emption, and LAUNCH
commands are held until the inlet is within its limits again (R449; 18 R406). The payload of EVENT is the model's choice (log
entry 35). That nothing is placed over the limit is log entry 39. -/
def Sys2Proof.Claims.DegradedOperation : Prop :=
  ∀ s : State,
    (∀ mhz, (mhz = 1200 ∨ mhz = 800) ∧ mhz < s.clockMhz →
      ∃ s', exec (.clockStepDown mhz) s = .next s' ∧ Sends { s with clockMhz := mhz } s' 0x85 0 (bytesOf 4 1 ++ bytesOf 4 mhz))
    ∧ (∀ mhz, ¬ ((mhz = 1200 ∨ mhz = 800) ∧ mhz < s.clockMhz) → exec (.clockStepDown mhz) s = .next s)
    ∧ (s.clockMhz < 1600 → s.overLimit = false →
      ∃ s', exec .clockStepUp s = .next s' ∧ Sends { s with clockMhz := 1600 } s' 0x85 0 (bytesOf 4 1 ++ bytesOf 4 1600))
    ∧ (1600 ≤ s.clockMhz ∨ s.overLimit = true → exec .clockStepUp s = .next s)
    ∧ (∀ n, n ∉ s.channels →
      ∃ s', exec (.hbmChannelFence n) s = .next s'
        ∧ Sends { s with channels := s.channels ++ [n] } s' 0x85 0 (bytesOf 4 2 ++ bytesOf 4 n))
    ∧ (∀ n, n ∈ s.channels → exec (.hbmChannelFence n) s = .next s)
    ∧ exec .coolantOverLimit s = .next { (s.clusters.map (·.1)).foldl State.stopCluster s with overLimit := true }
    ∧ ((s.clusters.map (·.1)).Nodup → s.slots = [] →
      ∃ s', exec .coolantOverLimit s = .next s' ∧ s'.overLimit = true ∧ (∀ k, s'.rdByte k = s.rdByte k) ∧ s'.slots = []
        ∧ ∀ c cl, s.cluster? c = some cl → s'.cluster? c = some (if cl.state = .resident then stopped cl else cl))
    ∧ exec .inletWithinLimits s = .next { s with overLimit := false }

namespace Sys2Proof.Claims

/-- The channel of a physical address is fenced, which EVENT reports unless it was before (22 R448); which channel that is the
manual does not say (log entry 81). -/
def Fenced (s1 s' : State) (pa : Nat) : Prop :=
  let n := Config.hbmChannel (pa % 2 ^ 52 / 2 ^ 10)
  (n ∈ s1.channels → s' = s1)
    ∧ (n ∉ s1.channels → Sends { s1 with channels := s1.channels ++ [n] } s' 0x85 0 (bytesOf 4 2 ++ bytesOf 4 n))

/-- The event answers the state that an error in a line leaves, in which `p` holds of the state before and after it: where the
line lies in no page table that is all, and the work of a context whose tables it strikes is discarded (22 R437). What L1 caches
hold dirty of the line has been written through before the error (09 R206, R212; log entry 12). -/
def StrikesLine (ev : Instr) (s0 : State) (line : Nat) (p : State → State → Prop) : Prop :=
  ∃ s : State, (∀ k, KeptByte s0 s k) ∧ (∀ i, KeptSide s0 s i)
    ∧ s = { s0 with mem := s.mem, side := s.side, poison := s.poison, sidePoison := s.sidePoison, frames := s.frames, l1 := s.l1, l2 := s.l2 }
    ∧ ((∀ e ∈ s0.l1, State.l1Addr (State.l1Phys e.1) / 256 = line → ∀ v, e.2 ≠ .dirty v) → s = s0)
    ∧ ((∀ c ∈ s.ctxs, s.inTables c line = false) → ∃ s', exec ev s0 = .next s' ∧ p s s')
    ∧ ∀ c, s.ctxs.filter (fun c => s.inTables c line) = [c] → (s.launches.map (·.1)).Nodup →
      ∃ s1 s', p s s1 ∧ exec ev s0 = .next s' ∧ Discards s1 s' c.num

end Sys2Proof.Claims

/-- An uncorrectable error poisons what it strikes (09 R212; 10 R223; 12 R270): the sector, the whole line with its sideband,
the sector of a staging slot, the arena word, the tile element, which then reads as a NaN, or the pattern byte; one in HBM4E
fences its channel (22 R448), one in a page table discards the work of its context, and so does one in saved context state,
which lies in HBM4E at a place that the manual does not give (18 R407; 22 R437; log entry 81). No byte of memory is changed by
the error itself. -/
def Sys2Proof.Claims.ErrorsPoison : Prop :=
  ∀ s : State,
    let sector (pa : Nat) (s s' : State) : Prop := s' = { s with poison := s'.poison }
      ∧ ∀ k, s'.poisoned k = (decide (k / 64 = pa / 64) || s.poisoned k)
    (∀ pa, StrikesLine (.uncorrectableError (.sector pa)) s (pa / 256) (fun s s' => ∃ s1, sector pa s s1 ∧ Fenced s1 s' pa))
    ∧ (∀ pa, StrikesLine (.uncorrectableError (.cached pa)) s (pa / 256) (sector pa))
    ∧ (∀ line, StrikesLine (.uncorrectableError (.sideband line)) s line (fun s s' => ∃ s1 : State,
      s1 = { s with poison := s1.poison, sidePoison := s1.sidePoison }
      ∧ (∀ k, s1.poisoned k = (decide (k / 256 = line) || s.poisoned k))
      ∧ (∀ n, sget false s1.sidePoison n = (decide (n / 4 = line) || sget false s.sidePoison n)) ∧ Fenced s1 s' (256 * line)))
    ∧ (∀ slot off, ∃ s1 s' : State, exec (.uncorrectableError (.stagingByte slot off)) s = .next s'
      ∧ s1 = { s with stagingPoison := s1.stagingPoison } ∧ Fenced s1 s' (768 * 2 ^ 30 + slot * 4224 + off)
      ∧ ∀ n, (sget none s1.stagingPoison n).isSome
        = (decide (n = (slot * 4224 + off) / 64) || (sget none s.stagingPoison n).isSome))
    ∧ (∀ c i off b, s.block? c i = some b →
      ∃ b', exec (.uncorrectableError (.arenaWord c i off)) s = .next (s.setBlock c i b') ∧ b' = { b with apoison := b'.apoison }
        ∧ ∀ w, sget false b'.apoison w = (decide (w = off / 8) || sget false b.apoison w))
    ∧ (∀ c i tile row col b, s.block? c i = some b → row < 128 → col < 256 →
      ∃ b', exec (.uncorrectableError (.tileElement c i tile row col)) s = .next (s.setBlock c i b')
        ∧ b' = { b with tilePoison := b'.tilePoison } ∧ b'.elem tile row col = nanc 6 .fp32
        ∧ ∀ t x y, x < 128 → y < 256 → (t, x, y) ≠ (tile, row, col) → b'.elem t x y = b.elem t x y)
    ∧ (∀ c i off b, s.block? c i = some b →
      ∃ b', exec (.uncorrectableError (.patternByte c i off)) s = .next (s.setBlock c i b')
        ∧ b' = { b with patPoison := b'.patPoison }
        ∧ ∀ k, sget false b'.patPoison k = (decide (k = off) || sget false b.patPoison k))
    ∧ (∀ ctx, (s.launches.map (·.1)).Nodup →
      ∃ pa s1 s', Fenced s s1 pa ∧ exec (.uncorrectableError (.contextState ctx)) s = .next s' ∧ Discards s1 s' ctx)

/-- A debugger writes the context of a troupe that is parked at BKPT, every register of it, the trap registers and the frontier
among them, and lets it go on at the next word (18 R403, R408; 04 R109); a write to a register or lane that the troupe has not,
or of a frontier that no troupe can have, is ignored (log entry 59). Stores of the host and of other members write the module's
memory, below its size; a slot of the staging pool takes bytes from other members only (09 R201; 11 R257; 17 R380, R381); loads
change nothing. -/
def Sys2Proof.Claims.DebuggerAndOutsideAccesses : Prop :=
  (∀ (s : State) (r : TRef) (w : DebugWrite) (t : Troupe) (cl : Cluster) (la : Launch), s.mayIssue r.cluster = true →
    s.troupe? r = some t → s.cluster? r.cluster = some cl → s.launch? cl.launch = some la →
    (t.status ≠ .breakpoint ∨ s.debugged la.ctx = false → exec (.debuggerResume r w) s = .next s)
    ∧ (t.status = .breakpoint → s.debugged la.ctx = true → t.width ≤ 128 → t.fb.length = 8 → t.run.latches.length = 4 →
      (w.vregs.map (fun x => (x.1, x.2.1))).Nodup → (w.sregs.map (·.1)).Nodup → (w.tags.map (fun x => (x.1, x.2.1))).Nodup →
      (w.preds.map (·.1)).Nodup → (w.fibres.map (·.1)).Nodup → (w.latches.map (·.1)).Nodup →
      ∃ t', exec (.debuggerResume r w) s = .next (s.setTroupe r t')
        ∧ t' = { t with
            v := t'.v, s := t'.s, sc := t'.sc, p := t'.p, fb := t'.fb, late := t'.late, wrote := t'.wrote, status := .ready
            watch := t'.watch, frontier := t'.frontier, waitw := 0
            run := { t.run with latches := t'.run.latches, k := w.k.getD t.run.k }, rnd := w.rnd.getD t.rnd, seed := w.seed.getD t.seed
            amax := w.amax.getD t.amax, sticky := w.sticky.getD t.sticky, prog := w.prog.getD t.prog
            tmask := w.tmask.getD t.tmask, tcause := w.tcause.getD t.tcause, tpc := w.tpc.getD t.tpc, tval := w.tval.getD t.tval }
        ∧ (w.frontier = none → t'.frontier = t.frontier)
        ∧ (∀ es, w.frontier = some es →
          let lanes (l : Nat) : Nat := (es.filter (fun e => hasLane e.2.2 l)).length
          let fits := (es.map (·.1)).Nodup ∧ (∀ e ∈ es, e.2.2 ≠ 0) ∧ ∀ l, l < 128 → lanes l = if hasLane t.live l then 1 else 0
          (¬ fits → t'.frontier = t.frontier)
          ∧ (fits → t'.frontier.map (fun f => (f.pc, f.prio, f.mask)) = es
            ∧ ∀ f ∈ t'.frontier, (∃ g ∈ t.frontier, f = { g with prio := f.prio, mask := f.mask })
              ∨ ((∀ g ∈ t.frontier, g.pc ≠ f.pc) ∧ f = ⟨f.pc, f.prio, f.mask, .header, 0, 0, 0⟩)))
        ∧ (∀ d l x, d < t.nregs → l < t.width → (d, l, x) ∈ w.vregs → t'.readV d l = x ∧ sget 0 t.wrote d < sget 0 t'.wrote d)
        ∧ (∀ d l, l < 128 → (∀ x, (d, l, x) ∉ w.vregs) → t'.readV d l = t.readV d l)
        ∧ (∀ d x, d < 64 → (d, x) ∈ w.sregs → t'.readS d = x) ∧ (∀ d, (∀ x, (d, x) ∉ w.sregs) → t'.readS d = t.readS d)
        ∧ (∀ d k x, d < t.nregs → 4 * k < t.width → (d, k, x) ∈ w.tags → t'.readTag d k = x)
        ∧ (∀ d k, k < 32 → (∀ x, (d, k, x) ∉ w.tags) → t'.readTag d k = t.readTag d k)
        ∧ (∀ q m l, q < 7 → (q, m) ∈ w.preds → l < t.width → (t'.readP q).getLsbD l = m.getLsbD l)
        ∧ (∀ q, (∀ m, (q, m) ∉ w.preds) → t'.readP q = t.readP q)
        ∧ (∀ n m, n < 8 → (n, m) ∈ w.fibres → t'.fibre n = if fibreImageOk m then fibreOf m else t.fibre n)
        ∧ (∀ n, (∀ m, (n, m) ∉ w.fibres) → t'.fibre n = t.fibre n)
        ∧ (∀ n m, n < 4 → (n, m) ∈ w.latches → t'.latch n = m.map (fun y => ⟨y.1, y.2.1, y.2.2⟩))
        ∧ (∀ n, (∀ m, (n, m) ∉ w.latches) → t'.latch n = t.latch n)))
  ∧ (∀ (s : State) (ev : MemAccess → Instr), ev = .hostAccess ∨ ev = .remoteModuleAccess →
    (∀ pa n, exec (ev (.load pa n)) s = .next s)
    ∧ (∀ (pa : Nat) (bytes : List Byte), pa + bytes.length ≤ 768 * 2 ^ 30 →
      ∃ s', exec (ev (.store pa bytes)) s = .next s'
        ∧ s' = { s with mem := s'.mem, poison := s'.poison, sidePoison := s'.sidePoison, frames := s'.frames, l2 := s'.l2 }
        ∧ ∀ k, s'.rdByte k = if pa ≤ k ∧ k < pa + bytes.length then bytes.getD (k - pa) 0 else s.rdByte k)
    ∧ (∀ (pa : Nat) (bytes : List Byte), 768 * 2 ^ 30 < pa + bytes.length → exec (ev (.store pa bytes)) s = .next s))
  ∧ (∀ (s : State) (slot off : Nat) (bytes : List Byte),
    exec (.hostAccess (.slotStore slot off bytes)) s = .next s
    ∧ (slot < 32768 → off + bytes.length ≤ 4224 →
      ∃ s', exec (.remoteModuleAccess (.slotStore slot off bytes)) s = .next s' ∧ s' = { s with staging := s'.staging, stagingPoison := s'.stagingPoison }
        ∧ ∀ k, sget 0 s'.staging k = if slot * 4224 + off ≤ k ∧ k < slot * 4224 + off + bytes.length
            then bytes.getD (k - (slot * 4224 + off)) 0 else sget 0 s.staging k)
    ∧ (32768 ≤ slot ∨ 4224 < off + bytes.length → exec (.remoteModuleAccess (.slotStore slot off bytes)) s = .next s))

/-! ## Statements of several parts -/

/-- Reset leaves the module idle, with memory in its canonical form (no context: log entry 1; unlisted bytes: 2). The
parts cite their rules and log entries. -/
def Obligations.ResetIsIdleAndCanonical : Prop :=
  Claims.ResetLeavesTheModuleIdle
    ∧ Claims.MemoryIsCanonicalAtReset

/-- Every instruction and every step answers a next state (one move a step: log entry 4). The parts cite their rules and
log entries. -/
def Obligations.StepsAnswer : Prop :=
  Claims.OnlyAWordWithNoIssuerStops
    ∧ Claims.EveryStepAnswers

/-- The integer ops write their results element by element, division with its exceptional cases. The parts cite their
rules and log entries. -/
def Obligations.IntegerAndDivisionResults : Prop :=
  Claims.IntegerResults
    ∧ Claims.DivisionResults

/-- LEA forms an address; MOV, MOVI and I2I move and convert values (operands of LEA: log entry 31). The parts cite
their rules and log entries. -/
def Obligations.AddressesMovesAndConversions : Prop :=
  Claims.LeaFormsAnAddress
    ∧ Claims.MovesAndIntegerConversion

/-- The bitwise ops and the shifts, with every amount. The parts cite their rules and log entries. -/
def Obligations.BitwiseAndShiftResults : Prop :=
  Claims.BitwiseResults
    ∧ Claims.ShiftResults

/-- Counting, reversing, extracting, inserting and selecting bits. The parts cite their rules and log entries. -/
def Obligations.BitCountAndFieldResults : Prop :=
  Claims.BitCountResults
    ∧ Claims.BitFieldAndSelectResults

/-- The float arithmetic, sign, minimum, maximum and classification ops. The parts cite their rules and log entries. -/
def Obligations.FloatArithmeticAndSelection : Prop :=
  Claims.FloatArithmeticResults
    ∧ Claims.FloatSelectionResults
    ∧ Claims.FloatValues

/-- FCMP, F2I, I2F and FCVT: predicates, clamping, STICKY and AMAX. The parts cite their rules and log entries. -/
def Obligations.FloatComparesAndConversions : Prop :=
  Claims.FloatComparesAndIntegerConversions
    ∧ Claims.FcvtResults
    ∧ Claims.ComparedAndClampedValues
    ∧ Claims.ConvertedValues

/-- The block-scaled ops, the dot products and the AMAX ops. The parts cite their rules and log entries. -/
def Obligations.BlockScaledResults : Prop :=
  Claims.BlockOpResults
    ∧ Claims.DotAndAmaxResults
    ∧ Claims.BlockValues
    ∧ Claims.DotValues

/-- The cross-lane ops: moves, votes, masks, scans and reductions over the selected lanes. The parts cite their rules
and log entries. -/
def Obligations.CrossLaneResults : Prop :=
  Claims.LaneMoves
    ∧ Claims.LaneVotes
    ∧ Claims.LaneReductions
    ∧ Claims.CombinedValues

/-- The branches, CALL and RET send lanes to their targets; a bad target traps. The parts cite their rules and log
entries. -/
def Obligations.ControlTransfersAndBadTargets : Prop :=
  Claims.ControlTransfers
    ∧ Claims.BadTargetTraps

/-- EXIT ends lanes, YIELD lets other entries issue first, NOP only ends the run (log entries 14, 69, 88: the model's
choices). The parts cite their rules and log entries. -/
def Obligations.ExitYieldAndNop : Prop :=
  Claims.ExitEndsLanes
    ∧ Claims.YieldAndNop

/-- TRAP and BKPT trap on request; words, headers, fall-throughs and ops that fail their checks trap before any effect
(log entries 14, 18, 33, 35, 70). The parts cite their rules and log entries. -/
def Obligations.RequestedAndDecodeTraps : Prop :=
  Claims.TrapsOnRequest
    ∧ Claims.FailedChecksTrap
    ∧ Claims.FallThroughsThatFail
    ∧ Claims.FetchedWordsTrap
    ∧ Claims.HeadersAreChecked

/-- SREAD and SWRITE of every special register (CLK: log entries 5, 65; TMASK by halves: 6). The parts cite their rules
and log entries. -/
def Obligations.SpecialRegisters : Prop :=
  Claims.SpecialRegisterReads
    ∧ Claims.SpecialRegisterWrites

/-- Both ops of a pair word read before either writes. The parts cite their rules and log entries. -/
def Obligations.PairWordResults : Prop :=
  Claims.PairWordResults
    ∧ Claims.CompactValues

/-- Opening and combining fibres, and the entries of a level (log entry 61). The parts cite their rules and log entries.
-/
def Obligations.FibreOpeningAndEntries : Prop :=
  Claims.FibreOpening
    ∧ Claims.FibreEntries

/-- FBNEXT and FBSKIP walk a fibre; FBSAVE and FBRSTR save and restore it (log entries 26, 60, 61). The parts cite their
rules and log entries. -/
def Obligations.FibreDeliveryAndImages : Prop :=
  Claims.FibreDelivery
    ∧ Claims.FibreSaveAndRestore

/-- Loads, stores, gathers and scatters: bytes moved and bytes kept (performed at issue: log entry 26). The parts cite
their rules and log entries. -/
def Obligations.GlobalAccesses : Prop :=
  Claims.WritesReadBack
    ∧ Claims.LoadsAndStores
    ∧ Claims.GathersAndScatters

/-- ATOM and RED combine lane by lane; FENCE, PREF and CCTL act on the cache (log entry 26). The parts cite their rules
and log entries. -/
def Obligations.AtomicsAndFences : Prop :=
  Claims.Atomics
    ∧ Claims.AtomicValues
    ∧ Claims.FencesAndCacheControl

/-- Faulting lanes of memory and arena instructions trap or park, and the others complete (log entries 35, 88). The
parts cite their rules and log entries. -/
def Obligations.LaneFaultsTrap : Prop :=
  Claims.MemoryFaultsTrap
    ∧ Claims.BlockFaultsTrap
    ∧ Claims.ArenaFaultsTrap
    ∧ Claims.PagerFaultsPark

/-- Arena accesses, the order-free combination of planar stores, and the region query. The parts cite their rules and
log entries. -/
def Obligations.ArenaAccessesAndPlanes : Prop :=
  Claims.ArenaAccesses
    ∧ Claims.PlanarStoresDoNotDependOnOrder

/-- A TURN gathers its troupes and then swaps the planes of its regions. The parts cite their rules and log entries. -/
def Obligations.TurnsArriveAndSwap : Prop :=
  Claims.TurnArrival
    ∧ Claims.TurnTraps
    ∧ Claims.TurnSwapsPlanes

/-- The matrix instructions enter the stream of the member's act, or trap at issue (log entries 63, 72, 87: the model's
readings). The parts cite their rules and log entries. -/
def Obligations.MatrixStreamEntry : Prop :=
  Claims.MatrixInstructionsEnterTheStream
    ∧ Claims.MloopEntersItsSteps
    ∧ Claims.MatrixInstructionsTrap
    ∧ Claims.MatrixOperandsTrap

/-- Acts form, match the instructions of their members, are waited on, report and are left (log entries 3, 30, 67, 87).
The parts cite their rules and log entries. -/
def Obligations.ActsFormMatchAndEnd : Prop :=
  Claims.ActsMatchInstructions
    ∧ Claims.ActsForm
    ∧ Claims.ActsAreLeft
    ∧ Claims.ActMembership
    ∧ Claims.MwaitReports

/-- COPY, COPYG and COPYS enter the copy queue after adding their units to a barrier. The parts cite their rules and log
entries. -/
def Obligations.CopiesEnterTheQueue : Prop :=
  Claims.CopiesEnterTheQueue
    ∧ Claims.CopiesTrap

/-- The transaction barrier instructions, their traps, the completion step and the settling of units (log entry 89). The
parts cite their rules and log entries. -/
def Obligations.TransactionBarriers : Prop :=
  Claims.TransactionBarriers
    ∧ Claims.BarrierArithmetic
    ∧ Claims.BarrierTraps

/-- A free issue slot goes to the highest class, then the longest wait (log entries 22, 34, 69). The parts cite their
rules and log entries. -/
def Obligations.IssueSlotGrants : Prop :=
  Claims.IssueSlotGrants
    ∧ Claims.PendingFaultIssuesFirst

/-- Stalled and waiting troupes go on when what they lack is there (log entry 47). The parts cite their rules and log
entries. -/
def Obligations.StallsAndWaitsEnd : Prop :=
  Claims.StallsEnd
    ∧ Claims.WaitsEnd

/-- Late results, line fills, table walks and invalidations arrive (log entries 12, 25, 35). The parts cite their rules
and log entries. -/
def Obligations.ResultsAndFillsArrive : Prop :=
  Claims.LateResultsArrive
    ∧ Claims.MemoryPipelineEvents

/-- Dense and sparse matrix steps accumulate their products, or stop on an error (log entries 3, 16, 63, 89). The parts
cite their rules and log entries. -/
def Obligations.MatrixSteps : Prop :=
  Claims.DenseSteps
    ∧ Claims.SparseSteps
    ∧ Claims.StepValues
    ∧ Claims.EntriesMeetCopies

/-- ACCZ, PATLD and ACCST entries: what they write and what they leave (log entry 63). The parts cite their rules and
log entries. -/
def Obligations.TileAndPatternEntries : Prop :=
  Claims.ZeroAndPatternEntries
    ∧ Claims.AccumulatorStores
    ∧ Claims.RowValues

/-- A transfer unit is written to its place and counted at its barrier; a remote failure sets FAULT (log entries 32,
89). The parts cite their rules and log entries. -/
def Obligations.CopyUnits : Prop :=
  Claims.CopyUnitsSettle
    ∧ Claims.RemoteCopyFaults

/-- A copy reads and transforms its source (log entries 17, 32). The parts cite their rules and log entries. -/
def Obligations.CopySourcesAndTransforms : Prop :=
  Claims.CopiesReadTheirSource
    ∧ Claims.CopyTransforms

/-- Launches are admitted with their dependences and reserve their bindings (log entries 19, 38, 40, 90). The parts cite
their rules and log entries. -/
def Obligations.LaunchesAdmittedAndReserved : Prop :=
  Claims.LaunchesAreAdmitted
    ∧ Claims.BindingsAreReserved

/-- A pre-empted cluster stops, inside a long instruction too, and is saved with every register as it was (log entries
52, 75). The parts cite their rules and log entries. -/
def Obligations.ClustersAreSaved : Prop :=
  Claims.ClustersAreSaved
    ∧ Claims.LongInstructionsStop

/-- Blocks exit, clusters retire, and launches end with their records (log entries 37, 46). The parts cite their rules
and log entries. -/
def Obligations.BlocksClustersAndLaunchesEnd : Prop :=
  Claims.BlocksExit
    ∧ Claims.ClustersRetire
    ∧ Claims.LaunchesEnd

/-- Chunks fire into their slots, and ready and contribution notifies take effect (log entries 41, 43: the model's
choices). The parts cite their rules and log entries. -/
def Obligations.ChunksFireAndNotify : Prop :=
  Claims.ChunksFire
    ∧ Claims.NotifiesArrive

/-- Contributions are reduced in rank order and bindings complete (log entries 42, 43). The parts cite their rules and
log entries. -/
def Obligations.ChunksReduceAndComplete : Prop :=
  Claims.ChunksAreReduced
    ∧ Claims.BindingsComplete

/-- Checkpoints, the log of moves, full log buffers and replay (log entry 44). The parts cite their rules and log
entries. -/
def Obligations.RecordingAndReplay : Prop :=
  Claims.RecordingAndReplay
    ∧ Claims.MovesAreLoggedAndReplayed

/-- Host commands are taken in sequence; LAUNCH enters its record or is held (log entries 28, 35, 39, 80). The parts
cite their rules and log entries. -/
def Obligations.CommandSequenceAndLaunch : Prop :=
  Claims.CommandsAreTakenInSequence
    ∧ Claims.LaunchCommands

/-- Context commands, the pager's answers and PREEMPT (log entries 27, 28, 66). The parts cite their rules and log
entries. -/
def Obligations.ContextAndPagerCommands : Prop :=
  Claims.ContextCommands
    ∧ Claims.PagerAnswersAndPreemption

/-- Module reset, degraded operation, errors, the debugger and outside accesses (log entries 2, 35, 36, 39, 59, 80, 81).
The parts cite their rules and log entries. -/
def Obligations.ModuleAndSurroundings : Prop :=
  Claims.ModuleResets
    ∧ Claims.DegradedOperation
    ∧ Claims.ErrorsPoison
    ∧ Claims.DebuggerAndOutsideAccesses

end Statements
end

