-- ==== Sys2Proof/Laws/Sparse.lean ====
section
/-! SUPPORT. Sparse maps and association lists: a read after a write, and the canonical form, which every operation
keeps. -/

namespace Sys2Proof.Machine

/-! ## Reading after writing -/

@[simp] theorem sget_nil {α : Type} (d : α) (k : Nat) : sget d [] k = d := rfl

theorem sget_cons {α : Type} (d : α) (a : Nat) (x : α) (m : Sparse α) (k : Nat) :
    sget d ((a, x) :: m) k = if k = a then x else sget d m k := rfl

/-- A read of the written key gives the value, any other key reads as before. -/
theorem sget_sset {α : Type} [DecidableEq α] (d : α) (m : Sparse α) (k q : Nat) (x : α) :
    sget d (sset d m k x) q = if q = k then x else sget d m q := by
  induction m with
  | nil => by_cases h : x = d <;> simp [sset, sget, h]
  | cons e m ih =>
    obtain ⟨a, y⟩ := e
    simp only [sset]
    split
    · next h =>
      subst h
      split
      · rw [ih, sget_cons]; split <;> simp_all
      · simp only [sget_cons]; split <;> simp_all
    · split
      · simp only [sget_cons]
      · simp only [sget_cons, ih]
        split <;> split <;> simp_all

@[simp] theorem sget_sset_same {α : Type} [DecidableEq α] (d : α) (m : Sparse α) (k : Nat) (x : α) :
    sget d (sset d m k x) k = x := by simp [sget_sset]

theorem sget_sset_ne {α : Type} [DecidableEq α] (d : α) (m : Sparse α) {k q : Nat} (x : α) (h : q ≠ k) :
    sget d (sset d m k x) q = sget d m q := by simp [sget_sset, h]

@[simp] theorem ssets_nil {α : Type} [DecidableEq α] (d : α) (m : Sparse α) : ssets d m [] = m := rfl

theorem ssets_cons {α : Type} [DecidableEq α] (d : α) (m : Sparse α) (w : Nat × α) (ws : List (Nat × α)) :
    ssets d m (w :: ws) = ssets d (sset d m w.1 w.2) ws := rfl

/-- A key that no write names reads as before. -/
theorem sget_ssets_ne {α : Type} [DecidableEq α] (d : α) (ws : List (Nat × α)) (m : Sparse α) (q : Nat)
    (h : ∀ w ∈ ws, w.1 ≠ q) : sget d (ssets d m ws) q = sget d m q := by
  induction ws generalizing m with
  | nil => rfl
  | cons w ws ih =>
    rw [ssets_cons, ih _ (fun v hv => h v (List.mem_cons_of_mem _ hv))]
    exact sget_sset_ne d m w.2 (Ne.symm (h w List.mem_cons_self))

/-- A key whose writes all carry one value reads as that value. -/
theorem sget_ssets_mem {α : Type} [DecidableEq α] (d : α) (ws : List (Nat × α)) (m : Sparse α) (q : Nat) (x : α)
    (hm : (q, x) ∈ ws) (h : ∀ w ∈ ws, w.1 = q → w.2 = x) : sget d (ssets d m ws) q = x := by
  induction ws generalizing m with
  | nil => cases hm
  | cons w ws ih =>
    rw [ssets_cons]
    by_cases hw : ∃ v ∈ ws, v.1 = q
    · obtain ⟨v, hv, hq⟩ := hw
      have hx : v.2 = x := h v (List.mem_cons_of_mem _ hv) hq
      refine ih _ ?_ (fun u hu => h u (List.mem_cons_of_mem _ hu))
      rw [← hq, ← hx]; exact hv
    · have hn : ∀ v ∈ ws, v.1 ≠ q := fun v hv hq => hw ⟨v, hv, hq⟩
      rw [sget_ssets_ne d ws _ q hn]
      have : w = (q, x) := by
        rcases List.mem_cons.mp hm with e | e
        · exact e.symm
        · exact absurd rfl (hn _ e)
      subst this
      simp

/-- A dropped key reads as the default, any other key as before. -/
theorem sget_sdrop {α : Type} (d : α) (p : Nat → Bool) (m : Sparse α) (q : Nat) :
    sget d (sdrop p m) q = if p q then d else sget d m q := by
  induction m with
  | nil => simp [sdrop]
  | cons e m ih =>
    obtain ⟨a, x⟩ := e
    simp only [sdrop] at ih ⊢
    by_cases h : p a = true
    · rw [List.filter_cons_of_neg (by simp [h]), ih, sget_cons]
      by_cases hq : q = a
      · subst hq; simp [h]
      · simp [hq]
    · rw [List.filter_cons_of_pos (by simp [h]), sget_cons, sget_cons, ih]
      split <;> split <;> simp_all

/-! ## The canonical form -/

theorem swfFrom_cons {α : Type} [DecidableEq α] (d : α) (lo k : Nat) (x : α) (m : Sparse α) :
    swfFrom d lo ((k, x) :: m) = true ↔ lo ≤ k ∧ x ≠ d ∧ swfFrom d (k + 1) m = true := by
  simp [swfFrom, and_assoc]

theorem swfFrom_mono {α : Type} [DecidableEq α] (d : α) {lo lo' : Nat} (h : lo' ≤ lo) (m : Sparse α)
    (hm : swfFrom d lo m = true) : swfFrom d lo' m = true := by
  cases m with
  | nil => rfl
  | cons e m =>
    obtain ⟨a, x⟩ := e
    rw [swfFrom_cons] at hm ⊢
    exact ⟨Nat.le_trans h hm.1, hm.2⟩

theorem swfFrom_sset {α : Type} [DecidableEq α] (d : α) (m : Sparse α) (lo k : Nat) (x : α) (hk : lo ≤ k)
    (hm : swfFrom d lo m = true) : swfFrom d lo (sset d m k x) = true := by
  induction m generalizing lo with
  | nil =>
    by_cases h : x = d <;> simp [sset, h, swfFrom, hk]
  | cons e m ih =>
    obtain ⟨a, y⟩ := e
    rw [swfFrom_cons] at hm
    obtain ⟨ha, hy, hm⟩ := hm
    simp only [sset]
    split
    · next h =>
      subst h
      split
      · next hx =>
        subst hx
        exact ih lo hk (swfFrom_mono x (by omega) m hm)
      · next hx => rw [swfFrom_cons]; exact ⟨hk, hx, hm⟩
    · next hne =>
      split
      · next hlt =>
        simp only [Bool.and_eq_true, decide_eq_true_eq] at hlt
        rw [swfFrom_cons, swfFrom_cons]
        exact ⟨hk, hlt.2, hlt.1, hy, hm⟩
      · next hlt =>
        rw [swfFrom_cons]
        refine ⟨ha, hy, ?_⟩
        by_cases hka : a + 1 ≤ k
        · exact ih (a + 1) hka hm
        · have hx : x = d := by
            by_cases hx : x = d
            · exact hx
            · exact absurd (by simp only [Bool.and_eq_true, decide_eq_true_eq]; exact ⟨by omega, hx⟩) hlt
          subst hx
          clear ih
          have go : ∀ (m : Sparse α) (lo : Nat), k < lo → swfFrom x lo m = true → sset x m k x = m := by
            intro m
            induction m with
            | nil => intro lo _ _; simp [sset]
            | cons e m ih =>
              obtain ⟨b, z⟩ := e
              intro lo h1 h2
              rw [swfFrom_cons] at h2
              simp only [sset]
              rw [if_neg (by omega), if_neg (by simp), ih (b + 1) (by omega) h2.2.2]
          rw [go m (a + 1) (by omega) hm]
          exact hm

/-- A write keeps the canonical form. -/
theorem swf_sset {α : Type} [DecidableEq α] (d : α) (m : Sparse α) (k : Nat) (x : α) (h : swf d m = true) :
    swf d (sset d m k x) = true := swfFrom_sset d m 0 k x (Nat.zero_le k) h

/-- A list of writes keeps the canonical form. -/
theorem swf_ssets {α : Type} [DecidableEq α] (d : α) (ws : List (Nat × α)) (m : Sparse α) (h : swf d m = true) :
    swf d (ssets d m ws) = true := by
  induction ws generalizing m with
  | nil => exact h
  | cons w ws ih => exact ih _ (swf_sset d m w.1 w.2 h)

theorem swfFrom_filter {α : Type} [DecidableEq α] (d : α) (p : Nat × α → Bool) (m : Sparse α) (lo : Nat)
    (h : swfFrom d lo m = true) : swfFrom d lo (m.filter p) = true := by
  induction m generalizing lo with
  | nil => rfl
  | cons e m ih =>
    obtain ⟨a, x⟩ := e
    rw [swfFrom_cons] at h
    by_cases hp : p (a, x) = true
    · rw [List.filter_cons_of_pos hp, swfFrom_cons]
      exact ⟨h.1, h.2.1, ih _ h.2.2⟩
    · rw [List.filter_cons_of_neg hp]
      exact swfFrom_mono d (by omega) _ (ih _ h.2.2)

/-- Entries taken away keep the canonical form. -/
theorem swf_filter {α : Type} [DecidableEq α] (d : α) (p : Nat × α → Bool) (m : Sparse α) (h : swf d m = true) :
    swf d (m.filter p) = true := swfFrom_filter d p m 0 h

theorem swf_sdrop {α : Type} [DecidableEq α] (d : α) (p : Nat → Bool) (m : Sparse α) (h : swf d m = true) :
    swf d (sdrop p m) = true := swf_filter d _ m h

/-! ## Association lists -/

theorem aget_aset {α : Type} (m : List (Nat × α)) (k q : Nat) (x : α) :
    aget (aset m k x) q = if q = k then (aget m k).map (fun _ => x) else aget m q := by
  induction m with
  | nil => simp [aset, aget]
  | cons e m ih =>
    obtain ⟨a, y⟩ := e
    simp only [aset]
    split
    · next h => subst h; simp only [aget]; split <;> simp_all
    · next h => simp only [aget, ih]; split <;> split <;> simp_all

@[simp] theorem aset_aset {α : Type} (m : List (Nat × α)) (k : Nat) (x y : α) : aset (aset m k x) k y = aset m k y := by
  induction m with
  | nil => rfl
  | cons e m ih =>
    obtain ⟨a, z⟩ := e
    simp only [aset]
    split
    · next h => subst h; simp [aset]
    · next h => simp [aset, h, ih]

theorem aset_same {α : Type} (m : List (Nat × α)) (k : Nat) (x : α) (h : aget m k = some x) : aset m k x = m := by
  induction m with
  | nil => rfl
  | cons e m ih =>
    obtain ⟨a, y⟩ := e
    simp only [aget] at h
    simp only [aset]
    split
    · next e => rw [if_pos e] at h; cases h; subst e; rfl
    · next e => rw [if_neg e] at h; rw [ih h]

end Sys2Proof.Machine
end

