-- ==== Sys2Proof/Laws/State.lean ====
section
/-! SUPPORT. What the updates of the state leave alone: one lemma for each field and update, and the frame of each
operation that replaces a part of the state. -/

namespace Sys2Proof.Machine

namespace State

/-! ### setCluster -/

@[simp] theorem setCluster_clk (s : State) (c : Nat) (cl : Cluster) : (s.setCluster c cl).clk = s.clk := rfl
@[simp] theorem setCluster_member (s : State) (c : Nat) (cl : Cluster) : (s.setCluster c cl).member = s.member := rfl
@[simp] theorem setCluster_domain (s : State) (c : Nat) (cl : Cluster) : (s.setCluster c cl).domain = s.domain := rfl
@[simp] theorem setCluster_mem (s : State) (c : Nat) (cl : Cluster) : (s.setCluster c cl).mem = s.mem := rfl
@[simp] theorem setCluster_side (s : State) (c : Nat) (cl : Cluster) : (s.setCluster c cl).side = s.side := rfl
@[simp] theorem setCluster_poison (s : State) (c : Nat) (cl : Cluster) : (s.setCluster c cl).poison = s.poison := rfl
@[simp] theorem setCluster_sidePoison (s : State) (c : Nat) (cl : Cluster) : (s.setCluster c cl).sidePoison = s.sidePoison := rfl
@[simp] theorem setCluster_frames (s : State) (c : Nat) (cl : Cluster) : (s.setCluster c cl).frames = s.frames := rfl
@[simp] theorem setCluster_l1 (s : State) (c : Nat) (cl : Cluster) : (s.setCluster c cl).l1 = s.l1 := rfl
@[simp] theorem setCluster_mshr (s : State) (c : Nat) (cl : Cluster) : (s.setCluster c cl).mshr = s.mshr := rfl
@[simp] theorem setCluster_l2 (s : State) (c : Nat) (cl : Cluster) : (s.setCluster c cl).l2 = s.l2 := rfl
@[simp] theorem setCluster_l2First (s : State) (c : Nat) (cl : Cluster) : (s.setCluster c cl).l2First = s.l2First := rfl
@[simp] theorem setCluster_far (s : State) (c : Nat) (cl : Cluster) : (s.setCluster c cl).far = s.far := rfl
@[simp] theorem setCluster_tlb (s : State) (c : Nat) (cl : Cluster) : (s.setCluster c cl).tlb = s.tlb := rfl
@[simp] theorem setCluster_invals (s : State) (c : Nat) (cl : Cluster) : (s.setCluster c cl).invals = s.invals := rfl
@[simp] theorem setCluster_ctxs (s : State) (c : Nat) (cl : Cluster) : (s.setCluster c cl).ctxs = s.ctxs := rfl
@[simp] theorem setCluster_pagerSeq (s : State) (c : Nat) (cl : Cluster) : (s.setCluster c cl).pagerSeq = s.pagerSeq := rfl
@[simp] theorem setCluster_slots (s : State) (c : Nat) (cl : Cluster) : (s.setCluster c cl).slots = s.slots := rfl
@[simp] theorem setCluster_launches (s : State) (c : Nat) (cl : Cluster) : (s.setCluster c cl).launches = s.launches := rfl
@[simp] theorem setCluster_nextId (s : State) (c : Nat) (cl : Cluster) : (s.setCluster c cl).nextId = s.nextId := rfl
@[simp] theorem setCluster_lq (s : State) (c : Nat) (cl : Cluster) : (s.setCluster c cl).lq = s.lq := rfl
@[simp] theorem setCluster_bound (s : State) (c : Nat) (cl : Cluster) : (s.setCluster c cl).bound = s.bound := rfl
@[simp] theorem setCluster_arrivals (s : State) (c : Nat) (cl : Cluster) : (s.setCluster c cl).arrivals = s.arrivals := rfl
@[simp] theorem setCluster_claims (s : State) (c : Nat) (cl : Cluster) : (s.setCluster c cl).claims = s.claims := rfl
@[simp] theorem setCluster_copies (s : State) (c : Nat) (cl : Cluster) : (s.setCluster c cl).copies = s.copies := rfl
@[simp] theorem setCluster_coreCount (s : State) (c : Nat) (cl : Cluster) : (s.setCluster c cl).coreCount = s.coreCount := rfl
@[simp] theorem setCluster_staging (s : State) (c : Nat) (cl : Cluster) : (s.setCluster c cl).staging = s.staging := rfl
@[simp] theorem setCluster_stagingPoison (s : State) (c : Nat) (cl : Cluster) : (s.setCluster c cl).stagingPoison = s.stagingPoison := rfl
@[simp] theorem setCluster_stagingUse (s : State) (c : Nat) (cl : Cluster) : (s.setCluster c cl).stagingUse = s.stagingUse := rfl
@[simp] theorem setCluster_epochs (s : State) (c : Nat) (cl : Cluster) : (s.setCluster c cl).epochs = s.epochs := rfl
@[simp] theorem setCluster_heldNotes (s : State) (c : Nat) (cl : Cluster) : (s.setCluster c cl).heldNotes = s.heldNotes := rfl
@[simp] theorem setCluster_outbox (s : State) (c : Nat) (cl : Cluster) : (s.setCluster c cl).outbox = s.outbox := rfl
@[simp] theorem setCluster_ack (s : State) (c : Nat) (cl : Cluster) : (s.setCluster c cl).ack = s.ack := rfl
@[simp] theorem setCluster_devSeq (s : State) (c : Nat) (cl : Cluster) : (s.setCluster c cl).devSeq = s.devSeq := rfl
@[simp] theorem setCluster_responses (s : State) (c : Nat) (cl : Cluster) : (s.setCluster c cl).responses = s.responses := rfl
@[simp] theorem setCluster_link (s : State) (c : Nat) (cl : Cluster) : (s.setCluster c cl).link = s.link := rfl
@[simp] theorem setCluster_heldLaunch (s : State) (c : Nat) (cl : Cluster) : (s.setCluster c cl).heldLaunch = s.heldLaunch := rfl
@[simp] theorem setCluster_waiting (s : State) (c : Nat) (cl : Cluster) : (s.setCluster c cl).waiting = s.waiting := rfl
@[simp] theorem setCluster_objects (s : State) (c : Nat) (cl : Cluster) : (s.setCluster c cl).objects = s.objects := rfl
@[simp] theorem setCluster_codeCache (s : State) (c : Nat) (cl : Cluster) : (s.setCluster c cl).codeCache = s.codeCache := rfl
@[simp] theorem setCluster_measure (s : State) (c : Nat) (cl : Cluster) : (s.setCluster c cl).measure = s.measure := rfl
@[simp] theorem setCluster_fuse (s : State) (c : Nat) (cl : Cluster) : (s.setCluster c cl).fuse = s.fuse := rfl
@[simp] theorem setCluster_firmware (s : State) (c : Nat) (cl : Cluster) : (s.setCluster c cl).firmware = s.firmware := rfl
@[simp] theorem setCluster_fwParts (s : State) (c : Nat) (cl : Cluster) : (s.setCluster c cl).fwParts = s.fwParts := rfl
@[simp] theorem setCluster_clockMhz (s : State) (c : Nat) (cl : Cluster) : (s.setCluster c cl).clockMhz = s.clockMhz := rfl
@[simp] theorem setCluster_overLimit (s : State) (c : Nat) (cl : Cluster) : (s.setCluster c cl).overLimit = s.overLimit := rfl
@[simp] theorem setCluster_channels (s : State) (c : Nat) (cl : Cluster) : (s.setCluster c cl).channels = s.channels := rfl
@[simp] theorem setCluster_badSlices (s : State) (c : Nat) (cl : Cluster) : (s.setCluster c cl).badSlices = s.badSlices := rfl
@[simp] theorem setCluster_checkpoints (s : State) (c : Nat) (cl : Cluster) : (s.setCluster c cl).checkpoints = s.checkpoints := rfl
@[simp] theorem setCluster_replay (s : State) (c : Nat) (cl : Cluster) : (s.setCluster c cl).replay = s.replay := rfl
@[simp] theorem setCluster_cur (s : State) (c : Nat) (cl : Cluster) : (s.setCluster c cl).cur = s.cur := rfl
@[simp] theorem setCluster_agenda (s : State) (c : Nat) (cl : Cluster) : (s.setCluster c cl).agenda = s.agenda := rfl
@[simp] theorem setCluster_seq (s : State) (c : Nat) (cl : Cluster) : (s.setCluster c cl).seq = s.seq := rfl
@[simp] theorem setCluster_free (s : State) (c : Nat) (cl : Cluster) : (s.setCluster c cl).free = s.free := rfl

/-! ### setBlock -/

theorem setBlock_frame (s : State) (c b : Nat) (x : Block) : s.setBlock c b x = { s with clusters := (s.setBlock c b x).clusters } := by
  unfold setBlock; cases s.cluster? c <;> first | rfl | exact rfl
@[simp] theorem setBlock_clk (s : State) (c b : Nat) (x : Block) : (s.setBlock c b x).clk = s.clk := by rw [setBlock_frame]
@[simp] theorem setBlock_member (s : State) (c b : Nat) (x : Block) : (s.setBlock c b x).member = s.member := by rw [setBlock_frame]
@[simp] theorem setBlock_domain (s : State) (c b : Nat) (x : Block) : (s.setBlock c b x).domain = s.domain := by rw [setBlock_frame]
@[simp] theorem setBlock_mem (s : State) (c b : Nat) (x : Block) : (s.setBlock c b x).mem = s.mem := by rw [setBlock_frame]
@[simp] theorem setBlock_side (s : State) (c b : Nat) (x : Block) : (s.setBlock c b x).side = s.side := by rw [setBlock_frame]
@[simp] theorem setBlock_poison (s : State) (c b : Nat) (x : Block) : (s.setBlock c b x).poison = s.poison := by rw [setBlock_frame]
@[simp] theorem setBlock_sidePoison (s : State) (c b : Nat) (x : Block) : (s.setBlock c b x).sidePoison = s.sidePoison := by rw [setBlock_frame]
@[simp] theorem setBlock_frames (s : State) (c b : Nat) (x : Block) : (s.setBlock c b x).frames = s.frames := by rw [setBlock_frame]
@[simp] theorem setBlock_l1 (s : State) (c b : Nat) (x : Block) : (s.setBlock c b x).l1 = s.l1 := by rw [setBlock_frame]
@[simp] theorem setBlock_mshr (s : State) (c b : Nat) (x : Block) : (s.setBlock c b x).mshr = s.mshr := by rw [setBlock_frame]
@[simp] theorem setBlock_l2 (s : State) (c b : Nat) (x : Block) : (s.setBlock c b x).l2 = s.l2 := by rw [setBlock_frame]
@[simp] theorem setBlock_l2First (s : State) (c b : Nat) (x : Block) : (s.setBlock c b x).l2First = s.l2First := by rw [setBlock_frame]
@[simp] theorem setBlock_far (s : State) (c b : Nat) (x : Block) : (s.setBlock c b x).far = s.far := by rw [setBlock_frame]
@[simp] theorem setBlock_tlb (s : State) (c b : Nat) (x : Block) : (s.setBlock c b x).tlb = s.tlb := by rw [setBlock_frame]
@[simp] theorem setBlock_invals (s : State) (c b : Nat) (x : Block) : (s.setBlock c b x).invals = s.invals := by rw [setBlock_frame]
@[simp] theorem setBlock_ctxs (s : State) (c b : Nat) (x : Block) : (s.setBlock c b x).ctxs = s.ctxs := by rw [setBlock_frame]
@[simp] theorem setBlock_pagerSeq (s : State) (c b : Nat) (x : Block) : (s.setBlock c b x).pagerSeq = s.pagerSeq := by rw [setBlock_frame]
@[simp] theorem setBlock_slots (s : State) (c b : Nat) (x : Block) : (s.setBlock c b x).slots = s.slots := by rw [setBlock_frame]
@[simp] theorem setBlock_launches (s : State) (c b : Nat) (x : Block) : (s.setBlock c b x).launches = s.launches := by rw [setBlock_frame]
@[simp] theorem setBlock_nextId (s : State) (c b : Nat) (x : Block) : (s.setBlock c b x).nextId = s.nextId := by rw [setBlock_frame]
@[simp] theorem setBlock_lq (s : State) (c b : Nat) (x : Block) : (s.setBlock c b x).lq = s.lq := by rw [setBlock_frame]
@[simp] theorem setBlock_bound (s : State) (c b : Nat) (x : Block) : (s.setBlock c b x).bound = s.bound := by rw [setBlock_frame]
@[simp] theorem setBlock_arrivals (s : State) (c b : Nat) (x : Block) : (s.setBlock c b x).arrivals = s.arrivals := by rw [setBlock_frame]
@[simp] theorem setBlock_claims (s : State) (c b : Nat) (x : Block) : (s.setBlock c b x).claims = s.claims := by rw [setBlock_frame]
@[simp] theorem setBlock_copies (s : State) (c b : Nat) (x : Block) : (s.setBlock c b x).copies = s.copies := by rw [setBlock_frame]
@[simp] theorem setBlock_coreCount (s : State) (c b : Nat) (x : Block) : (s.setBlock c b x).coreCount = s.coreCount := by rw [setBlock_frame]
@[simp] theorem setBlock_staging (s : State) (c b : Nat) (x : Block) : (s.setBlock c b x).staging = s.staging := by rw [setBlock_frame]
@[simp] theorem setBlock_stagingPoison (s : State) (c b : Nat) (x : Block) : (s.setBlock c b x).stagingPoison = s.stagingPoison := by rw [setBlock_frame]
@[simp] theorem setBlock_stagingUse (s : State) (c b : Nat) (x : Block) : (s.setBlock c b x).stagingUse = s.stagingUse := by rw [setBlock_frame]
@[simp] theorem setBlock_epochs (s : State) (c b : Nat) (x : Block) : (s.setBlock c b x).epochs = s.epochs := by rw [setBlock_frame]
@[simp] theorem setBlock_heldNotes (s : State) (c b : Nat) (x : Block) : (s.setBlock c b x).heldNotes = s.heldNotes := by rw [setBlock_frame]
@[simp] theorem setBlock_outbox (s : State) (c b : Nat) (x : Block) : (s.setBlock c b x).outbox = s.outbox := by rw [setBlock_frame]
@[simp] theorem setBlock_ack (s : State) (c b : Nat) (x : Block) : (s.setBlock c b x).ack = s.ack := by rw [setBlock_frame]
@[simp] theorem setBlock_devSeq (s : State) (c b : Nat) (x : Block) : (s.setBlock c b x).devSeq = s.devSeq := by rw [setBlock_frame]
@[simp] theorem setBlock_responses (s : State) (c b : Nat) (x : Block) : (s.setBlock c b x).responses = s.responses := by rw [setBlock_frame]
@[simp] theorem setBlock_link (s : State) (c b : Nat) (x : Block) : (s.setBlock c b x).link = s.link := by rw [setBlock_frame]
@[simp] theorem setBlock_heldLaunch (s : State) (c b : Nat) (x : Block) : (s.setBlock c b x).heldLaunch = s.heldLaunch := by rw [setBlock_frame]
@[simp] theorem setBlock_waiting (s : State) (c b : Nat) (x : Block) : (s.setBlock c b x).waiting = s.waiting := by rw [setBlock_frame]
@[simp] theorem setBlock_objects (s : State) (c b : Nat) (x : Block) : (s.setBlock c b x).objects = s.objects := by rw [setBlock_frame]
@[simp] theorem setBlock_codeCache (s : State) (c b : Nat) (x : Block) : (s.setBlock c b x).codeCache = s.codeCache := by rw [setBlock_frame]
@[simp] theorem setBlock_measure (s : State) (c b : Nat) (x : Block) : (s.setBlock c b x).measure = s.measure := by rw [setBlock_frame]
@[simp] theorem setBlock_fuse (s : State) (c b : Nat) (x : Block) : (s.setBlock c b x).fuse = s.fuse := by rw [setBlock_frame]
@[simp] theorem setBlock_firmware (s : State) (c b : Nat) (x : Block) : (s.setBlock c b x).firmware = s.firmware := by rw [setBlock_frame]
@[simp] theorem setBlock_fwParts (s : State) (c b : Nat) (x : Block) : (s.setBlock c b x).fwParts = s.fwParts := by rw [setBlock_frame]
@[simp] theorem setBlock_clockMhz (s : State) (c b : Nat) (x : Block) : (s.setBlock c b x).clockMhz = s.clockMhz := by rw [setBlock_frame]
@[simp] theorem setBlock_overLimit (s : State) (c b : Nat) (x : Block) : (s.setBlock c b x).overLimit = s.overLimit := by rw [setBlock_frame]
@[simp] theorem setBlock_channels (s : State) (c b : Nat) (x : Block) : (s.setBlock c b x).channels = s.channels := by rw [setBlock_frame]
@[simp] theorem setBlock_badSlices (s : State) (c b : Nat) (x : Block) : (s.setBlock c b x).badSlices = s.badSlices := by rw [setBlock_frame]
@[simp] theorem setBlock_checkpoints (s : State) (c b : Nat) (x : Block) : (s.setBlock c b x).checkpoints = s.checkpoints := by rw [setBlock_frame]
@[simp] theorem setBlock_replay (s : State) (c b : Nat) (x : Block) : (s.setBlock c b x).replay = s.replay := by rw [setBlock_frame]
@[simp] theorem setBlock_cur (s : State) (c b : Nat) (x : Block) : (s.setBlock c b x).cur = s.cur := by rw [setBlock_frame]
@[simp] theorem setBlock_agenda (s : State) (c b : Nat) (x : Block) : (s.setBlock c b x).agenda = s.agenda := by rw [setBlock_frame]
@[simp] theorem setBlock_seq (s : State) (c b : Nat) (x : Block) : (s.setBlock c b x).seq = s.seq := by rw [setBlock_frame]
@[simp] theorem setBlock_free (s : State) (c b : Nat) (x : Block) : (s.setBlock c b x).free = s.free := by rw [setBlock_frame]

/-! ### setTroupe -/

theorem setTroupe_frame (s : State) (r : TRef) (t : Troupe) : s.setTroupe r t = { s with clusters := (s.setTroupe r t).clusters } := by
  unfold setTroupe; cases s.block? r.cluster r.block <;> first | rfl | exact setBlock_frame _ _ _ _
@[simp] theorem setTroupe_clk (s : State) (r : TRef) (t : Troupe) : (s.setTroupe r t).clk = s.clk := by rw [setTroupe_frame]
@[simp] theorem setTroupe_member (s : State) (r : TRef) (t : Troupe) : (s.setTroupe r t).member = s.member := by rw [setTroupe_frame]
@[simp] theorem setTroupe_domain (s : State) (r : TRef) (t : Troupe) : (s.setTroupe r t).domain = s.domain := by rw [setTroupe_frame]
@[simp] theorem setTroupe_mem (s : State) (r : TRef) (t : Troupe) : (s.setTroupe r t).mem = s.mem := by rw [setTroupe_frame]
@[simp] theorem setTroupe_side (s : State) (r : TRef) (t : Troupe) : (s.setTroupe r t).side = s.side := by rw [setTroupe_frame]
@[simp] theorem setTroupe_poison (s : State) (r : TRef) (t : Troupe) : (s.setTroupe r t).poison = s.poison := by rw [setTroupe_frame]
@[simp] theorem setTroupe_sidePoison (s : State) (r : TRef) (t : Troupe) : (s.setTroupe r t).sidePoison = s.sidePoison := by rw [setTroupe_frame]
@[simp] theorem setTroupe_frames (s : State) (r : TRef) (t : Troupe) : (s.setTroupe r t).frames = s.frames := by rw [setTroupe_frame]
@[simp] theorem setTroupe_l1 (s : State) (r : TRef) (t : Troupe) : (s.setTroupe r t).l1 = s.l1 := by rw [setTroupe_frame]
@[simp] theorem setTroupe_mshr (s : State) (r : TRef) (t : Troupe) : (s.setTroupe r t).mshr = s.mshr := by rw [setTroupe_frame]
@[simp] theorem setTroupe_l2 (s : State) (r : TRef) (t : Troupe) : (s.setTroupe r t).l2 = s.l2 := by rw [setTroupe_frame]
@[simp] theorem setTroupe_l2First (s : State) (r : TRef) (t : Troupe) : (s.setTroupe r t).l2First = s.l2First := by rw [setTroupe_frame]
@[simp] theorem setTroupe_far (s : State) (r : TRef) (t : Troupe) : (s.setTroupe r t).far = s.far := by rw [setTroupe_frame]
@[simp] theorem setTroupe_tlb (s : State) (r : TRef) (t : Troupe) : (s.setTroupe r t).tlb = s.tlb := by rw [setTroupe_frame]
@[simp] theorem setTroupe_invals (s : State) (r : TRef) (t : Troupe) : (s.setTroupe r t).invals = s.invals := by rw [setTroupe_frame]
@[simp] theorem setTroupe_ctxs (s : State) (r : TRef) (t : Troupe) : (s.setTroupe r t).ctxs = s.ctxs := by rw [setTroupe_frame]
@[simp] theorem setTroupe_pagerSeq (s : State) (r : TRef) (t : Troupe) : (s.setTroupe r t).pagerSeq = s.pagerSeq := by rw [setTroupe_frame]
@[simp] theorem setTroupe_slots (s : State) (r : TRef) (t : Troupe) : (s.setTroupe r t).slots = s.slots := by rw [setTroupe_frame]
@[simp] theorem setTroupe_launches (s : State) (r : TRef) (t : Troupe) : (s.setTroupe r t).launches = s.launches := by rw [setTroupe_frame]
@[simp] theorem setTroupe_nextId (s : State) (r : TRef) (t : Troupe) : (s.setTroupe r t).nextId = s.nextId := by rw [setTroupe_frame]
@[simp] theorem setTroupe_lq (s : State) (r : TRef) (t : Troupe) : (s.setTroupe r t).lq = s.lq := by rw [setTroupe_frame]
@[simp] theorem setTroupe_bound (s : State) (r : TRef) (t : Troupe) : (s.setTroupe r t).bound = s.bound := by rw [setTroupe_frame]
@[simp] theorem setTroupe_arrivals (s : State) (r : TRef) (t : Troupe) : (s.setTroupe r t).arrivals = s.arrivals := by rw [setTroupe_frame]
@[simp] theorem setTroupe_claims (s : State) (r : TRef) (t : Troupe) : (s.setTroupe r t).claims = s.claims := by rw [setTroupe_frame]
@[simp] theorem setTroupe_copies (s : State) (r : TRef) (t : Troupe) : (s.setTroupe r t).copies = s.copies := by rw [setTroupe_frame]
@[simp] theorem setTroupe_coreCount (s : State) (r : TRef) (t : Troupe) : (s.setTroupe r t).coreCount = s.coreCount := by rw [setTroupe_frame]
@[simp] theorem setTroupe_staging (s : State) (r : TRef) (t : Troupe) : (s.setTroupe r t).staging = s.staging := by rw [setTroupe_frame]
@[simp] theorem setTroupe_stagingPoison (s : State) (r : TRef) (t : Troupe) : (s.setTroupe r t).stagingPoison = s.stagingPoison := by rw [setTroupe_frame]
@[simp] theorem setTroupe_stagingUse (s : State) (r : TRef) (t : Troupe) : (s.setTroupe r t).stagingUse = s.stagingUse := by rw [setTroupe_frame]
@[simp] theorem setTroupe_epochs (s : State) (r : TRef) (t : Troupe) : (s.setTroupe r t).epochs = s.epochs := by rw [setTroupe_frame]
@[simp] theorem setTroupe_heldNotes (s : State) (r : TRef) (t : Troupe) : (s.setTroupe r t).heldNotes = s.heldNotes := by rw [setTroupe_frame]
@[simp] theorem setTroupe_outbox (s : State) (r : TRef) (t : Troupe) : (s.setTroupe r t).outbox = s.outbox := by rw [setTroupe_frame]
@[simp] theorem setTroupe_ack (s : State) (r : TRef) (t : Troupe) : (s.setTroupe r t).ack = s.ack := by rw [setTroupe_frame]
@[simp] theorem setTroupe_devSeq (s : State) (r : TRef) (t : Troupe) : (s.setTroupe r t).devSeq = s.devSeq := by rw [setTroupe_frame]
@[simp] theorem setTroupe_responses (s : State) (r : TRef) (t : Troupe) : (s.setTroupe r t).responses = s.responses := by rw [setTroupe_frame]
@[simp] theorem setTroupe_link (s : State) (r : TRef) (t : Troupe) : (s.setTroupe r t).link = s.link := by rw [setTroupe_frame]
@[simp] theorem setTroupe_heldLaunch (s : State) (r : TRef) (t : Troupe) : (s.setTroupe r t).heldLaunch = s.heldLaunch := by rw [setTroupe_frame]
@[simp] theorem setTroupe_waiting (s : State) (r : TRef) (t : Troupe) : (s.setTroupe r t).waiting = s.waiting := by rw [setTroupe_frame]
@[simp] theorem setTroupe_objects (s : State) (r : TRef) (t : Troupe) : (s.setTroupe r t).objects = s.objects := by rw [setTroupe_frame]
@[simp] theorem setTroupe_codeCache (s : State) (r : TRef) (t : Troupe) : (s.setTroupe r t).codeCache = s.codeCache := by rw [setTroupe_frame]
@[simp] theorem setTroupe_measure (s : State) (r : TRef) (t : Troupe) : (s.setTroupe r t).measure = s.measure := by rw [setTroupe_frame]
@[simp] theorem setTroupe_fuse (s : State) (r : TRef) (t : Troupe) : (s.setTroupe r t).fuse = s.fuse := by rw [setTroupe_frame]
@[simp] theorem setTroupe_firmware (s : State) (r : TRef) (t : Troupe) : (s.setTroupe r t).firmware = s.firmware := by rw [setTroupe_frame]
@[simp] theorem setTroupe_fwParts (s : State) (r : TRef) (t : Troupe) : (s.setTroupe r t).fwParts = s.fwParts := by rw [setTroupe_frame]
@[simp] theorem setTroupe_clockMhz (s : State) (r : TRef) (t : Troupe) : (s.setTroupe r t).clockMhz = s.clockMhz := by rw [setTroupe_frame]
@[simp] theorem setTroupe_overLimit (s : State) (r : TRef) (t : Troupe) : (s.setTroupe r t).overLimit = s.overLimit := by rw [setTroupe_frame]
@[simp] theorem setTroupe_channels (s : State) (r : TRef) (t : Troupe) : (s.setTroupe r t).channels = s.channels := by rw [setTroupe_frame]
@[simp] theorem setTroupe_badSlices (s : State) (r : TRef) (t : Troupe) : (s.setTroupe r t).badSlices = s.badSlices := by rw [setTroupe_frame]
@[simp] theorem setTroupe_checkpoints (s : State) (r : TRef) (t : Troupe) : (s.setTroupe r t).checkpoints = s.checkpoints := by rw [setTroupe_frame]
@[simp] theorem setTroupe_replay (s : State) (r : TRef) (t : Troupe) : (s.setTroupe r t).replay = s.replay := by rw [setTroupe_frame]
@[simp] theorem setTroupe_cur (s : State) (r : TRef) (t : Troupe) : (s.setTroupe r t).cur = s.cur := by rw [setTroupe_frame]
@[simp] theorem setTroupe_agenda (s : State) (r : TRef) (t : Troupe) : (s.setTroupe r t).agenda = s.agenda := by rw [setTroupe_frame]
@[simp] theorem setTroupe_seq (s : State) (r : TRef) (t : Troupe) : (s.setTroupe r t).seq = s.seq := by rw [setTroupe_frame]
@[simp] theorem setTroupe_free (s : State) (r : TRef) (t : Troupe) : (s.setTroupe r t).free = s.free := by rw [setTroupe_frame]

/-! ### modTroupe -/

theorem modTroupe_frame (s : State) (r : TRef) (f : Troupe → Troupe) : s.modTroupe r f = { s with clusters := (s.modTroupe r f).clusters } := by
  unfold modTroupe; cases s.troupe? r <;> first | rfl | exact setTroupe_frame _ _ _
@[simp] theorem modTroupe_clk (s : State) (r : TRef) (f : Troupe → Troupe) : (s.modTroupe r f).clk = s.clk := by rw [modTroupe_frame]
@[simp] theorem modTroupe_member (s : State) (r : TRef) (f : Troupe → Troupe) : (s.modTroupe r f).member = s.member := by rw [modTroupe_frame]
@[simp] theorem modTroupe_domain (s : State) (r : TRef) (f : Troupe → Troupe) : (s.modTroupe r f).domain = s.domain := by rw [modTroupe_frame]
@[simp] theorem modTroupe_mem (s : State) (r : TRef) (f : Troupe → Troupe) : (s.modTroupe r f).mem = s.mem := by rw [modTroupe_frame]
@[simp] theorem modTroupe_side (s : State) (r : TRef) (f : Troupe → Troupe) : (s.modTroupe r f).side = s.side := by rw [modTroupe_frame]
@[simp] theorem modTroupe_poison (s : State) (r : TRef) (f : Troupe → Troupe) : (s.modTroupe r f).poison = s.poison := by rw [modTroupe_frame]
@[simp] theorem modTroupe_sidePoison (s : State) (r : TRef) (f : Troupe → Troupe) : (s.modTroupe r f).sidePoison = s.sidePoison := by rw [modTroupe_frame]
@[simp] theorem modTroupe_frames (s : State) (r : TRef) (f : Troupe → Troupe) : (s.modTroupe r f).frames = s.frames := by rw [modTroupe_frame]
@[simp] theorem modTroupe_l1 (s : State) (r : TRef) (f : Troupe → Troupe) : (s.modTroupe r f).l1 = s.l1 := by rw [modTroupe_frame]
@[simp] theorem modTroupe_mshr (s : State) (r : TRef) (f : Troupe → Troupe) : (s.modTroupe r f).mshr = s.mshr := by rw [modTroupe_frame]
@[simp] theorem modTroupe_l2 (s : State) (r : TRef) (f : Troupe → Troupe) : (s.modTroupe r f).l2 = s.l2 := by rw [modTroupe_frame]
@[simp] theorem modTroupe_l2First (s : State) (r : TRef) (f : Troupe → Troupe) : (s.modTroupe r f).l2First = s.l2First := by rw [modTroupe_frame]
@[simp] theorem modTroupe_far (s : State) (r : TRef) (f : Troupe → Troupe) : (s.modTroupe r f).far = s.far := by rw [modTroupe_frame]
@[simp] theorem modTroupe_tlb (s : State) (r : TRef) (f : Troupe → Troupe) : (s.modTroupe r f).tlb = s.tlb := by rw [modTroupe_frame]
@[simp] theorem modTroupe_invals (s : State) (r : TRef) (f : Troupe → Troupe) : (s.modTroupe r f).invals = s.invals := by rw [modTroupe_frame]
@[simp] theorem modTroupe_ctxs (s : State) (r : TRef) (f : Troupe → Troupe) : (s.modTroupe r f).ctxs = s.ctxs := by rw [modTroupe_frame]
@[simp] theorem modTroupe_pagerSeq (s : State) (r : TRef) (f : Troupe → Troupe) : (s.modTroupe r f).pagerSeq = s.pagerSeq := by rw [modTroupe_frame]
@[simp] theorem modTroupe_slots (s : State) (r : TRef) (f : Troupe → Troupe) : (s.modTroupe r f).slots = s.slots := by rw [modTroupe_frame]
@[simp] theorem modTroupe_launches (s : State) (r : TRef) (f : Troupe → Troupe) : (s.modTroupe r f).launches = s.launches := by rw [modTroupe_frame]
@[simp] theorem modTroupe_nextId (s : State) (r : TRef) (f : Troupe → Troupe) : (s.modTroupe r f).nextId = s.nextId := by rw [modTroupe_frame]
@[simp] theorem modTroupe_lq (s : State) (r : TRef) (f : Troupe → Troupe) : (s.modTroupe r f).lq = s.lq := by rw [modTroupe_frame]
@[simp] theorem modTroupe_bound (s : State) (r : TRef) (f : Troupe → Troupe) : (s.modTroupe r f).bound = s.bound := by rw [modTroupe_frame]
@[simp] theorem modTroupe_arrivals (s : State) (r : TRef) (f : Troupe → Troupe) : (s.modTroupe r f).arrivals = s.arrivals := by rw [modTroupe_frame]
@[simp] theorem modTroupe_claims (s : State) (r : TRef) (f : Troupe → Troupe) : (s.modTroupe r f).claims = s.claims := by rw [modTroupe_frame]
@[simp] theorem modTroupe_copies (s : State) (r : TRef) (f : Troupe → Troupe) : (s.modTroupe r f).copies = s.copies := by rw [modTroupe_frame]
@[simp] theorem modTroupe_coreCount (s : State) (r : TRef) (f : Troupe → Troupe) : (s.modTroupe r f).coreCount = s.coreCount := by rw [modTroupe_frame]
@[simp] theorem modTroupe_staging (s : State) (r : TRef) (f : Troupe → Troupe) : (s.modTroupe r f).staging = s.staging := by rw [modTroupe_frame]
@[simp] theorem modTroupe_stagingPoison (s : State) (r : TRef) (f : Troupe → Troupe) : (s.modTroupe r f).stagingPoison = s.stagingPoison := by rw [modTroupe_frame]
@[simp] theorem modTroupe_stagingUse (s : State) (r : TRef) (f : Troupe → Troupe) : (s.modTroupe r f).stagingUse = s.stagingUse := by rw [modTroupe_frame]
@[simp] theorem modTroupe_epochs (s : State) (r : TRef) (f : Troupe → Troupe) : (s.modTroupe r f).epochs = s.epochs := by rw [modTroupe_frame]
@[simp] theorem modTroupe_heldNotes (s : State) (r : TRef) (f : Troupe → Troupe) : (s.modTroupe r f).heldNotes = s.heldNotes := by rw [modTroupe_frame]
@[simp] theorem modTroupe_outbox (s : State) (r : TRef) (f : Troupe → Troupe) : (s.modTroupe r f).outbox = s.outbox := by rw [modTroupe_frame]
@[simp] theorem modTroupe_ack (s : State) (r : TRef) (f : Troupe → Troupe) : (s.modTroupe r f).ack = s.ack := by rw [modTroupe_frame]
@[simp] theorem modTroupe_devSeq (s : State) (r : TRef) (f : Troupe → Troupe) : (s.modTroupe r f).devSeq = s.devSeq := by rw [modTroupe_frame]
@[simp] theorem modTroupe_responses (s : State) (r : TRef) (f : Troupe → Troupe) : (s.modTroupe r f).responses = s.responses := by rw [modTroupe_frame]
@[simp] theorem modTroupe_link (s : State) (r : TRef) (f : Troupe → Troupe) : (s.modTroupe r f).link = s.link := by rw [modTroupe_frame]
@[simp] theorem modTroupe_heldLaunch (s : State) (r : TRef) (f : Troupe → Troupe) : (s.modTroupe r f).heldLaunch = s.heldLaunch := by rw [modTroupe_frame]
@[simp] theorem modTroupe_waiting (s : State) (r : TRef) (f : Troupe → Troupe) : (s.modTroupe r f).waiting = s.waiting := by rw [modTroupe_frame]
@[simp] theorem modTroupe_objects (s : State) (r : TRef) (f : Troupe → Troupe) : (s.modTroupe r f).objects = s.objects := by rw [modTroupe_frame]
@[simp] theorem modTroupe_codeCache (s : State) (r : TRef) (f : Troupe → Troupe) : (s.modTroupe r f).codeCache = s.codeCache := by rw [modTroupe_frame]
@[simp] theorem modTroupe_measure (s : State) (r : TRef) (f : Troupe → Troupe) : (s.modTroupe r f).measure = s.measure := by rw [modTroupe_frame]
@[simp] theorem modTroupe_fuse (s : State) (r : TRef) (f : Troupe → Troupe) : (s.modTroupe r f).fuse = s.fuse := by rw [modTroupe_frame]
@[simp] theorem modTroupe_firmware (s : State) (r : TRef) (f : Troupe → Troupe) : (s.modTroupe r f).firmware = s.firmware := by rw [modTroupe_frame]
@[simp] theorem modTroupe_fwParts (s : State) (r : TRef) (f : Troupe → Troupe) : (s.modTroupe r f).fwParts = s.fwParts := by rw [modTroupe_frame]
@[simp] theorem modTroupe_clockMhz (s : State) (r : TRef) (f : Troupe → Troupe) : (s.modTroupe r f).clockMhz = s.clockMhz := by rw [modTroupe_frame]
@[simp] theorem modTroupe_overLimit (s : State) (r : TRef) (f : Troupe → Troupe) : (s.modTroupe r f).overLimit = s.overLimit := by rw [modTroupe_frame]
@[simp] theorem modTroupe_channels (s : State) (r : TRef) (f : Troupe → Troupe) : (s.modTroupe r f).channels = s.channels := by rw [modTroupe_frame]
@[simp] theorem modTroupe_badSlices (s : State) (r : TRef) (f : Troupe → Troupe) : (s.modTroupe r f).badSlices = s.badSlices := by rw [modTroupe_frame]
@[simp] theorem modTroupe_checkpoints (s : State) (r : TRef) (f : Troupe → Troupe) : (s.modTroupe r f).checkpoints = s.checkpoints := by rw [modTroupe_frame]
@[simp] theorem modTroupe_replay (s : State) (r : TRef) (f : Troupe → Troupe) : (s.modTroupe r f).replay = s.replay := by rw [modTroupe_frame]
@[simp] theorem modTroupe_cur (s : State) (r : TRef) (f : Troupe → Troupe) : (s.modTroupe r f).cur = s.cur := by rw [modTroupe_frame]
@[simp] theorem modTroupe_agenda (s : State) (r : TRef) (f : Troupe → Troupe) : (s.modTroupe r f).agenda = s.agenda := by rw [modTroupe_frame]
@[simp] theorem modTroupe_seq (s : State) (r : TRef) (f : Troupe → Troupe) : (s.modTroupe r f).seq = s.seq := by rw [modTroupe_frame]
@[simp] theorem modTroupe_free (s : State) (r : TRef) (f : Troupe → Troupe) : (s.modTroupe r f).free = s.free := by rw [modTroupe_frame]

/-! ### modBlock -/

theorem modBlock_frame (s : State) (c b : Nat) (f : Block → Block) : s.modBlock c b f = { s with clusters := (s.modBlock c b f).clusters } := by
  unfold modBlock; cases s.block? c b <;> first | rfl | exact setBlock_frame _ _ _ _
@[simp] theorem modBlock_clk (s : State) (c b : Nat) (f : Block → Block) : (s.modBlock c b f).clk = s.clk := by rw [modBlock_frame]
@[simp] theorem modBlock_member (s : State) (c b : Nat) (f : Block → Block) : (s.modBlock c b f).member = s.member := by rw [modBlock_frame]
@[simp] theorem modBlock_domain (s : State) (c b : Nat) (f : Block → Block) : (s.modBlock c b f).domain = s.domain := by rw [modBlock_frame]
@[simp] theorem modBlock_mem (s : State) (c b : Nat) (f : Block → Block) : (s.modBlock c b f).mem = s.mem := by rw [modBlock_frame]
@[simp] theorem modBlock_side (s : State) (c b : Nat) (f : Block → Block) : (s.modBlock c b f).side = s.side := by rw [modBlock_frame]
@[simp] theorem modBlock_poison (s : State) (c b : Nat) (f : Block → Block) : (s.modBlock c b f).poison = s.poison := by rw [modBlock_frame]
@[simp] theorem modBlock_sidePoison (s : State) (c b : Nat) (f : Block → Block) : (s.modBlock c b f).sidePoison = s.sidePoison := by rw [modBlock_frame]
@[simp] theorem modBlock_frames (s : State) (c b : Nat) (f : Block → Block) : (s.modBlock c b f).frames = s.frames := by rw [modBlock_frame]
@[simp] theorem modBlock_l1 (s : State) (c b : Nat) (f : Block → Block) : (s.modBlock c b f).l1 = s.l1 := by rw [modBlock_frame]
@[simp] theorem modBlock_mshr (s : State) (c b : Nat) (f : Block → Block) : (s.modBlock c b f).mshr = s.mshr := by rw [modBlock_frame]
@[simp] theorem modBlock_l2 (s : State) (c b : Nat) (f : Block → Block) : (s.modBlock c b f).l2 = s.l2 := by rw [modBlock_frame]
@[simp] theorem modBlock_l2First (s : State) (c b : Nat) (f : Block → Block) : (s.modBlock c b f).l2First = s.l2First := by rw [modBlock_frame]
@[simp] theorem modBlock_far (s : State) (c b : Nat) (f : Block → Block) : (s.modBlock c b f).far = s.far := by rw [modBlock_frame]
@[simp] theorem modBlock_tlb (s : State) (c b : Nat) (f : Block → Block) : (s.modBlock c b f).tlb = s.tlb := by rw [modBlock_frame]
@[simp] theorem modBlock_invals (s : State) (c b : Nat) (f : Block → Block) : (s.modBlock c b f).invals = s.invals := by rw [modBlock_frame]
@[simp] theorem modBlock_ctxs (s : State) (c b : Nat) (f : Block → Block) : (s.modBlock c b f).ctxs = s.ctxs := by rw [modBlock_frame]
@[simp] theorem modBlock_pagerSeq (s : State) (c b : Nat) (f : Block → Block) : (s.modBlock c b f).pagerSeq = s.pagerSeq := by rw [modBlock_frame]
@[simp] theorem modBlock_slots (s : State) (c b : Nat) (f : Block → Block) : (s.modBlock c b f).slots = s.slots := by rw [modBlock_frame]
@[simp] theorem modBlock_launches (s : State) (c b : Nat) (f : Block → Block) : (s.modBlock c b f).launches = s.launches := by rw [modBlock_frame]
@[simp] theorem modBlock_nextId (s : State) (c b : Nat) (f : Block → Block) : (s.modBlock c b f).nextId = s.nextId := by rw [modBlock_frame]
@[simp] theorem modBlock_lq (s : State) (c b : Nat) (f : Block → Block) : (s.modBlock c b f).lq = s.lq := by rw [modBlock_frame]
@[simp] theorem modBlock_bound (s : State) (c b : Nat) (f : Block → Block) : (s.modBlock c b f).bound = s.bound := by rw [modBlock_frame]
@[simp] theorem modBlock_arrivals (s : State) (c b : Nat) (f : Block → Block) : (s.modBlock c b f).arrivals = s.arrivals := by rw [modBlock_frame]
@[simp] theorem modBlock_claims (s : State) (c b : Nat) (f : Block → Block) : (s.modBlock c b f).claims = s.claims := by rw [modBlock_frame]
@[simp] theorem modBlock_copies (s : State) (c b : Nat) (f : Block → Block) : (s.modBlock c b f).copies = s.copies := by rw [modBlock_frame]
@[simp] theorem modBlock_coreCount (s : State) (c b : Nat) (f : Block → Block) : (s.modBlock c b f).coreCount = s.coreCount := by rw [modBlock_frame]
@[simp] theorem modBlock_staging (s : State) (c b : Nat) (f : Block → Block) : (s.modBlock c b f).staging = s.staging := by rw [modBlock_frame]
@[simp] theorem modBlock_stagingPoison (s : State) (c b : Nat) (f : Block → Block) : (s.modBlock c b f).stagingPoison = s.stagingPoison := by rw [modBlock_frame]
@[simp] theorem modBlock_stagingUse (s : State) (c b : Nat) (f : Block → Block) : (s.modBlock c b f).stagingUse = s.stagingUse := by rw [modBlock_frame]
@[simp] theorem modBlock_epochs (s : State) (c b : Nat) (f : Block → Block) : (s.modBlock c b f).epochs = s.epochs := by rw [modBlock_frame]
@[simp] theorem modBlock_heldNotes (s : State) (c b : Nat) (f : Block → Block) : (s.modBlock c b f).heldNotes = s.heldNotes := by rw [modBlock_frame]
@[simp] theorem modBlock_outbox (s : State) (c b : Nat) (f : Block → Block) : (s.modBlock c b f).outbox = s.outbox := by rw [modBlock_frame]
@[simp] theorem modBlock_ack (s : State) (c b : Nat) (f : Block → Block) : (s.modBlock c b f).ack = s.ack := by rw [modBlock_frame]
@[simp] theorem modBlock_devSeq (s : State) (c b : Nat) (f : Block → Block) : (s.modBlock c b f).devSeq = s.devSeq := by rw [modBlock_frame]
@[simp] theorem modBlock_responses (s : State) (c b : Nat) (f : Block → Block) : (s.modBlock c b f).responses = s.responses := by rw [modBlock_frame]
@[simp] theorem modBlock_link (s : State) (c b : Nat) (f : Block → Block) : (s.modBlock c b f).link = s.link := by rw [modBlock_frame]
@[simp] theorem modBlock_heldLaunch (s : State) (c b : Nat) (f : Block → Block) : (s.modBlock c b f).heldLaunch = s.heldLaunch := by rw [modBlock_frame]
@[simp] theorem modBlock_waiting (s : State) (c b : Nat) (f : Block → Block) : (s.modBlock c b f).waiting = s.waiting := by rw [modBlock_frame]
@[simp] theorem modBlock_objects (s : State) (c b : Nat) (f : Block → Block) : (s.modBlock c b f).objects = s.objects := by rw [modBlock_frame]
@[simp] theorem modBlock_codeCache (s : State) (c b : Nat) (f : Block → Block) : (s.modBlock c b f).codeCache = s.codeCache := by rw [modBlock_frame]
@[simp] theorem modBlock_measure (s : State) (c b : Nat) (f : Block → Block) : (s.modBlock c b f).measure = s.measure := by rw [modBlock_frame]
@[simp] theorem modBlock_fuse (s : State) (c b : Nat) (f : Block → Block) : (s.modBlock c b f).fuse = s.fuse := by rw [modBlock_frame]
@[simp] theorem modBlock_firmware (s : State) (c b : Nat) (f : Block → Block) : (s.modBlock c b f).firmware = s.firmware := by rw [modBlock_frame]
@[simp] theorem modBlock_fwParts (s : State) (c b : Nat) (f : Block → Block) : (s.modBlock c b f).fwParts = s.fwParts := by rw [modBlock_frame]
@[simp] theorem modBlock_clockMhz (s : State) (c b : Nat) (f : Block → Block) : (s.modBlock c b f).clockMhz = s.clockMhz := by rw [modBlock_frame]
@[simp] theorem modBlock_overLimit (s : State) (c b : Nat) (f : Block → Block) : (s.modBlock c b f).overLimit = s.overLimit := by rw [modBlock_frame]
@[simp] theorem modBlock_channels (s : State) (c b : Nat) (f : Block → Block) : (s.modBlock c b f).channels = s.channels := by rw [modBlock_frame]
@[simp] theorem modBlock_badSlices (s : State) (c b : Nat) (f : Block → Block) : (s.modBlock c b f).badSlices = s.badSlices := by rw [modBlock_frame]
@[simp] theorem modBlock_checkpoints (s : State) (c b : Nat) (f : Block → Block) : (s.modBlock c b f).checkpoints = s.checkpoints := by rw [modBlock_frame]
@[simp] theorem modBlock_replay (s : State) (c b : Nat) (f : Block → Block) : (s.modBlock c b f).replay = s.replay := by rw [modBlock_frame]
@[simp] theorem modBlock_cur (s : State) (c b : Nat) (f : Block → Block) : (s.modBlock c b f).cur = s.cur := by rw [modBlock_frame]
@[simp] theorem modBlock_agenda (s : State) (c b : Nat) (f : Block → Block) : (s.modBlock c b f).agenda = s.agenda := by rw [modBlock_frame]
@[simp] theorem modBlock_seq (s : State) (c b : Nat) (f : Block → Block) : (s.modBlock c b f).seq = s.seq := by rw [modBlock_frame]
@[simp] theorem modBlock_free (s : State) (c b : Nat) (f : Block → Block) : (s.modBlock c b f).free = s.free := by rw [modBlock_frame]

/-! ### modCluster -/

theorem modCluster_frame (s : State) (c : Nat) (f : Cluster → Cluster) : s.modCluster c f = { s with clusters := (s.modCluster c f).clusters } := by
  unfold modCluster; cases s.cluster? c <;> first | rfl | exact rfl
@[simp] theorem modCluster_clk (s : State) (c : Nat) (f : Cluster → Cluster) : (s.modCluster c f).clk = s.clk := by rw [modCluster_frame]
@[simp] theorem modCluster_member (s : State) (c : Nat) (f : Cluster → Cluster) : (s.modCluster c f).member = s.member := by rw [modCluster_frame]
@[simp] theorem modCluster_domain (s : State) (c : Nat) (f : Cluster → Cluster) : (s.modCluster c f).domain = s.domain := by rw [modCluster_frame]
@[simp] theorem modCluster_mem (s : State) (c : Nat) (f : Cluster → Cluster) : (s.modCluster c f).mem = s.mem := by rw [modCluster_frame]
@[simp] theorem modCluster_side (s : State) (c : Nat) (f : Cluster → Cluster) : (s.modCluster c f).side = s.side := by rw [modCluster_frame]
@[simp] theorem modCluster_poison (s : State) (c : Nat) (f : Cluster → Cluster) : (s.modCluster c f).poison = s.poison := by rw [modCluster_frame]
@[simp] theorem modCluster_sidePoison (s : State) (c : Nat) (f : Cluster → Cluster) : (s.modCluster c f).sidePoison = s.sidePoison := by rw [modCluster_frame]
@[simp] theorem modCluster_frames (s : State) (c : Nat) (f : Cluster → Cluster) : (s.modCluster c f).frames = s.frames := by rw [modCluster_frame]
@[simp] theorem modCluster_l1 (s : State) (c : Nat) (f : Cluster → Cluster) : (s.modCluster c f).l1 = s.l1 := by rw [modCluster_frame]
@[simp] theorem modCluster_mshr (s : State) (c : Nat) (f : Cluster → Cluster) : (s.modCluster c f).mshr = s.mshr := by rw [modCluster_frame]
@[simp] theorem modCluster_l2 (s : State) (c : Nat) (f : Cluster → Cluster) : (s.modCluster c f).l2 = s.l2 := by rw [modCluster_frame]
@[simp] theorem modCluster_l2First (s : State) (c : Nat) (f : Cluster → Cluster) : (s.modCluster c f).l2First = s.l2First := by rw [modCluster_frame]
@[simp] theorem modCluster_far (s : State) (c : Nat) (f : Cluster → Cluster) : (s.modCluster c f).far = s.far := by rw [modCluster_frame]
@[simp] theorem modCluster_tlb (s : State) (c : Nat) (f : Cluster → Cluster) : (s.modCluster c f).tlb = s.tlb := by rw [modCluster_frame]
@[simp] theorem modCluster_invals (s : State) (c : Nat) (f : Cluster → Cluster) : (s.modCluster c f).invals = s.invals := by rw [modCluster_frame]
@[simp] theorem modCluster_ctxs (s : State) (c : Nat) (f : Cluster → Cluster) : (s.modCluster c f).ctxs = s.ctxs := by rw [modCluster_frame]
@[simp] theorem modCluster_pagerSeq (s : State) (c : Nat) (f : Cluster → Cluster) : (s.modCluster c f).pagerSeq = s.pagerSeq := by rw [modCluster_frame]
@[simp] theorem modCluster_slots (s : State) (c : Nat) (f : Cluster → Cluster) : (s.modCluster c f).slots = s.slots := by rw [modCluster_frame]
@[simp] theorem modCluster_launches (s : State) (c : Nat) (f : Cluster → Cluster) : (s.modCluster c f).launches = s.launches := by rw [modCluster_frame]
@[simp] theorem modCluster_nextId (s : State) (c : Nat) (f : Cluster → Cluster) : (s.modCluster c f).nextId = s.nextId := by rw [modCluster_frame]
@[simp] theorem modCluster_lq (s : State) (c : Nat) (f : Cluster → Cluster) : (s.modCluster c f).lq = s.lq := by rw [modCluster_frame]
@[simp] theorem modCluster_bound (s : State) (c : Nat) (f : Cluster → Cluster) : (s.modCluster c f).bound = s.bound := by rw [modCluster_frame]
@[simp] theorem modCluster_arrivals (s : State) (c : Nat) (f : Cluster → Cluster) : (s.modCluster c f).arrivals = s.arrivals := by rw [modCluster_frame]
@[simp] theorem modCluster_claims (s : State) (c : Nat) (f : Cluster → Cluster) : (s.modCluster c f).claims = s.claims := by rw [modCluster_frame]
@[simp] theorem modCluster_copies (s : State) (c : Nat) (f : Cluster → Cluster) : (s.modCluster c f).copies = s.copies := by rw [modCluster_frame]
@[simp] theorem modCluster_coreCount (s : State) (c : Nat) (f : Cluster → Cluster) : (s.modCluster c f).coreCount = s.coreCount := by rw [modCluster_frame]
@[simp] theorem modCluster_staging (s : State) (c : Nat) (f : Cluster → Cluster) : (s.modCluster c f).staging = s.staging := by rw [modCluster_frame]
@[simp] theorem modCluster_stagingPoison (s : State) (c : Nat) (f : Cluster → Cluster) : (s.modCluster c f).stagingPoison = s.stagingPoison := by rw [modCluster_frame]
@[simp] theorem modCluster_stagingUse (s : State) (c : Nat) (f : Cluster → Cluster) : (s.modCluster c f).stagingUse = s.stagingUse := by rw [modCluster_frame]
@[simp] theorem modCluster_epochs (s : State) (c : Nat) (f : Cluster → Cluster) : (s.modCluster c f).epochs = s.epochs := by rw [modCluster_frame]
@[simp] theorem modCluster_heldNotes (s : State) (c : Nat) (f : Cluster → Cluster) : (s.modCluster c f).heldNotes = s.heldNotes := by rw [modCluster_frame]
@[simp] theorem modCluster_outbox (s : State) (c : Nat) (f : Cluster → Cluster) : (s.modCluster c f).outbox = s.outbox := by rw [modCluster_frame]
@[simp] theorem modCluster_ack (s : State) (c : Nat) (f : Cluster → Cluster) : (s.modCluster c f).ack = s.ack := by rw [modCluster_frame]
@[simp] theorem modCluster_devSeq (s : State) (c : Nat) (f : Cluster → Cluster) : (s.modCluster c f).devSeq = s.devSeq := by rw [modCluster_frame]
@[simp] theorem modCluster_responses (s : State) (c : Nat) (f : Cluster → Cluster) : (s.modCluster c f).responses = s.responses := by rw [modCluster_frame]
@[simp] theorem modCluster_link (s : State) (c : Nat) (f : Cluster → Cluster) : (s.modCluster c f).link = s.link := by rw [modCluster_frame]
@[simp] theorem modCluster_heldLaunch (s : State) (c : Nat) (f : Cluster → Cluster) : (s.modCluster c f).heldLaunch = s.heldLaunch := by rw [modCluster_frame]
@[simp] theorem modCluster_waiting (s : State) (c : Nat) (f : Cluster → Cluster) : (s.modCluster c f).waiting = s.waiting := by rw [modCluster_frame]
@[simp] theorem modCluster_objects (s : State) (c : Nat) (f : Cluster → Cluster) : (s.modCluster c f).objects = s.objects := by rw [modCluster_frame]
@[simp] theorem modCluster_codeCache (s : State) (c : Nat) (f : Cluster → Cluster) : (s.modCluster c f).codeCache = s.codeCache := by rw [modCluster_frame]
@[simp] theorem modCluster_measure (s : State) (c : Nat) (f : Cluster → Cluster) : (s.modCluster c f).measure = s.measure := by rw [modCluster_frame]
@[simp] theorem modCluster_fuse (s : State) (c : Nat) (f : Cluster → Cluster) : (s.modCluster c f).fuse = s.fuse := by rw [modCluster_frame]
@[simp] theorem modCluster_firmware (s : State) (c : Nat) (f : Cluster → Cluster) : (s.modCluster c f).firmware = s.firmware := by rw [modCluster_frame]
@[simp] theorem modCluster_fwParts (s : State) (c : Nat) (f : Cluster → Cluster) : (s.modCluster c f).fwParts = s.fwParts := by rw [modCluster_frame]
@[simp] theorem modCluster_clockMhz (s : State) (c : Nat) (f : Cluster → Cluster) : (s.modCluster c f).clockMhz = s.clockMhz := by rw [modCluster_frame]
@[simp] theorem modCluster_overLimit (s : State) (c : Nat) (f : Cluster → Cluster) : (s.modCluster c f).overLimit = s.overLimit := by rw [modCluster_frame]
@[simp] theorem modCluster_channels (s : State) (c : Nat) (f : Cluster → Cluster) : (s.modCluster c f).channels = s.channels := by rw [modCluster_frame]
@[simp] theorem modCluster_badSlices (s : State) (c : Nat) (f : Cluster → Cluster) : (s.modCluster c f).badSlices = s.badSlices := by rw [modCluster_frame]
@[simp] theorem modCluster_checkpoints (s : State) (c : Nat) (f : Cluster → Cluster) : (s.modCluster c f).checkpoints = s.checkpoints := by rw [modCluster_frame]
@[simp] theorem modCluster_replay (s : State) (c : Nat) (f : Cluster → Cluster) : (s.modCluster c f).replay = s.replay := by rw [modCluster_frame]
@[simp] theorem modCluster_cur (s : State) (c : Nat) (f : Cluster → Cluster) : (s.modCluster c f).cur = s.cur := by rw [modCluster_frame]
@[simp] theorem modCluster_agenda (s : State) (c : Nat) (f : Cluster → Cluster) : (s.modCluster c f).agenda = s.agenda := by rw [modCluster_frame]
@[simp] theorem modCluster_seq (s : State) (c : Nat) (f : Cluster → Cluster) : (s.modCluster c f).seq = s.seq := by rw [modCluster_frame]
@[simp] theorem modCluster_free (s : State) (c : Nat) (f : Cluster → Cluster) : (s.modCluster c f).free = s.free := by rw [modCluster_frame]

/-! ### modLaunch -/

theorem modLaunch_frame (s : State) (l : Nat) (f : Launch → Launch) : s.modLaunch l f = { s with launches := (s.modLaunch l f).launches } := by
  unfold modLaunch; cases s.launch? l <;> first | rfl | exact rfl
@[simp] theorem modLaunch_clk (s : State) (l : Nat) (f : Launch → Launch) : (s.modLaunch l f).clk = s.clk := by rw [modLaunch_frame]
@[simp] theorem modLaunch_member (s : State) (l : Nat) (f : Launch → Launch) : (s.modLaunch l f).member = s.member := by rw [modLaunch_frame]
@[simp] theorem modLaunch_domain (s : State) (l : Nat) (f : Launch → Launch) : (s.modLaunch l f).domain = s.domain := by rw [modLaunch_frame]
@[simp] theorem modLaunch_mem (s : State) (l : Nat) (f : Launch → Launch) : (s.modLaunch l f).mem = s.mem := by rw [modLaunch_frame]
@[simp] theorem modLaunch_side (s : State) (l : Nat) (f : Launch → Launch) : (s.modLaunch l f).side = s.side := by rw [modLaunch_frame]
@[simp] theorem modLaunch_poison (s : State) (l : Nat) (f : Launch → Launch) : (s.modLaunch l f).poison = s.poison := by rw [modLaunch_frame]
@[simp] theorem modLaunch_sidePoison (s : State) (l : Nat) (f : Launch → Launch) : (s.modLaunch l f).sidePoison = s.sidePoison := by rw [modLaunch_frame]
@[simp] theorem modLaunch_frames (s : State) (l : Nat) (f : Launch → Launch) : (s.modLaunch l f).frames = s.frames := by rw [modLaunch_frame]
@[simp] theorem modLaunch_l1 (s : State) (l : Nat) (f : Launch → Launch) : (s.modLaunch l f).l1 = s.l1 := by rw [modLaunch_frame]
@[simp] theorem modLaunch_mshr (s : State) (l : Nat) (f : Launch → Launch) : (s.modLaunch l f).mshr = s.mshr := by rw [modLaunch_frame]
@[simp] theorem modLaunch_l2 (s : State) (l : Nat) (f : Launch → Launch) : (s.modLaunch l f).l2 = s.l2 := by rw [modLaunch_frame]
@[simp] theorem modLaunch_l2First (s : State) (l : Nat) (f : Launch → Launch) : (s.modLaunch l f).l2First = s.l2First := by rw [modLaunch_frame]
@[simp] theorem modLaunch_far (s : State) (l : Nat) (f : Launch → Launch) : (s.modLaunch l f).far = s.far := by rw [modLaunch_frame]
@[simp] theorem modLaunch_tlb (s : State) (l : Nat) (f : Launch → Launch) : (s.modLaunch l f).tlb = s.tlb := by rw [modLaunch_frame]
@[simp] theorem modLaunch_invals (s : State) (l : Nat) (f : Launch → Launch) : (s.modLaunch l f).invals = s.invals := by rw [modLaunch_frame]
@[simp] theorem modLaunch_ctxs (s : State) (l : Nat) (f : Launch → Launch) : (s.modLaunch l f).ctxs = s.ctxs := by rw [modLaunch_frame]
@[simp] theorem modLaunch_pagerSeq (s : State) (l : Nat) (f : Launch → Launch) : (s.modLaunch l f).pagerSeq = s.pagerSeq := by rw [modLaunch_frame]
@[simp] theorem modLaunch_slots (s : State) (l : Nat) (f : Launch → Launch) : (s.modLaunch l f).slots = s.slots := by rw [modLaunch_frame]
@[simp] theorem modLaunch_clusters (s : State) (l : Nat) (f : Launch → Launch) : (s.modLaunch l f).clusters = s.clusters := by rw [modLaunch_frame]
@[simp] theorem modLaunch_nextId (s : State) (l : Nat) (f : Launch → Launch) : (s.modLaunch l f).nextId = s.nextId := by rw [modLaunch_frame]
@[simp] theorem modLaunch_lq (s : State) (l : Nat) (f : Launch → Launch) : (s.modLaunch l f).lq = s.lq := by rw [modLaunch_frame]
@[simp] theorem modLaunch_bound (s : State) (l : Nat) (f : Launch → Launch) : (s.modLaunch l f).bound = s.bound := by rw [modLaunch_frame]
@[simp] theorem modLaunch_arrivals (s : State) (l : Nat) (f : Launch → Launch) : (s.modLaunch l f).arrivals = s.arrivals := by rw [modLaunch_frame]
@[simp] theorem modLaunch_claims (s : State) (l : Nat) (f : Launch → Launch) : (s.modLaunch l f).claims = s.claims := by rw [modLaunch_frame]
@[simp] theorem modLaunch_copies (s : State) (l : Nat) (f : Launch → Launch) : (s.modLaunch l f).copies = s.copies := by rw [modLaunch_frame]
@[simp] theorem modLaunch_coreCount (s : State) (l : Nat) (f : Launch → Launch) : (s.modLaunch l f).coreCount = s.coreCount := by rw [modLaunch_frame]
@[simp] theorem modLaunch_staging (s : State) (l : Nat) (f : Launch → Launch) : (s.modLaunch l f).staging = s.staging := by rw [modLaunch_frame]
@[simp] theorem modLaunch_stagingPoison (s : State) (l : Nat) (f : Launch → Launch) : (s.modLaunch l f).stagingPoison = s.stagingPoison := by rw [modLaunch_frame]
@[simp] theorem modLaunch_stagingUse (s : State) (l : Nat) (f : Launch → Launch) : (s.modLaunch l f).stagingUse = s.stagingUse := by rw [modLaunch_frame]
@[simp] theorem modLaunch_epochs (s : State) (l : Nat) (f : Launch → Launch) : (s.modLaunch l f).epochs = s.epochs := by rw [modLaunch_frame]
@[simp] theorem modLaunch_heldNotes (s : State) (l : Nat) (f : Launch → Launch) : (s.modLaunch l f).heldNotes = s.heldNotes := by rw [modLaunch_frame]
@[simp] theorem modLaunch_outbox (s : State) (l : Nat) (f : Launch → Launch) : (s.modLaunch l f).outbox = s.outbox := by rw [modLaunch_frame]
@[simp] theorem modLaunch_ack (s : State) (l : Nat) (f : Launch → Launch) : (s.modLaunch l f).ack = s.ack := by rw [modLaunch_frame]
@[simp] theorem modLaunch_devSeq (s : State) (l : Nat) (f : Launch → Launch) : (s.modLaunch l f).devSeq = s.devSeq := by rw [modLaunch_frame]
@[simp] theorem modLaunch_responses (s : State) (l : Nat) (f : Launch → Launch) : (s.modLaunch l f).responses = s.responses := by rw [modLaunch_frame]
@[simp] theorem modLaunch_link (s : State) (l : Nat) (f : Launch → Launch) : (s.modLaunch l f).link = s.link := by rw [modLaunch_frame]
@[simp] theorem modLaunch_heldLaunch (s : State) (l : Nat) (f : Launch → Launch) : (s.modLaunch l f).heldLaunch = s.heldLaunch := by rw [modLaunch_frame]
@[simp] theorem modLaunch_waiting (s : State) (l : Nat) (f : Launch → Launch) : (s.modLaunch l f).waiting = s.waiting := by rw [modLaunch_frame]
@[simp] theorem modLaunch_objects (s : State) (l : Nat) (f : Launch → Launch) : (s.modLaunch l f).objects = s.objects := by rw [modLaunch_frame]
@[simp] theorem modLaunch_codeCache (s : State) (l : Nat) (f : Launch → Launch) : (s.modLaunch l f).codeCache = s.codeCache := by rw [modLaunch_frame]
@[simp] theorem modLaunch_measure (s : State) (l : Nat) (f : Launch → Launch) : (s.modLaunch l f).measure = s.measure := by rw [modLaunch_frame]
@[simp] theorem modLaunch_fuse (s : State) (l : Nat) (f : Launch → Launch) : (s.modLaunch l f).fuse = s.fuse := by rw [modLaunch_frame]
@[simp] theorem modLaunch_firmware (s : State) (l : Nat) (f : Launch → Launch) : (s.modLaunch l f).firmware = s.firmware := by rw [modLaunch_frame]
@[simp] theorem modLaunch_fwParts (s : State) (l : Nat) (f : Launch → Launch) : (s.modLaunch l f).fwParts = s.fwParts := by rw [modLaunch_frame]
@[simp] theorem modLaunch_clockMhz (s : State) (l : Nat) (f : Launch → Launch) : (s.modLaunch l f).clockMhz = s.clockMhz := by rw [modLaunch_frame]
@[simp] theorem modLaunch_overLimit (s : State) (l : Nat) (f : Launch → Launch) : (s.modLaunch l f).overLimit = s.overLimit := by rw [modLaunch_frame]
@[simp] theorem modLaunch_channels (s : State) (l : Nat) (f : Launch → Launch) : (s.modLaunch l f).channels = s.channels := by rw [modLaunch_frame]
@[simp] theorem modLaunch_badSlices (s : State) (l : Nat) (f : Launch → Launch) : (s.modLaunch l f).badSlices = s.badSlices := by rw [modLaunch_frame]
@[simp] theorem modLaunch_checkpoints (s : State) (l : Nat) (f : Launch → Launch) : (s.modLaunch l f).checkpoints = s.checkpoints := by rw [modLaunch_frame]
@[simp] theorem modLaunch_replay (s : State) (l : Nat) (f : Launch → Launch) : (s.modLaunch l f).replay = s.replay := by rw [modLaunch_frame]
@[simp] theorem modLaunch_cur (s : State) (l : Nat) (f : Launch → Launch) : (s.modLaunch l f).cur = s.cur := by rw [modLaunch_frame]
@[simp] theorem modLaunch_agenda (s : State) (l : Nat) (f : Launch → Launch) : (s.modLaunch l f).agenda = s.agenda := by rw [modLaunch_frame]
@[simp] theorem modLaunch_seq (s : State) (l : Nat) (f : Launch → Launch) : (s.modLaunch l f).seq = s.seq := by rw [modLaunch_frame]
@[simp] theorem modLaunch_free (s : State) (l : Nat) (f : Launch → Launch) : (s.modLaunch l f).free = s.free := by rw [modLaunch_frame]

/-! ### freeSlot -/

@[simp] theorem freeSlot_clk (s : State) (r : TRef) : (s.freeSlot r).clk = s.clk := rfl
@[simp] theorem freeSlot_member (s : State) (r : TRef) : (s.freeSlot r).member = s.member := rfl
@[simp] theorem freeSlot_domain (s : State) (r : TRef) : (s.freeSlot r).domain = s.domain := rfl
@[simp] theorem freeSlot_mem (s : State) (r : TRef) : (s.freeSlot r).mem = s.mem := rfl
@[simp] theorem freeSlot_side (s : State) (r : TRef) : (s.freeSlot r).side = s.side := rfl
@[simp] theorem freeSlot_poison (s : State) (r : TRef) : (s.freeSlot r).poison = s.poison := rfl
@[simp] theorem freeSlot_sidePoison (s : State) (r : TRef) : (s.freeSlot r).sidePoison = s.sidePoison := rfl
@[simp] theorem freeSlot_frames (s : State) (r : TRef) : (s.freeSlot r).frames = s.frames := rfl
@[simp] theorem freeSlot_l1 (s : State) (r : TRef) : (s.freeSlot r).l1 = s.l1 := rfl
@[simp] theorem freeSlot_mshr (s : State) (r : TRef) : (s.freeSlot r).mshr = s.mshr := rfl
@[simp] theorem freeSlot_l2 (s : State) (r : TRef) : (s.freeSlot r).l2 = s.l2 := rfl
@[simp] theorem freeSlot_l2First (s : State) (r : TRef) : (s.freeSlot r).l2First = s.l2First := rfl
@[simp] theorem freeSlot_far (s : State) (r : TRef) : (s.freeSlot r).far = s.far := rfl
@[simp] theorem freeSlot_tlb (s : State) (r : TRef) : (s.freeSlot r).tlb = s.tlb := rfl
@[simp] theorem freeSlot_invals (s : State) (r : TRef) : (s.freeSlot r).invals = s.invals := rfl
@[simp] theorem freeSlot_ctxs (s : State) (r : TRef) : (s.freeSlot r).ctxs = s.ctxs := rfl
@[simp] theorem freeSlot_pagerSeq (s : State) (r : TRef) : (s.freeSlot r).pagerSeq = s.pagerSeq := rfl
@[simp] theorem freeSlot_clusters (s : State) (r : TRef) : (s.freeSlot r).clusters = s.clusters := rfl
@[simp] theorem freeSlot_launches (s : State) (r : TRef) : (s.freeSlot r).launches = s.launches := rfl
@[simp] theorem freeSlot_nextId (s : State) (r : TRef) : (s.freeSlot r).nextId = s.nextId := rfl
@[simp] theorem freeSlot_lq (s : State) (r : TRef) : (s.freeSlot r).lq = s.lq := rfl
@[simp] theorem freeSlot_bound (s : State) (r : TRef) : (s.freeSlot r).bound = s.bound := rfl
@[simp] theorem freeSlot_arrivals (s : State) (r : TRef) : (s.freeSlot r).arrivals = s.arrivals := rfl
@[simp] theorem freeSlot_claims (s : State) (r : TRef) : (s.freeSlot r).claims = s.claims := rfl
@[simp] theorem freeSlot_copies (s : State) (r : TRef) : (s.freeSlot r).copies = s.copies := rfl
@[simp] theorem freeSlot_coreCount (s : State) (r : TRef) : (s.freeSlot r).coreCount = s.coreCount := rfl
@[simp] theorem freeSlot_staging (s : State) (r : TRef) : (s.freeSlot r).staging = s.staging := rfl
@[simp] theorem freeSlot_stagingPoison (s : State) (r : TRef) : (s.freeSlot r).stagingPoison = s.stagingPoison := rfl
@[simp] theorem freeSlot_stagingUse (s : State) (r : TRef) : (s.freeSlot r).stagingUse = s.stagingUse := rfl
@[simp] theorem freeSlot_epochs (s : State) (r : TRef) : (s.freeSlot r).epochs = s.epochs := rfl
@[simp] theorem freeSlot_heldNotes (s : State) (r : TRef) : (s.freeSlot r).heldNotes = s.heldNotes := rfl
@[simp] theorem freeSlot_outbox (s : State) (r : TRef) : (s.freeSlot r).outbox = s.outbox := rfl
@[simp] theorem freeSlot_ack (s : State) (r : TRef) : (s.freeSlot r).ack = s.ack := rfl
@[simp] theorem freeSlot_devSeq (s : State) (r : TRef) : (s.freeSlot r).devSeq = s.devSeq := rfl
@[simp] theorem freeSlot_responses (s : State) (r : TRef) : (s.freeSlot r).responses = s.responses := rfl
@[simp] theorem freeSlot_link (s : State) (r : TRef) : (s.freeSlot r).link = s.link := rfl
@[simp] theorem freeSlot_heldLaunch (s : State) (r : TRef) : (s.freeSlot r).heldLaunch = s.heldLaunch := rfl
@[simp] theorem freeSlot_waiting (s : State) (r : TRef) : (s.freeSlot r).waiting = s.waiting := rfl
@[simp] theorem freeSlot_objects (s : State) (r : TRef) : (s.freeSlot r).objects = s.objects := rfl
@[simp] theorem freeSlot_codeCache (s : State) (r : TRef) : (s.freeSlot r).codeCache = s.codeCache := rfl
@[simp] theorem freeSlot_measure (s : State) (r : TRef) : (s.freeSlot r).measure = s.measure := rfl
@[simp] theorem freeSlot_fuse (s : State) (r : TRef) : (s.freeSlot r).fuse = s.fuse := rfl
@[simp] theorem freeSlot_firmware (s : State) (r : TRef) : (s.freeSlot r).firmware = s.firmware := rfl
@[simp] theorem freeSlot_fwParts (s : State) (r : TRef) : (s.freeSlot r).fwParts = s.fwParts := rfl
@[simp] theorem freeSlot_clockMhz (s : State) (r : TRef) : (s.freeSlot r).clockMhz = s.clockMhz := rfl
@[simp] theorem freeSlot_overLimit (s : State) (r : TRef) : (s.freeSlot r).overLimit = s.overLimit := rfl
@[simp] theorem freeSlot_channels (s : State) (r : TRef) : (s.freeSlot r).channels = s.channels := rfl
@[simp] theorem freeSlot_badSlices (s : State) (r : TRef) : (s.freeSlot r).badSlices = s.badSlices := rfl
@[simp] theorem freeSlot_checkpoints (s : State) (r : TRef) : (s.freeSlot r).checkpoints = s.checkpoints := rfl
@[simp] theorem freeSlot_replay (s : State) (r : TRef) : (s.freeSlot r).replay = s.replay := rfl
@[simp] theorem freeSlot_cur (s : State) (r : TRef) : (s.freeSlot r).cur = s.cur := rfl
@[simp] theorem freeSlot_agenda (s : State) (r : TRef) : (s.freeSlot r).agenda = s.agenda := rfl
@[simp] theorem freeSlot_seq (s : State) (r : TRef) : (s.freeSlot r).seq = s.seq := rfl
@[simp] theorem freeSlot_free (s : State) (r : TRef) : (s.freeSlot r).free = s.free := rfl

/-! ### respond -/

@[simp] theorem respond_clk (s : State) (kind ctx : Nat) (payload : List Byte) : (s.respond kind ctx payload).clk = s.clk := rfl
@[simp] theorem respond_member (s : State) (kind ctx : Nat) (payload : List Byte) : (s.respond kind ctx payload).member = s.member := rfl
@[simp] theorem respond_domain (s : State) (kind ctx : Nat) (payload : List Byte) : (s.respond kind ctx payload).domain = s.domain := rfl
@[simp] theorem respond_mem (s : State) (kind ctx : Nat) (payload : List Byte) : (s.respond kind ctx payload).mem = s.mem := rfl
@[simp] theorem respond_side (s : State) (kind ctx : Nat) (payload : List Byte) : (s.respond kind ctx payload).side = s.side := rfl
@[simp] theorem respond_poison (s : State) (kind ctx : Nat) (payload : List Byte) : (s.respond kind ctx payload).poison = s.poison := rfl
@[simp] theorem respond_sidePoison (s : State) (kind ctx : Nat) (payload : List Byte) : (s.respond kind ctx payload).sidePoison = s.sidePoison := rfl
@[simp] theorem respond_frames (s : State) (kind ctx : Nat) (payload : List Byte) : (s.respond kind ctx payload).frames = s.frames := rfl
@[simp] theorem respond_l1 (s : State) (kind ctx : Nat) (payload : List Byte) : (s.respond kind ctx payload).l1 = s.l1 := rfl
@[simp] theorem respond_mshr (s : State) (kind ctx : Nat) (payload : List Byte) : (s.respond kind ctx payload).mshr = s.mshr := rfl
@[simp] theorem respond_l2 (s : State) (kind ctx : Nat) (payload : List Byte) : (s.respond kind ctx payload).l2 = s.l2 := rfl
@[simp] theorem respond_l2First (s : State) (kind ctx : Nat) (payload : List Byte) : (s.respond kind ctx payload).l2First = s.l2First := rfl
@[simp] theorem respond_far (s : State) (kind ctx : Nat) (payload : List Byte) : (s.respond kind ctx payload).far = s.far := rfl
@[simp] theorem respond_tlb (s : State) (kind ctx : Nat) (payload : List Byte) : (s.respond kind ctx payload).tlb = s.tlb := rfl
@[simp] theorem respond_invals (s : State) (kind ctx : Nat) (payload : List Byte) : (s.respond kind ctx payload).invals = s.invals := rfl
@[simp] theorem respond_ctxs (s : State) (kind ctx : Nat) (payload : List Byte) : (s.respond kind ctx payload).ctxs = s.ctxs := rfl
@[simp] theorem respond_pagerSeq (s : State) (kind ctx : Nat) (payload : List Byte) : (s.respond kind ctx payload).pagerSeq = s.pagerSeq := rfl
@[simp] theorem respond_slots (s : State) (kind ctx : Nat) (payload : List Byte) : (s.respond kind ctx payload).slots = s.slots := rfl
@[simp] theorem respond_clusters (s : State) (kind ctx : Nat) (payload : List Byte) : (s.respond kind ctx payload).clusters = s.clusters := rfl
@[simp] theorem respond_launches (s : State) (kind ctx : Nat) (payload : List Byte) : (s.respond kind ctx payload).launches = s.launches := rfl
@[simp] theorem respond_nextId (s : State) (kind ctx : Nat) (payload : List Byte) : (s.respond kind ctx payload).nextId = s.nextId := rfl
@[simp] theorem respond_lq (s : State) (kind ctx : Nat) (payload : List Byte) : (s.respond kind ctx payload).lq = s.lq := rfl
@[simp] theorem respond_bound (s : State) (kind ctx : Nat) (payload : List Byte) : (s.respond kind ctx payload).bound = s.bound := rfl
@[simp] theorem respond_arrivals (s : State) (kind ctx : Nat) (payload : List Byte) : (s.respond kind ctx payload).arrivals = s.arrivals := rfl
@[simp] theorem respond_claims (s : State) (kind ctx : Nat) (payload : List Byte) : (s.respond kind ctx payload).claims = s.claims := rfl
@[simp] theorem respond_copies (s : State) (kind ctx : Nat) (payload : List Byte) : (s.respond kind ctx payload).copies = s.copies := rfl
@[simp] theorem respond_coreCount (s : State) (kind ctx : Nat) (payload : List Byte) : (s.respond kind ctx payload).coreCount = s.coreCount := rfl
@[simp] theorem respond_staging (s : State) (kind ctx : Nat) (payload : List Byte) : (s.respond kind ctx payload).staging = s.staging := rfl
@[simp] theorem respond_stagingPoison (s : State) (kind ctx : Nat) (payload : List Byte) : (s.respond kind ctx payload).stagingPoison = s.stagingPoison := rfl
@[simp] theorem respond_stagingUse (s : State) (kind ctx : Nat) (payload : List Byte) : (s.respond kind ctx payload).stagingUse = s.stagingUse := rfl
@[simp] theorem respond_epochs (s : State) (kind ctx : Nat) (payload : List Byte) : (s.respond kind ctx payload).epochs = s.epochs := rfl
@[simp] theorem respond_heldNotes (s : State) (kind ctx : Nat) (payload : List Byte) : (s.respond kind ctx payload).heldNotes = s.heldNotes := rfl
@[simp] theorem respond_outbox (s : State) (kind ctx : Nat) (payload : List Byte) : (s.respond kind ctx payload).outbox = s.outbox := rfl
@[simp] theorem respond_ack (s : State) (kind ctx : Nat) (payload : List Byte) : (s.respond kind ctx payload).ack = s.ack := rfl
@[simp] theorem respond_heldLaunch (s : State) (kind ctx : Nat) (payload : List Byte) : (s.respond kind ctx payload).heldLaunch = s.heldLaunch := rfl
@[simp] theorem respond_waiting (s : State) (kind ctx : Nat) (payload : List Byte) : (s.respond kind ctx payload).waiting = s.waiting := rfl
@[simp] theorem respond_objects (s : State) (kind ctx : Nat) (payload : List Byte) : (s.respond kind ctx payload).objects = s.objects := rfl
@[simp] theorem respond_codeCache (s : State) (kind ctx : Nat) (payload : List Byte) : (s.respond kind ctx payload).codeCache = s.codeCache := rfl
@[simp] theorem respond_measure (s : State) (kind ctx : Nat) (payload : List Byte) : (s.respond kind ctx payload).measure = s.measure := rfl
@[simp] theorem respond_fuse (s : State) (kind ctx : Nat) (payload : List Byte) : (s.respond kind ctx payload).fuse = s.fuse := rfl
@[simp] theorem respond_firmware (s : State) (kind ctx : Nat) (payload : List Byte) : (s.respond kind ctx payload).firmware = s.firmware := rfl
@[simp] theorem respond_fwParts (s : State) (kind ctx : Nat) (payload : List Byte) : (s.respond kind ctx payload).fwParts = s.fwParts := rfl
@[simp] theorem respond_clockMhz (s : State) (kind ctx : Nat) (payload : List Byte) : (s.respond kind ctx payload).clockMhz = s.clockMhz := rfl
@[simp] theorem respond_overLimit (s : State) (kind ctx : Nat) (payload : List Byte) : (s.respond kind ctx payload).overLimit = s.overLimit := rfl
@[simp] theorem respond_channels (s : State) (kind ctx : Nat) (payload : List Byte) : (s.respond kind ctx payload).channels = s.channels := rfl
@[simp] theorem respond_badSlices (s : State) (kind ctx : Nat) (payload : List Byte) : (s.respond kind ctx payload).badSlices = s.badSlices := rfl
@[simp] theorem respond_checkpoints (s : State) (kind ctx : Nat) (payload : List Byte) : (s.respond kind ctx payload).checkpoints = s.checkpoints := rfl
@[simp] theorem respond_replay (s : State) (kind ctx : Nat) (payload : List Byte) : (s.respond kind ctx payload).replay = s.replay := rfl
@[simp] theorem respond_cur (s : State) (kind ctx : Nat) (payload : List Byte) : (s.respond kind ctx payload).cur = s.cur := rfl
@[simp] theorem respond_agenda (s : State) (kind ctx : Nat) (payload : List Byte) : (s.respond kind ctx payload).agenda = s.agenda := rfl
@[simp] theorem respond_seq (s : State) (kind ctx : Nat) (payload : List Byte) : (s.respond kind ctx payload).seq = s.seq := rfl
@[simp] theorem respond_free (s : State) (kind ctx : Nat) (payload : List Byte) : (s.respond kind ctx payload).free = s.free := rfl

/-! ## Memory -/

/-! ### wrBytes -/

@[simp] theorem wrBytes_clk (s : State) (ws : List Host.Cell) : (s.wrBytes ws).clk = s.clk := rfl
@[simp] theorem wrBytes_member (s : State) (ws : List Host.Cell) : (s.wrBytes ws).member = s.member := rfl
@[simp] theorem wrBytes_domain (s : State) (ws : List Host.Cell) : (s.wrBytes ws).domain = s.domain := rfl
@[simp] theorem wrBytes_side (s : State) (ws : List Host.Cell) : (s.wrBytes ws).side = s.side := rfl
@[simp] theorem wrBytes_l1 (s : State) (ws : List Host.Cell) : (s.wrBytes ws).l1 = s.l1 := rfl
@[simp] theorem wrBytes_mshr (s : State) (ws : List Host.Cell) : (s.wrBytes ws).mshr = s.mshr := rfl
@[simp] theorem wrBytes_l2First (s : State) (ws : List Host.Cell) : (s.wrBytes ws).l2First = s.l2First := rfl
@[simp] theorem wrBytes_far (s : State) (ws : List Host.Cell) : (s.wrBytes ws).far = s.far := rfl
@[simp] theorem wrBytes_tlb (s : State) (ws : List Host.Cell) : (s.wrBytes ws).tlb = s.tlb := rfl
@[simp] theorem wrBytes_invals (s : State) (ws : List Host.Cell) : (s.wrBytes ws).invals = s.invals := rfl
@[simp] theorem wrBytes_ctxs (s : State) (ws : List Host.Cell) : (s.wrBytes ws).ctxs = s.ctxs := rfl
@[simp] theorem wrBytes_pagerSeq (s : State) (ws : List Host.Cell) : (s.wrBytes ws).pagerSeq = s.pagerSeq := rfl
@[simp] theorem wrBytes_slots (s : State) (ws : List Host.Cell) : (s.wrBytes ws).slots = s.slots := rfl
@[simp] theorem wrBytes_clusters (s : State) (ws : List Host.Cell) : (s.wrBytes ws).clusters = s.clusters := rfl
@[simp] theorem wrBytes_launches (s : State) (ws : List Host.Cell) : (s.wrBytes ws).launches = s.launches := rfl
@[simp] theorem wrBytes_nextId (s : State) (ws : List Host.Cell) : (s.wrBytes ws).nextId = s.nextId := rfl
@[simp] theorem wrBytes_lq (s : State) (ws : List Host.Cell) : (s.wrBytes ws).lq = s.lq := rfl
@[simp] theorem wrBytes_bound (s : State) (ws : List Host.Cell) : (s.wrBytes ws).bound = s.bound := rfl
@[simp] theorem wrBytes_arrivals (s : State) (ws : List Host.Cell) : (s.wrBytes ws).arrivals = s.arrivals := rfl
@[simp] theorem wrBytes_claims (s : State) (ws : List Host.Cell) : (s.wrBytes ws).claims = s.claims := rfl
@[simp] theorem wrBytes_copies (s : State) (ws : List Host.Cell) : (s.wrBytes ws).copies = s.copies := rfl
@[simp] theorem wrBytes_coreCount (s : State) (ws : List Host.Cell) : (s.wrBytes ws).coreCount = s.coreCount := rfl
@[simp] theorem wrBytes_staging (s : State) (ws : List Host.Cell) : (s.wrBytes ws).staging = s.staging := rfl
@[simp] theorem wrBytes_stagingPoison (s : State) (ws : List Host.Cell) : (s.wrBytes ws).stagingPoison = s.stagingPoison := rfl
@[simp] theorem wrBytes_stagingUse (s : State) (ws : List Host.Cell) : (s.wrBytes ws).stagingUse = s.stagingUse := rfl
@[simp] theorem wrBytes_epochs (s : State) (ws : List Host.Cell) : (s.wrBytes ws).epochs = s.epochs := rfl
@[simp] theorem wrBytes_heldNotes (s : State) (ws : List Host.Cell) : (s.wrBytes ws).heldNotes = s.heldNotes := rfl
@[simp] theorem wrBytes_outbox (s : State) (ws : List Host.Cell) : (s.wrBytes ws).outbox = s.outbox := rfl
@[simp] theorem wrBytes_ack (s : State) (ws : List Host.Cell) : (s.wrBytes ws).ack = s.ack := rfl
@[simp] theorem wrBytes_devSeq (s : State) (ws : List Host.Cell) : (s.wrBytes ws).devSeq = s.devSeq := rfl
@[simp] theorem wrBytes_responses (s : State) (ws : List Host.Cell) : (s.wrBytes ws).responses = s.responses := rfl
@[simp] theorem wrBytes_link (s : State) (ws : List Host.Cell) : (s.wrBytes ws).link = s.link := rfl
@[simp] theorem wrBytes_heldLaunch (s : State) (ws : List Host.Cell) : (s.wrBytes ws).heldLaunch = s.heldLaunch := rfl
@[simp] theorem wrBytes_waiting (s : State) (ws : List Host.Cell) : (s.wrBytes ws).waiting = s.waiting := rfl
@[simp] theorem wrBytes_objects (s : State) (ws : List Host.Cell) : (s.wrBytes ws).objects = s.objects := rfl
@[simp] theorem wrBytes_codeCache (s : State) (ws : List Host.Cell) : (s.wrBytes ws).codeCache = s.codeCache := rfl
@[simp] theorem wrBytes_measure (s : State) (ws : List Host.Cell) : (s.wrBytes ws).measure = s.measure := rfl
@[simp] theorem wrBytes_fuse (s : State) (ws : List Host.Cell) : (s.wrBytes ws).fuse = s.fuse := rfl
@[simp] theorem wrBytes_firmware (s : State) (ws : List Host.Cell) : (s.wrBytes ws).firmware = s.firmware := rfl
@[simp] theorem wrBytes_fwParts (s : State) (ws : List Host.Cell) : (s.wrBytes ws).fwParts = s.fwParts := rfl
@[simp] theorem wrBytes_clockMhz (s : State) (ws : List Host.Cell) : (s.wrBytes ws).clockMhz = s.clockMhz := rfl
@[simp] theorem wrBytes_overLimit (s : State) (ws : List Host.Cell) : (s.wrBytes ws).overLimit = s.overLimit := rfl
@[simp] theorem wrBytes_channels (s : State) (ws : List Host.Cell) : (s.wrBytes ws).channels = s.channels := rfl
@[simp] theorem wrBytes_badSlices (s : State) (ws : List Host.Cell) : (s.wrBytes ws).badSlices = s.badSlices := rfl
@[simp] theorem wrBytes_checkpoints (s : State) (ws : List Host.Cell) : (s.wrBytes ws).checkpoints = s.checkpoints := rfl
@[simp] theorem wrBytes_replay (s : State) (ws : List Host.Cell) : (s.wrBytes ws).replay = s.replay := rfl
@[simp] theorem wrBytes_cur (s : State) (ws : List Host.Cell) : (s.wrBytes ws).cur = s.cur := rfl
@[simp] theorem wrBytes_agenda (s : State) (ws : List Host.Cell) : (s.wrBytes ws).agenda = s.agenda := rfl
@[simp] theorem wrBytes_seq (s : State) (ws : List Host.Cell) : (s.wrBytes ws).seq = s.seq := rfl
@[simp] theorem wrBytes_free (s : State) (ws : List Host.Cell) : (s.wrBytes ws).free = s.free := rfl

/-! ### wrSide -/

@[simp] theorem wrSide_clk (s : State) (k b : Nat) (x : Byte) : (s.wrSide k b x).clk = s.clk := rfl
@[simp] theorem wrSide_member (s : State) (k b : Nat) (x : Byte) : (s.wrSide k b x).member = s.member := rfl
@[simp] theorem wrSide_domain (s : State) (k b : Nat) (x : Byte) : (s.wrSide k b x).domain = s.domain := rfl
@[simp] theorem wrSide_mem (s : State) (k b : Nat) (x : Byte) : (s.wrSide k b x).mem = s.mem := rfl
@[simp] theorem wrSide_poison (s : State) (k b : Nat) (x : Byte) : (s.wrSide k b x).poison = s.poison := rfl
@[simp] theorem wrSide_sidePoison (s : State) (k b : Nat) (x : Byte) : (s.wrSide k b x).sidePoison = s.sidePoison := rfl
@[simp] theorem wrSide_frames (s : State) (k b : Nat) (x : Byte) : (s.wrSide k b x).frames = s.frames := rfl
@[simp] theorem wrSide_l1 (s : State) (k b : Nat) (x : Byte) : (s.wrSide k b x).l1 = s.l1 := rfl
@[simp] theorem wrSide_mshr (s : State) (k b : Nat) (x : Byte) : (s.wrSide k b x).mshr = s.mshr := rfl
@[simp] theorem wrSide_l2 (s : State) (k b : Nat) (x : Byte) : (s.wrSide k b x).l2 = s.l2 := rfl
@[simp] theorem wrSide_l2First (s : State) (k b : Nat) (x : Byte) : (s.wrSide k b x).l2First = s.l2First := rfl
@[simp] theorem wrSide_far (s : State) (k b : Nat) (x : Byte) : (s.wrSide k b x).far = s.far := rfl
@[simp] theorem wrSide_tlb (s : State) (k b : Nat) (x : Byte) : (s.wrSide k b x).tlb = s.tlb := rfl
@[simp] theorem wrSide_invals (s : State) (k b : Nat) (x : Byte) : (s.wrSide k b x).invals = s.invals := rfl
@[simp] theorem wrSide_ctxs (s : State) (k b : Nat) (x : Byte) : (s.wrSide k b x).ctxs = s.ctxs := rfl
@[simp] theorem wrSide_pagerSeq (s : State) (k b : Nat) (x : Byte) : (s.wrSide k b x).pagerSeq = s.pagerSeq := rfl
@[simp] theorem wrSide_slots (s : State) (k b : Nat) (x : Byte) : (s.wrSide k b x).slots = s.slots := rfl
@[simp] theorem wrSide_clusters (s : State) (k b : Nat) (x : Byte) : (s.wrSide k b x).clusters = s.clusters := rfl
@[simp] theorem wrSide_launches (s : State) (k b : Nat) (x : Byte) : (s.wrSide k b x).launches = s.launches := rfl
@[simp] theorem wrSide_nextId (s : State) (k b : Nat) (x : Byte) : (s.wrSide k b x).nextId = s.nextId := rfl
@[simp] theorem wrSide_lq (s : State) (k b : Nat) (x : Byte) : (s.wrSide k b x).lq = s.lq := rfl
@[simp] theorem wrSide_bound (s : State) (k b : Nat) (x : Byte) : (s.wrSide k b x).bound = s.bound := rfl
@[simp] theorem wrSide_arrivals (s : State) (k b : Nat) (x : Byte) : (s.wrSide k b x).arrivals = s.arrivals := rfl
@[simp] theorem wrSide_claims (s : State) (k b : Nat) (x : Byte) : (s.wrSide k b x).claims = s.claims := rfl
@[simp] theorem wrSide_copies (s : State) (k b : Nat) (x : Byte) : (s.wrSide k b x).copies = s.copies := rfl
@[simp] theorem wrSide_coreCount (s : State) (k b : Nat) (x : Byte) : (s.wrSide k b x).coreCount = s.coreCount := rfl
@[simp] theorem wrSide_staging (s : State) (k b : Nat) (x : Byte) : (s.wrSide k b x).staging = s.staging := rfl
@[simp] theorem wrSide_stagingPoison (s : State) (k b : Nat) (x : Byte) : (s.wrSide k b x).stagingPoison = s.stagingPoison := rfl
@[simp] theorem wrSide_stagingUse (s : State) (k b : Nat) (x : Byte) : (s.wrSide k b x).stagingUse = s.stagingUse := rfl
@[simp] theorem wrSide_epochs (s : State) (k b : Nat) (x : Byte) : (s.wrSide k b x).epochs = s.epochs := rfl
@[simp] theorem wrSide_heldNotes (s : State) (k b : Nat) (x : Byte) : (s.wrSide k b x).heldNotes = s.heldNotes := rfl
@[simp] theorem wrSide_outbox (s : State) (k b : Nat) (x : Byte) : (s.wrSide k b x).outbox = s.outbox := rfl
@[simp] theorem wrSide_ack (s : State) (k b : Nat) (x : Byte) : (s.wrSide k b x).ack = s.ack := rfl
@[simp] theorem wrSide_devSeq (s : State) (k b : Nat) (x : Byte) : (s.wrSide k b x).devSeq = s.devSeq := rfl
@[simp] theorem wrSide_responses (s : State) (k b : Nat) (x : Byte) : (s.wrSide k b x).responses = s.responses := rfl
@[simp] theorem wrSide_link (s : State) (k b : Nat) (x : Byte) : (s.wrSide k b x).link = s.link := rfl
@[simp] theorem wrSide_heldLaunch (s : State) (k b : Nat) (x : Byte) : (s.wrSide k b x).heldLaunch = s.heldLaunch := rfl
@[simp] theorem wrSide_waiting (s : State) (k b : Nat) (x : Byte) : (s.wrSide k b x).waiting = s.waiting := rfl
@[simp] theorem wrSide_objects (s : State) (k b : Nat) (x : Byte) : (s.wrSide k b x).objects = s.objects := rfl
@[simp] theorem wrSide_codeCache (s : State) (k b : Nat) (x : Byte) : (s.wrSide k b x).codeCache = s.codeCache := rfl
@[simp] theorem wrSide_measure (s : State) (k b : Nat) (x : Byte) : (s.wrSide k b x).measure = s.measure := rfl
@[simp] theorem wrSide_fuse (s : State) (k b : Nat) (x : Byte) : (s.wrSide k b x).fuse = s.fuse := rfl
@[simp] theorem wrSide_firmware (s : State) (k b : Nat) (x : Byte) : (s.wrSide k b x).firmware = s.firmware := rfl
@[simp] theorem wrSide_fwParts (s : State) (k b : Nat) (x : Byte) : (s.wrSide k b x).fwParts = s.fwParts := rfl
@[simp] theorem wrSide_clockMhz (s : State) (k b : Nat) (x : Byte) : (s.wrSide k b x).clockMhz = s.clockMhz := rfl
@[simp] theorem wrSide_overLimit (s : State) (k b : Nat) (x : Byte) : (s.wrSide k b x).overLimit = s.overLimit := rfl
@[simp] theorem wrSide_channels (s : State) (k b : Nat) (x : Byte) : (s.wrSide k b x).channels = s.channels := rfl
@[simp] theorem wrSide_badSlices (s : State) (k b : Nat) (x : Byte) : (s.wrSide k b x).badSlices = s.badSlices := rfl
@[simp] theorem wrSide_checkpoints (s : State) (k b : Nat) (x : Byte) : (s.wrSide k b x).checkpoints = s.checkpoints := rfl
@[simp] theorem wrSide_replay (s : State) (k b : Nat) (x : Byte) : (s.wrSide k b x).replay = s.replay := rfl
@[simp] theorem wrSide_cur (s : State) (k b : Nat) (x : Byte) : (s.wrSide k b x).cur = s.cur := rfl
@[simp] theorem wrSide_agenda (s : State) (k b : Nat) (x : Byte) : (s.wrSide k b x).agenda = s.agenda := rfl
@[simp] theorem wrSide_seq (s : State) (k b : Nat) (x : Byte) : (s.wrSide k b x).seq = s.seq := rfl
@[simp] theorem wrSide_free (s : State) (k b : Nat) (x : Byte) : (s.wrSide k b x).free = s.free := rfl

/-! ### bumpCore -/

@[simp] theorem bumpCore_clk (s : State) (core n by_ : Nat) : (s.bumpCore core n by_).clk = s.clk := rfl
@[simp] theorem bumpCore_member (s : State) (core n by_ : Nat) : (s.bumpCore core n by_).member = s.member := rfl
@[simp] theorem bumpCore_domain (s : State) (core n by_ : Nat) : (s.bumpCore core n by_).domain = s.domain := rfl
@[simp] theorem bumpCore_mem (s : State) (core n by_ : Nat) : (s.bumpCore core n by_).mem = s.mem := rfl
@[simp] theorem bumpCore_side (s : State) (core n by_ : Nat) : (s.bumpCore core n by_).side = s.side := rfl
@[simp] theorem bumpCore_poison (s : State) (core n by_ : Nat) : (s.bumpCore core n by_).poison = s.poison := rfl
@[simp] theorem bumpCore_sidePoison (s : State) (core n by_ : Nat) : (s.bumpCore core n by_).sidePoison = s.sidePoison := rfl
@[simp] theorem bumpCore_frames (s : State) (core n by_ : Nat) : (s.bumpCore core n by_).frames = s.frames := rfl
@[simp] theorem bumpCore_l1 (s : State) (core n by_ : Nat) : (s.bumpCore core n by_).l1 = s.l1 := rfl
@[simp] theorem bumpCore_mshr (s : State) (core n by_ : Nat) : (s.bumpCore core n by_).mshr = s.mshr := rfl
@[simp] theorem bumpCore_l2 (s : State) (core n by_ : Nat) : (s.bumpCore core n by_).l2 = s.l2 := rfl
@[simp] theorem bumpCore_l2First (s : State) (core n by_ : Nat) : (s.bumpCore core n by_).l2First = s.l2First := rfl
@[simp] theorem bumpCore_far (s : State) (core n by_ : Nat) : (s.bumpCore core n by_).far = s.far := rfl
@[simp] theorem bumpCore_tlb (s : State) (core n by_ : Nat) : (s.bumpCore core n by_).tlb = s.tlb := rfl
@[simp] theorem bumpCore_invals (s : State) (core n by_ : Nat) : (s.bumpCore core n by_).invals = s.invals := rfl
@[simp] theorem bumpCore_ctxs (s : State) (core n by_ : Nat) : (s.bumpCore core n by_).ctxs = s.ctxs := rfl
@[simp] theorem bumpCore_pagerSeq (s : State) (core n by_ : Nat) : (s.bumpCore core n by_).pagerSeq = s.pagerSeq := rfl
@[simp] theorem bumpCore_slots (s : State) (core n by_ : Nat) : (s.bumpCore core n by_).slots = s.slots := rfl
@[simp] theorem bumpCore_clusters (s : State) (core n by_ : Nat) : (s.bumpCore core n by_).clusters = s.clusters := rfl
@[simp] theorem bumpCore_launches (s : State) (core n by_ : Nat) : (s.bumpCore core n by_).launches = s.launches := rfl
@[simp] theorem bumpCore_nextId (s : State) (core n by_ : Nat) : (s.bumpCore core n by_).nextId = s.nextId := rfl
@[simp] theorem bumpCore_lq (s : State) (core n by_ : Nat) : (s.bumpCore core n by_).lq = s.lq := rfl
@[simp] theorem bumpCore_bound (s : State) (core n by_ : Nat) : (s.bumpCore core n by_).bound = s.bound := rfl
@[simp] theorem bumpCore_arrivals (s : State) (core n by_ : Nat) : (s.bumpCore core n by_).arrivals = s.arrivals := rfl
@[simp] theorem bumpCore_claims (s : State) (core n by_ : Nat) : (s.bumpCore core n by_).claims = s.claims := rfl
@[simp] theorem bumpCore_copies (s : State) (core n by_ : Nat) : (s.bumpCore core n by_).copies = s.copies := rfl
@[simp] theorem bumpCore_staging (s : State) (core n by_ : Nat) : (s.bumpCore core n by_).staging = s.staging := rfl
@[simp] theorem bumpCore_stagingPoison (s : State) (core n by_ : Nat) : (s.bumpCore core n by_).stagingPoison = s.stagingPoison := rfl
@[simp] theorem bumpCore_stagingUse (s : State) (core n by_ : Nat) : (s.bumpCore core n by_).stagingUse = s.stagingUse := rfl
@[simp] theorem bumpCore_epochs (s : State) (core n by_ : Nat) : (s.bumpCore core n by_).epochs = s.epochs := rfl
@[simp] theorem bumpCore_heldNotes (s : State) (core n by_ : Nat) : (s.bumpCore core n by_).heldNotes = s.heldNotes := rfl
@[simp] theorem bumpCore_outbox (s : State) (core n by_ : Nat) : (s.bumpCore core n by_).outbox = s.outbox := rfl
@[simp] theorem bumpCore_ack (s : State) (core n by_ : Nat) : (s.bumpCore core n by_).ack = s.ack := rfl
@[simp] theorem bumpCore_devSeq (s : State) (core n by_ : Nat) : (s.bumpCore core n by_).devSeq = s.devSeq := rfl
@[simp] theorem bumpCore_responses (s : State) (core n by_ : Nat) : (s.bumpCore core n by_).responses = s.responses := rfl
@[simp] theorem bumpCore_link (s : State) (core n by_ : Nat) : (s.bumpCore core n by_).link = s.link := rfl
@[simp] theorem bumpCore_heldLaunch (s : State) (core n by_ : Nat) : (s.bumpCore core n by_).heldLaunch = s.heldLaunch := rfl
@[simp] theorem bumpCore_waiting (s : State) (core n by_ : Nat) : (s.bumpCore core n by_).waiting = s.waiting := rfl
@[simp] theorem bumpCore_objects (s : State) (core n by_ : Nat) : (s.bumpCore core n by_).objects = s.objects := rfl
@[simp] theorem bumpCore_codeCache (s : State) (core n by_ : Nat) : (s.bumpCore core n by_).codeCache = s.codeCache := rfl
@[simp] theorem bumpCore_measure (s : State) (core n by_ : Nat) : (s.bumpCore core n by_).measure = s.measure := rfl
@[simp] theorem bumpCore_fuse (s : State) (core n by_ : Nat) : (s.bumpCore core n by_).fuse = s.fuse := rfl
@[simp] theorem bumpCore_firmware (s : State) (core n by_ : Nat) : (s.bumpCore core n by_).firmware = s.firmware := rfl
@[simp] theorem bumpCore_fwParts (s : State) (core n by_ : Nat) : (s.bumpCore core n by_).fwParts = s.fwParts := rfl
@[simp] theorem bumpCore_clockMhz (s : State) (core n by_ : Nat) : (s.bumpCore core n by_).clockMhz = s.clockMhz := rfl
@[simp] theorem bumpCore_overLimit (s : State) (core n by_ : Nat) : (s.bumpCore core n by_).overLimit = s.overLimit := rfl
@[simp] theorem bumpCore_channels (s : State) (core n by_ : Nat) : (s.bumpCore core n by_).channels = s.channels := rfl
@[simp] theorem bumpCore_badSlices (s : State) (core n by_ : Nat) : (s.bumpCore core n by_).badSlices = s.badSlices := rfl
@[simp] theorem bumpCore_checkpoints (s : State) (core n by_ : Nat) : (s.bumpCore core n by_).checkpoints = s.checkpoints := rfl
@[simp] theorem bumpCore_replay (s : State) (core n by_ : Nat) : (s.bumpCore core n by_).replay = s.replay := rfl
@[simp] theorem bumpCore_cur (s : State) (core n by_ : Nat) : (s.bumpCore core n by_).cur = s.cur := rfl
@[simp] theorem bumpCore_agenda (s : State) (core n by_ : Nat) : (s.bumpCore core n by_).agenda = s.agenda := rfl
@[simp] theorem bumpCore_seq (s : State) (core n by_ : Nat) : (s.bumpCore core n by_).seq = s.seq := rfl
@[simp] theorem bumpCore_free (s : State) (core n by_ : Nat) : (s.bumpCore core n by_).free = s.free := rfl

end State

end Sys2Proof.Machine
end

