-- ==== Sys2Proof/Laws/Ops.lean ====
section
/-! SUPPORT. Finding what has been replaced: troupes, blocks and clusters after an update, and two updates in a row. -/

namespace Sys2Proof.Machine

namespace State

/-- A troupe that exists lies in a block of a cluster. -/
theorem troupe?_some {s : State} {r : TRef} {t : Troupe} (h : s.troupe? r = some t) :
    ∃ cl b, s.cluster? r.cluster = some cl ∧ cl.blocks[r.block]? = some b ∧ b.troupes[r.troupe]? = some t := by
  unfold troupe? block? at h
  cases hc : s.cluster? r.cluster with
  | none => simp [hc] at h
  | some cl =>
    simp only [hc] at h
    cases hb : cl.blocks[r.block]? with
    | none => simp [hb] at h
    | some b => exact ⟨cl, b, rfl, hb, by simpa [hb] using h⟩

/-- A cluster after one has been replaced. -/
theorem cluster?_setCluster (s : State) (c q : Nat) (cl : Cluster) :
    (s.setCluster c cl).cluster? q = if q = c then (s.cluster? c).map (fun _ => cl) else s.cluster? q := by
  simp only [cluster?, setCluster, aget_aset]

/-- The state after a troupe that exists has been replaced. -/
theorem setTroupe_eq {s : State} {r : TRef} {cl : Cluster} {b : Block} (hc : s.cluster? r.cluster = some cl)
    (hb : cl.blocks[r.block]? = some b) (t : Troupe) :
    s.setTroupe r t = s.setCluster r.cluster
      { cl with blocks := cl.blocks.set r.block { b with troupes := b.troupes.set r.troupe t } } := by
  simp [setTroupe, block?, hc, hb, setBlock]

/-- A troupe after it has been replaced. -/
theorem troupe?_setTroupe_same {s : State} {r : TRef} {t0 : Troupe} (h : s.troupe? r = some t0) (t : Troupe) :
    (s.setTroupe r t).troupe? r = some t := by
  obtain ⟨cl, b, hc, hb, ht⟩ := troupe?_some h
  rw [setTroupe_eq hc hb]
  obtain ⟨hl, _⟩ := List.getElem?_eq_some_iff.mp hb
  obtain ⟨hl', _⟩ := List.getElem?_eq_some_iff.mp ht
  simp [troupe?, block?, cluster?_setCluster, hc, hl, hl']

/-- Another troupe after one has been replaced. -/
theorem troupe?_setTroupe_ne {s : State} {r q : TRef} (t : Troupe) (hne : q ≠ r) :
    (s.setTroupe r t).troupe? q = s.troupe? q := by
  unfold setTroupe
  cases hb : s.block? r.cluster r.block with
  | none => rfl
  | some b =>
    unfold block? at hb
    cases hc : s.cluster? r.cluster with
    | none => simp [hc] at hb
    | some cl =>
      simp only [hc] at hb
      obtain ⟨hl, hg⟩ := List.getElem?_eq_some_iff.mp hb
      simp only [setBlock, hc, troupe?, block?, cluster?_setCluster]
      by_cases h1 : q.cluster = r.cluster
      · simp only [h1, if_true, Option.map_some]
        by_cases h2 : q.block = r.block
        · have h3 : q.troupe ≠ r.troupe := by
            intro h3; apply hne; cases q; cases r; simp_all
          simp [h2, hl, hc, hg, Ne.symm h3]
        · simp [Ne.symm h2, hc]
      · simp [h1]

/-- Two replacements of one troupe in a row. -/
theorem setTroupe_setTroupe {s : State} {r : TRef} {t0 : Troupe} (h : s.troupe? r = some t0) (t u : Troupe) :
    (s.setTroupe r t).setTroupe r u = s.setTroupe r u := by
  obtain ⟨cl, b, hc, hb, ht⟩ := troupe?_some h
  obtain ⟨hl, _⟩ := List.getElem?_eq_some_iff.mp hb
  rw [setTroupe_eq hc hb t, setTroupe_eq hc hb u]
  rw [setTroupe_eq (cl := { cl with blocks := cl.blocks.set r.block { b with troupes := b.troupes.set r.troupe t } })
    (b := { b with troupes := b.troupes.set r.troupe t }) (by simp [cluster?_setCluster, hc])
    (by simp [hl])]
  simp [setCluster, List.set_set]

/-- A troupe replaced by itself. -/
theorem setTroupe_self {s : State} {r : TRef} {t : Troupe} (h : s.troupe? r = some t) : s.setTroupe r t = s := by
  obtain ⟨cl, b, hc, hb, ht⟩ := troupe?_some h
  rw [setTroupe_eq hc hb]
  obtain ⟨hl', hg'⟩ := List.getElem?_eq_some_iff.mp ht
  obtain ⟨hl, hg⟩ := List.getElem?_eq_some_iff.mp hb
  have e1 : b.troupes.set r.troupe t = b.troupes := by rw [← hg', List.set_getElem_self]
  have e2 : cl.blocks.set r.block b = cl.blocks := by rw [← hg, List.set_getElem_self]
  rw [e1]
  show s.setCluster r.cluster { cl with blocks := cl.blocks.set r.block b } = s
  rw [e2]
  simp only [setCluster]
  rw [aset_same _ _ _ hc]

theorem modTroupe_of {s : State} {r : TRef} {t : Troupe} (h : s.troupe? r = some t) (f : Troupe → Troupe) :
    s.modTroupe r f = s.setTroupe r (f t) := by simp [modTroupe, h]

/-- A change of a troupe that has just been replaced. -/
theorem modTroupe_setTroupe {s : State} {r : TRef} {t0 : Troupe} (h : s.troupe? r = some t0) (t : Troupe)
    (f : Troupe → Troupe) : (s.setTroupe r t).modTroupe r f = s.setTroupe r (f t) := by
  rw [modTroupe_of (troupe?_setTroupe_same h t), setTroupe_setTroupe h]

/-- Giving up a slot touches no troupe. -/
@[simp] theorem troupe?_freeSlot (s : State) (r q : TRef) : (s.freeSlot r).troupe? q = s.troupe? q := rfl

theorem freeSlot_setTroupe (s : State) (r : TRef) (t : Troupe) :
    (s.setTroupe r t).freeSlot r = (s.freeSlot r).setTroupe r t := by
  unfold setTroupe
  show _ = match s.block? r.cluster r.block with
    | some b => (s.freeSlot r).setBlock r.cluster r.block { b with troupes := b.troupes.set r.troupe t }
    | none => s.freeSlot r
  cases s.block? r.cluster r.block with
  | none => rfl
  | some b =>
    unfold setBlock
    show _ = match s.cluster? r.cluster with
      | some cl => (s.freeSlot r).setCluster r.cluster
          { cl with blocks := cl.blocks.set r.block { b with troupes := b.troupes.set r.troupe t } }
      | none => s.freeSlot r
    cases s.cluster? r.cluster <;> rfl

/-- What the environment of an issuing word says. -/
theorem env?_some {s : State} {x : Env} (h : s.env? = some x) :
    s.cur = some x.c ∧ s.cluster? x.r.cluster = some x.cl ∧ x.cl.blocks[x.r.block]? = some x.b ∧
      x.b.troupes[x.r.troupe]? = some x.t ∧ s.launch? x.cl.launch = some x.la := by
  unfold env? at h
  split at h
  · cases h
  · next c hc =>
    split at h
    · cases h
    · next cl hcl =>
      split at h
      · cases h
      · next b hb =>
        split at h
        · next t la ht hla =>
          cases h
          exact ⟨hc, hcl, hb, ht, hla⟩
        · cases h

/-- The issuing troupe. -/
theorem env?_troupe {s : State} {x : Env} (h : s.env? = some x) : s.troupe? x.r = some x.t := by
  obtain ⟨_, hc, hb, ht, _⟩ := env?_some h
  simp [troupe?, block?, hc, hb, ht]

end State

end Sys2Proof.Machine
end

