-- ==== Sys2Proof/Laws/Regs.lean ====
section
/-! SUPPORT. Registers of a troupe: what each write makes every register read as, late results included. -/

namespace Sys2Proof.Machine

namespace Troupe

/-! ## Keys of v cells -/

/-- Two v cells share a key only when they are one cell. -/
theorem vkey_inj {r q l m : Nat} (hl : l < 128) (hm : m < 128) : r * 128 + l = q * 128 + m ↔ r = q ∧ l = m := by omega

/-! ## Pending results -/

theorem lookup_filter_ne {α : Type} (xs : List (Nat × α)) (dead : Nat → Bool) (k : Nat) :
    (xs.filter (fun c => !dead c.1)).lookup k = if dead k then none else xs.lookup k := by
  induction xs with
  | nil => simp
  | cons e xs ih =>
    obtain ⟨a, y⟩ := e
    by_cases h : dead a = true
    · rw [List.filter_cons_of_neg (by simp [h]), ih, List.lookup_cons]
      by_cases hk : k = a
      · subst hk; simp [h]
      · have : (k == a) = false := by simpa using hk
        simp [this]
    · rw [List.filter_cons_of_pos (by simp [h]), List.lookup_cons, List.lookup_cons, ih]
      by_cases hk : k = a
      · subst hk; simp [h]
      · have : (k == a) = false := by simpa using hk
        simp [this]

theorem pendingV_dropV (late : List Late) (dead : Nat → Bool) (k : Nat) :
    pendingV (dropV dead late) k = if dead k then none else pendingV late k := by
  induction late with
  | nil => simp [dropV, pendingV]
  | cons p ps ih =>
    simp only [dropV, List.map_cons, pendingV] at ih ⊢
    rw [ih, lookup_filter_ne]
    split <;> simp_all

theorem pendingS_drop (late : List Late) (r k : Nat) :
    pendingS (late.map (fun p => { p with s := p.s.filter (fun c => c.1 ≠ r) })) k
      = if k = r then none else pendingS late k := by
  induction late with
  | nil => simp [pendingS]
  | cons p ps ih =>
    simp only [List.map_cons, pendingS] at ih ⊢
    rw [ih]
    have := lookup_filter_ne p.s (fun c => decide (c = r)) k
    simp only [decide_not] at this ⊢
    rw [this]
    by_cases h : k = r <;> simp [h]

theorem pendingSc_drop (late : List Late) (ws : List (Nat × Byte)) (k : Nat) :
    pendingSc (late.map (fun p => { p with sc := p.sc.filter (fun c => !ws.any (fun w => w.1 = c.1)) })) k
      = if ws.any (fun w => w.1 = k) then none else pendingSc late k := by
  induction late with
  | nil => simp [pendingSc]
  | cons p ps ih =>
    simp only [List.map_cons, pendingSc] at ih ⊢
    rw [ih, lookup_filter_ne p.sc (fun c => ws.any (fun w => decide (w.1 = c))) k]
    split <;> simp_all

theorem pendingV_append (late : List Late) (p : Late) (k : Nat) :
    pendingV (late ++ [p]) k = (p.v.lookup k).orElse (fun _ => pendingV late k) := by
  induction late with
  | nil => cases h : p.v.lookup k <;> simp [pendingV, h]
  | cons q qs ih =>
    simp only [List.cons_append, pendingV]
    rw [ih]
    cases p.v.lookup k <;> rfl

theorem pendingS_append (late : List Late) (p : Late) (k : Nat) :
    pendingS (late ++ [p]) k = (p.s.lookup k).orElse (fun _ => pendingS late k) := by
  induction late with
  | nil => cases h : p.s.lookup k <;> simp [pendingS, h]
  | cons q qs ih =>
    simp only [List.cons_append, pendingS]
    rw [ih]
    cases p.s.lookup k <;> rfl

theorem pendingSc_append (late : List Late) (p : Late) (k : Nat) :
    pendingSc (late ++ [p]) k = (p.sc.lookup k).orElse (fun _ => pendingSc late k) := by
  induction late with
  | nil => cases h : p.sc.lookup k <;> simp [pendingSc, h]
  | cons q qs ih =>
    simp only [List.cons_append, pendingSc]
    rw [ih]
    cases p.sc.lookup k <;> rfl

/-! ## v cells -/

/-- A cell that no write names reads as before. -/
theorem readV_writeV_ne (t : Troupe) (ws : List (Nat × Word)) (r l : Nat) (h : ∀ w ∈ ws, w.1 ≠ r * 128 + l) :
    (t.writeV ws).readV r l = t.readV r l := by
  have hd : (ws.any fun w => decide (w.1 = r * 128 + l)) = false := by
    simp only [List.any_eq_false, decide_eq_true_eq]; exact h
  simp only [readV, writeV, pendingV_dropV, hd, sget_ssets_ne 0 ws t.v _ h]
  rfl

/-- A cell whose writes all carry one value reads as that value. -/
theorem readV_writeV_mem (t : Troupe) (ws : List (Nat × Word)) (r l : Nat) (x : Word) (hm : (r * 128 + l, x) ∈ ws)
    (h : ∀ w ∈ ws, w.1 = r * 128 + l → w.2 = x) : (t.writeV ws).readV r l = x := by
  have hd : (ws.any fun w => decide (w.1 = r * 128 + l)) = true := by
    simp only [List.any_eq_true, decide_eq_true_eq]; exact ⟨_, hm, rfl⟩
  simp only [readV, writeV, pendingV_dropV, hd, sget_ssets_mem 0 ws t.v _ x hm h]
  rfl

theorem mem_lanesOf {w : Nat} {m : Lanes} {l : Nat} : l ∈ lanesOf w m ↔ l < w ∧ m.getLsbD l = true := by
  simp [lanesOf]

theorem lane_lt {m : Lanes} {l : Nat} (h : m.getLsbD l = true) : l < 128 := by
  by_cases hl : l < 128
  · exact hl
  · rw [BitVec.getLsbD_of_ge m l (by omega)] at h; cases h

theorem mem_cellsV {t : Troupe} {d : Nat} {sel : Lanes} {f : Nat → Word} {c : Nat × Word} :
    c ∈ t.cellsV d sel f ↔ ∃ l, l < t.width ∧ sel.getLsbD l = true ∧ c = (d * 128 + l, f l) := by
  simp only [cellsV, List.mem_map, mem_lanesOf]
  constructor
  · rintro ⟨l, ⟨h1, h2⟩, rfl⟩; exact ⟨l, h1, h2, rfl⟩
  · rintro ⟨l, h1, h2, rfl⟩; exact ⟨l, ⟨h1, h2⟩, rfl⟩

/-- The cells of a group of registers. -/
def groupCells (t : Troupe) (d : Nat) (sel : Lanes) (fs : List (Nat → Word)) : List (Nat × Word) :=
  (List.range fs.length).flatMap (fun i => t.cellsV (d + i) sel (fs.getD i (fun _ => 0)))

theorem mem_groupCells {t : Troupe} {d : Nat} {sel : Lanes} {fs : List (Nat → Word)} {c : Nat × Word} :
    c ∈ t.groupCells d sel fs ↔
      ∃ i l, i < fs.length ∧ l < t.width ∧ sel.getLsbD l = true ∧ c = ((d + i) * 128 + l, fs.getD i (fun _ => 0) l) := by
  simp only [groupCells, List.mem_flatMap, List.mem_range, mem_cellsV]
  constructor
  · rintro ⟨i, hi, l, h1, h2, rfl⟩; exact ⟨i, l, hi, h1, h2, rfl⟩
  · rintro ⟨i, l, hi, h1, h2, rfl⟩; exact ⟨i, hi, l, h1, h2, rfl⟩

/-- The v registers after a group of registers has been written in the selected lanes. -/
theorem readV_group (t : Troupe) (d : Nat) (sel : Lanes) (fs : List (Nat → Word)) (r l : Nat) (hl : l < 128) :
    (t.writeV (t.groupCells d sel fs)).readV r l
      = if d ≤ r ∧ r < d + fs.length ∧ l < t.width ∧ sel.getLsbD l = true then fs.getD (r - d) (fun _ => 0) l
        else t.readV r l := by
  split
  · next h =>
    obtain ⟨h1, h2, h3, h4⟩ := h
    apply readV_writeV_mem
    · exact mem_groupCells.mpr ⟨r - d, l, by omega, h3, h4, by
        have : d + (r - d) = r := by omega
        rw [this]⟩
    · intro w hw hk
      obtain ⟨i, m, hi, hm, hs, rfl⟩ := mem_groupCells.mp hw
      have := (vkey_inj (lane_lt hs) hl).mp hk
      obtain ⟨e1, e2⟩ := this
      subst e2
      have : r - d = i := by omega
      rw [this]
  · next h =>
    apply readV_writeV_ne
    intro w hw hk
    obtain ⟨i, m, hi, hm, hs, rfl⟩ := mem_groupCells.mp hw
    have := (vkey_inj (lane_lt hs) hl).mp hk
    obtain ⟨e1, e2⟩ := this
    subst e2
    exact h ⟨by omega, by omega, hm, hs⟩

/-! ## s cells -/

theorem readS_writeS (t : Troupe) (r q : Nat) (x : Word) :
    (t.writeS r x).readS q = if q = r then x else t.readS q := by
  simp only [readS, writeS, pendingS_drop, sget_sset]
  split <;> simp_all

@[simp] theorem readV_writeS (t : Troupe) (r : Nat) (x : Word) (q l : Nat) : (t.writeS r x).readV q l = t.readV q l := by
  have : ∀ (late : List Late) (k : Nat),
      pendingV (late.map (fun p => { p with s := p.s.filter (fun c => c.1 ≠ r) })) k = pendingV late k := by
    intro late k
    induction late with
    | nil => rfl
    | cons p ps ih => simp only [List.map_cons, pendingV, ih]
  simp only [readV, writeS, this]

@[simp] theorem readTag_writeS (t : Troupe) (r : Nat) (x : Word) (q b : Nat) :
    (t.writeS r x).readTag q b = t.readTag q b := by
  have : ∀ (late : List Late) (k : Nat),
      pendingSc (late.map (fun p => { p with s := p.s.filter (fun c => c.1 ≠ r) })) k = pendingSc late k := by
    intro late k
    induction late with
    | nil => rfl
    | cons p ps ih => simp only [List.map_cons, pendingSc, ih]
  simp only [readTag, writeS, this]

@[simp] theorem readS_writeV (t : Troupe) (ws : List (Nat × Word)) (q : Nat) : (t.writeV ws).readS q = t.readS q := by
  have : ∀ (late : List Late) (dead : Nat → Bool) (k : Nat), pendingS (dropV dead late) k = pendingS late k := by
    intro late dead k
    induction late with
    | nil => rfl
    | cons p ps ih =>
      simp only [dropV, List.map_cons, pendingS] at ih ⊢
      rw [ih]
  simp only [readS, writeV, this]

@[simp] theorem readTag_writeV (t : Troupe) (ws : List (Nat × Word)) (q b : Nat) :
    (t.writeV ws).readTag q b = t.readTag q b := by
  have : ∀ (late : List Late) (dead : Nat → Bool) (k : Nat), pendingSc (dropV dead late) k = pendingSc late k := by
    intro late dead k
    induction late with
    | nil => rfl
    | cons p ps ih =>
      simp only [dropV, List.map_cons, pendingSc] at ih ⊢
      rw [ih]
  simp only [readTag, writeV, this]

/-! ## Tags -/

@[simp] theorem readV_writeTags (t : Troupe) (ws : List (Nat × Byte)) (r l : Nat) :
    (t.writeTags ws).readV r l = t.readV r l := by
  have : ∀ (late : List Late) (k : Nat),
      pendingV (late.map (fun p => { p with sc := p.sc.filter (fun c => !ws.any (fun w => w.1 = c.1)) })) k
        = pendingV late k := by
    intro late k
    induction late with
    | nil => rfl
    | cons p ps ih => simp only [List.map_cons, pendingV, ih]
  simp only [readV, writeTags, this]

@[simp] theorem readS_writeTags (t : Troupe) (ws : List (Nat × Byte)) (r : Nat) :
    (t.writeTags ws).readS r = t.readS r := by
  have : ∀ (late : List Late) (k : Nat),
      pendingS (late.map (fun p => { p with sc := p.sc.filter (fun c => !ws.any (fun w => w.1 = c.1)) })) k
        = pendingS late k := by
    intro late k
    induction late with
    | nil => rfl
    | cons p ps ih => simp only [List.map_cons, pendingS, ih]
  simp only [readS, writeTags, this]

/-- A tag byte that no write names reads as before. -/
theorem readTag_writeTags_ne (t : Troupe) (ws : List (Nat × Byte)) (r b : Nat) (h : ∀ w ∈ ws, w.1 ≠ r * 32 + b) :
    (t.writeTags ws).readTag r b = t.readTag r b := by
  have hd : (ws.any fun w => decide (w.1 = r * 32 + b)) = false := by
    simp only [List.any_eq_false, decide_eq_true_eq]; exact h
  simp only [readTag, writeTags, pendingSc_drop, hd, sget_ssets_ne 0x7F ws t.sc _ h]
  rfl

/-- A tag byte whose writes all carry one value reads as that value, unless it lies beyond every block of the troupe (R46). -/
theorem readTag_writeTags_mem (t : Troupe) (ws : List (Nat × Byte)) (r b : Nat) (x : Byte) (hm : (r * 32 + b, x) ∈ ws)
    (h : ∀ w ∈ ws, w.1 = r * 32 + b → w.2 = x) :
    (t.writeTags ws).readTag r b = if t.width ≤ 4 * b then 0 else x := by
  have hd : (ws.any fun w => decide (w.1 = r * 32 + b)) = true := by
    simp only [List.any_eq_true, decide_eq_true_eq]; exact ⟨_, hm, rfl⟩
  simp only [readTag, writeTags, pendingSc_drop, hd, sget_ssets_mem 0x7F ws t.sc _ x hm h]
  rfl

/-- A tag byte beyond every block of the troupe reads as 0 (R46). -/
theorem readTag_beyond (t : Troupe) (r b : Nat) (h : t.width ≤ 4 * b) : t.readTag r b = 0 := if_pos h

/-! ## Results -/

@[simp] theorem readV_noteV (t : Troupe) (rs : List Nat) (r l : Nat) : (t.noteV rs).readV r l = t.readV r l := rfl
@[simp] theorem readS_noteV (t : Troupe) (rs : List Nat) (r : Nat) : (t.noteV rs).readS r = t.readS r := rfl
@[simp] theorem readTag_noteV (t : Troupe) (rs : List Nat) (r b : Nat) : (t.noteV rs).readTag r b = t.readTag r b := rfl
@[simp] theorem readV_pushLatch (t : Troupe) (x : Latch) (r l : Nat) : (t.pushLatch x).readV r l = t.readV r l := rfl
@[simp] theorem readS_pushLatch (t : Troupe) (x : Latch) (r : Nat) : (t.pushLatch x).readS r = t.readS r := rfl
@[simp] theorem readTag_pushLatch (t : Troupe) (x : Latch) (r b : Nat) : (t.pushLatch x).readTag r b = t.readTag r b := rfl

/-- The v registers after an op's v results (R86, R98). -/
theorem readV_produceV (t : Troupe) (w : Bool) (d : Nat) (sel : Lanes) (fs : List (Nat → Word)) (tag : List (Nat × Byte))
    (r l : Nat) (hl : l < 128) :
    (t.produceV w d sel fs tag).readV r l
      = if w = false ∧ d ≤ r ∧ r < d + fs.length ∧ l < t.width ∧ sel.getLsbD l = true then fs.getD (r - d) (fun _ => 0) l
        else t.readV r l := by
  unfold produceV
  cases w
  · simp only [readV_pushLatch, readV_noteV, Bool.false_eq_true, if_false, readV_writeTags, true_and]
    exact readV_group t d sel fs r l hl
  · simp

/-- No s register changes by v results. -/
@[simp] theorem readS_produceV (t : Troupe) (w : Bool) (d : Nat) (sel : Lanes) (fs : List (Nat → Word))
    (tag : List (Nat × Byte)) (r : Nat) : (t.produceV w d sel fs tag).readS r = t.readS r := by
  unfold produceV; cases w <;> simp

/-- The tag bytes after an op's v results: those that the op gives of register `d`. -/
theorem readTag_produceV_ne (t : Troupe) (w : Bool) (d : Nat) (sel : Lanes) (fs : List (Nat → Word))
    (tag : List (Nat × Byte)) (r b : Nat) (h : ∀ e ∈ tag, d * 32 + e.1 ≠ r * 32 + b) :
    (t.produceV w d sel fs tag).readTag r b = t.readTag r b := by
  unfold produceV
  cases w
  · simp only [readTag_pushLatch, Bool.false_eq_true, if_false]
    rw [readTag_noteV, readTag_writeTags_ne, readTag_writeV]
    intro x hx
    obtain ⟨e, he, rfl⟩ := List.mem_map.mp hx
    exact h e he
  · simp

/-- The s registers after a list of writes from `d` on. -/
theorem readS_writes (n : Nat) (t : Troupe) (d : Nat) (f : Nat → Word) (q : Nat) :
    ((List.range n).foldl (fun t i => t.writeS (d + i) (f i)) t).readS q
      = if d ≤ q ∧ q < d + n then f (q - d) else t.readS q := by
  induction n with
  | zero => simp only [List.range_zero, List.foldl_nil]; rw [if_neg (by omega)]
  | succ n ih =>
    rw [List.range_succ, List.foldl_append, List.foldl_cons, List.foldl_nil, readS_writeS, ih]
    by_cases h1 : q = d + n
    · subst h1; simp
    · rw [if_neg h1]
      by_cases h2 : d ≤ q ∧ q < d + n
      · rw [if_pos h2, if_pos (by omega)]
      · rw [if_neg h2, if_neg (by omega)]

theorem readV_writes (n : Nat) (t : Troupe) (d : Nat) (f : Nat → Word) (q l : Nat) :
    ((List.range n).foldl (fun t i => t.writeS (d + i) (f i)) t).readV q l = t.readV q l := by
  induction n with
  | zero => rfl
  | succ n ih => rw [List.range_succ, List.foldl_append, List.foldl_cons, List.foldl_nil, readV_writeS, ih]

theorem readTag_writes (n : Nat) (t : Troupe) (d : Nat) (f : Nat → Word) (q b : Nat) :
    ((List.range n).foldl (fun t i => t.writeS (d + i) (f i)) t).readTag q b = t.readTag q b := by
  induction n with
  | zero => rfl
  | succ n ih => rw [List.range_succ, List.foldl_append, List.foldl_cons, List.foldl_nil, readTag_writeS, ih]

/-- The s registers after an op's s results (R86, R98). -/
theorem readS_produceS (t : Troupe) (u w on : Bool) (d : Nat) (xs : List Word) (q : Nat) :
    (t.produceS u w on d xs).readS q
      = if w = false ∧ on = true ∧ d ≤ q ∧ q < d + xs.length then xs.getD (q - d) 0 else t.readS q := by
  unfold produceS
  cases w <;> cases on <;> simp [readS_writes]

@[simp] theorem readV_produceS (t : Troupe) (u w on : Bool) (d : Nat) (xs : List Word) (q l : Nat) :
    (t.produceS u w on d xs).readV q l = t.readV q l := by
  unfold produceS
  cases w <;> cases on <;> simp [readV_writes]

@[simp] theorem readTag_produceS (t : Troupe) (u w on : Bool) (d : Nat) (xs : List Word) (q b : Nat) :
    (t.produceS u w on d xs).readTag q b = t.readTag q b := by
  unfold produceS
  cases w <;> cases on <;> simp [readTag_writes]

/-! ## Late results -/

theorem lookup_of_mem_unique {α : Type} (xs : List (Nat × α)) (k : Nat) (x : α) (hm : (k, x) ∈ xs)
    (h : ∀ w ∈ xs, w.1 = k → w.2 = x) : xs.lookup k = some x := by
  induction xs with
  | nil => cases hm
  | cons e xs ih =>
    obtain ⟨a, y⟩ := e
    rw [List.lookup_cons]
    by_cases hk : k = a
    · subst hk
      have : y = x := h (k, y) List.mem_cons_self rfl
      simp [this]
    · have hb : (k == a) = false := by simpa using hk
      rw [hb]
      refine ih ?_ (fun w hw => h w (List.mem_cons_of_mem _ hw))
      rcases List.mem_cons.mp hm with e | e
      · cases e; exact absurd rfl hk
      · exact e

theorem lookup_none {α : Type} (xs : List (Nat × α)) (k : Nat) (h : ∀ w ∈ xs, w.1 ≠ k) : xs.lookup k = none := by
  induction xs with
  | nil => rfl
  | cons e xs ih =>
    obtain ⟨a, y⟩ := e
    rw [List.lookup_cons]
    have hb : (k == a) = false := by
      have := h (a, y) List.mem_cons_self
      simpa using Ne.symm this
    rw [hb]
    exact ih (fun w hw => h w (List.mem_cons_of_mem _ hw))

/-- The v registers after an op whose v results arrive later: a read waits for them (R97). -/
theorem readV_produceLateV (t : Troupe) (sfu w : Bool) (d : Nat) (sel : Lanes) (fs : List (Nat → Word))
    (tag : List (Nat × Byte)) (r l : Nat) (hl : l < 128) :
    (t.produceLateV sfu w d sel fs tag).readV r l
      = if w = false ∧ d ≤ r ∧ r < d + fs.length ∧ l < t.width ∧ sel.getLsbD l = true then fs.getD (r - d) (fun _ => 0) l
        else t.readV r l := by
  cases w
  · simp only [true_and]
    show ((pendingV (t.late ++ [_]) (r * 128 + l)).getD (sget 0 t.v (r * 128 + l))) = _
    rw [pendingV_append]
    show (((t.groupCells d sel fs).lookup (r * 128 + l)).orElse _).getD _ = _
    split
    · next h =>
      obtain ⟨h1, h2, h3, h4⟩ := h
      rw [lookup_of_mem_unique _ _ (fs.getD (r - d) (fun _ => 0) l)]
      · rfl
      · exact mem_groupCells.mpr ⟨r - d, l, by omega, h3, h4, by
          have : d + (r - d) = r := by omega
          rw [this]⟩
      · intro c hc hk
        obtain ⟨i, m, hi, hm, hs, rfl⟩ := mem_groupCells.mp hc
        obtain ⟨e1, e2⟩ := (vkey_inj (lane_lt hs) hl).mp hk
        subst e2
        have : r - d = i := by omega
        rw [this]
    · next h =>
      rw [lookup_none]
      · rfl
      · intro c hc hk
        obtain ⟨i, m, hi, hm, hs, rfl⟩ := mem_groupCells.mp hc
        obtain ⟨e1, e2⟩ := (vkey_inj (lane_lt hs) hl).mp hk
        subst e2
        exact h ⟨by omega, by omega, hm, hs⟩
  · simp only [Bool.true_eq_false, false_and, if_false]
    show ((pendingV (t.late ++ [_]) (r * 128 + l)).getD (sget 0 t.v (r * 128 + l))) = _
    rw [pendingV_append]
    rfl

@[simp] theorem readS_produceLateV (t : Troupe) (sfu w : Bool) (d : Nat) (sel : Lanes) (fs : List (Nat → Word))
    (tag : List (Nat × Byte)) (q : Nat) : (t.produceLateV sfu w d sel fs tag).readS q = t.readS q := by
  cases w <;>
  · show ((pendingS (t.late ++ [_]) q).getD (sget 0 t.s q)) = _
    rw [pendingS_append]
    rfl

end Troupe

end Sys2Proof.Machine
end

