-- ==== Sys2Proof/Laws/Issue.lean ====
section
/-! SUPPORT. What follows a word that took effect: the troupe that goes on, and the issue slot. -/

namespace Sys2Proof.Machine

/-- The troupe when its run has ended. -/
def Troupe.restRun (t : Troupe) : Troupe := { t with midRun := false, run := Troupe.freshRun }

/-- What a word of `n` instructions that took effect leaves of its troupe `t`, whose frontier is not empty. -/
def Troupe.wordEnd (ends : Bool) (n : Nat) (x : Env) (hdr : DWord) (t : Troupe) : Troupe :=
  if ends || x.c.last then (t.goOn n x hdr).restRun else t.goOn n x hdr

namespace State

theorem proceed_setTroupe {s : State} {x : Env} {t0 : Troupe} (h : s.troupe? x.r = some t0) (t : Troupe) (n : Nat)
    (hdr : DWord) : (s.setTroupe x.r t).proceed n x hdr = s.setTroupe x.r (t.goOn n x hdr) :=
  modTroupe_setTroupe h _ _

theorem endRun_setTroupe {s : State} {r : TRef} {t0 : Troupe} (h : s.troupe? r = some t0) (t : Troupe) :
    (s.setTroupe r t).endRun r = (s.setTroupe r t.restRun).freeSlot r := by
  simp only [endRun]
  rw [modTroupe_setTroupe h]
  rfl

end State

/-! ## The troupe goes on -/

theorem moveLanes_ne_nil (e : FEntry) (es : List FEntry) (w : DWord) (pc : DWord) (he : e.mask ≠ 0) :
    moveLanes (e :: es) [(⟨e.mask, pc, .any⟩, w)] ≠ [] := by
  simp only [moveLanes, List.foldl_cons, List.foldl_nil]
  have key : ∀ (f : FEntry) (fs : List FEntry), f.mask ≠ 0 → ∃ g ∈ addEntry f fs, g.mask ≠ 0 := by
    intro f fs hf
    induction fs with
    | nil => exact ⟨f, by simp [addEntry], hf⟩
    | cons g gs ih =>
      simp only [addEntry]
      split
      · refine ⟨_, List.mem_cons_self, ?_⟩
        intro h0
        apply hf
        have : (g.mask ||| f.mask) &&& f.mask = f.mask := by
          ext i hi; simp only [BitVec.getElem_and, BitVec.getElem_or]; cases g.mask[i] <;> cases f.mask[i] <;> rfl
        have h0' : g.mask ||| f.mask = 0 := h0
        rw [h0'] at this
        simpa using this.symm
      · obtain ⟨a, ha, hb⟩ := ih
        exact ⟨a, List.mem_cons_of_mem _ ha, hb⟩
  obtain ⟨g, hg, hm⟩ := key ⟨pc, hdrPrio w, e.mask, .header, 0, 0, hdrLive w⟩ es he
  intro h
  have : g ∈ List.filter (fun f => decide (f.mask ≠ 0))
      ({ e with mask := e.mask &&& ~~~(0 ||| e.mask) } :: addEntry ⟨pc, hdrPrio w, e.mask, .header, 0, 0, hdrLive w⟩ es) := by
    rw [List.mem_filter]
    exact ⟨List.mem_cons_of_mem _ hg, by simpa using hm⟩
  simp only [h, List.not_mem_nil] at this

/-- A troupe whose issuing entry still has lanes goes on ready. -/
theorem Troupe.goOn_ready (n : Nat) (x : Env) (hdr : DWord) (t : Troupe) (e : FEntry) (es : List FEntry)
    (hf : t.frontier = e :: es) (he : e.mask ≠ 0) :
    (t.goOn n x hdr).status = .ready ∧ (t.goOn n x hdr).frontier ≠ [] := by
  have he' : e.mask ≠ 0#128 := he
  unfold goOn
  cases hl : x.c.last
  · simp [retire, advance, finish, hf, he']
  · simp only [if_true, hf, he, if_false]
    refine ⟨rfl, ?_⟩
    simpa only [passYield, ne_eq, List.map_eq_nil_iff] using moveLanes_ne_nil e es hdr _ he

/-- What goes on changes the frontier, the run, the resume mask and the counts alone. -/
theorem Troupe.goOn_frame (n : Nat) (x : Env) (hdr : DWord) (t : Troupe) (e : FEntry) (es : List FEntry)
    (hf : t.frontier = e :: es) (he : e.mask ≠ 0) :
    t.goOn n x hdr = { t.retire n x.c.len with frontier := (t.goOn n x hdr).frontier } := by
  have he' : e.mask ≠ 0#128 := he
  unfold goOn
  cases hl : x.c.last
  · simp [retire, advance, finish, hf, he']
  · simp [hf, he']

/-- A word that took effect in the troupe alone, with lanes left to go on: the troupe at the next word or block, and its
slot given up when the run ends. -/
theorem complete_setTroupe {s s0 : State} {x : Env} {t0 t : Troupe} (h : s.troupe? x.r = some t0) (ends : Bool) (n : Nat)
    (hdr : DWord) (e : FEntry) (es : List FEntry) (hf : t.frontier = e :: es) (he : e.mask ≠ 0)
    (hh : t.held = x.t.held) :
    State.complete ends n x s0 (.ok hdr) (s.setTroupe x.r t)
      = (if ends || x.c.last then (s.setTroupe x.r (t.wordEnd ends n x hdr)).freeSlot x.r
         else s.setTroupe x.r (t.wordEnd ends n x hdr)) := by
  have hr := Troupe.goOn_ready n x hdr t e es hf he
  have hgo : (s.setTroupe x.r (t.goOn n x hdr)).goesOn x.r = true := by
    simp [State.goesOn, State.troupe?_setTroupe_same h, hr.1, hr.2]
  have hheld : (t.goOn n x hdr).held = x.t.held := by
    rw [Troupe.goOn_frame n x hdr t e es hf he]; exact hh
  simp only [State.complete]
  rw [State.proceed_setTroupe h]
  simp only [hgo, Bool.not_true, Bool.or_false, Troupe.wordEnd]
  split
  · simp only [State.endAfter, State.troupe?_setTroupe_same h, hheld]
    have : (x.t.held.isNone && x.t.held.isSome) = false := by cases x.t.held <;> rfl
    simp only [this, Bool.false_eq_true, if_false]
    exact State.endRun_setTroupe h _
  · rfl

/-- An op that passes its checks stands where it may. -/
theorem mustEnd_of_opTrap {code : Nat} {o : Op} {x : Env} (hk : opTrap code o x = none) :
    (mustEnd code && !x.c.last) = false := by
  cases h : (mustEnd code && !x.c.last)
  · rfl
  · simp only [opTrap] at hk
    split at hk
    · simp at hk
    · split at hk <;> simp_all

/-- A single op that passes its checks: what follows its own effect. -/
theorem issueOp_ok {code : Nat} {i : Instr} {o : Op} {body : Env → State → Res} {s : State} {x : Env}
    (he : s.env? = some x) (hk : opTrap code o x = none) (hr : x.t.rm = some 0 → opLevel code x.t o = .lanes) :
    issueOp code i o body s
      = .next (settle (o.endsRun || endsOwn code x.det) 1 i x s (s.fallCheck x (fallLanes code o x)) (body x s)) := by
  simp only [issueOp, he, runOp, hk, ite_self, mustEnd_of_opTrap hk, Bool.or_false]
  split
  · next h =>
    simp only [Bool.and_eq_true, decide_eq_true_eq] at h
    exact absurd (hr h.1) h.2
  · rfl

end Sys2Proof.Machine
end

