-- ==== Sys2Proof/Laws/Memory.lean ====
section
/-! SUPPORT. Memory: every operation keeps the canonical form, and a read after a write. -/

namespace Sys2Proof.Machine

/-- Reset memory has the canonical form. -/
theorem reset_wf : Memory.wf State.reset.mem := rfl

theorem keyed_mem {α : Type} (xs : List α) (k : Nat) (c : Nat × α) :
    c ∈ keyed k xs ↔ ∃ i, ∃ h : i < xs.length, c = (k + i, xs[i]) := by
  induction xs generalizing k with
  | nil => simp [keyed]
  | cons x xs ih =>
    simp only [keyed, List.mem_cons, ih]
    constructor
    · rintro (rfl | ⟨i, h, rfl⟩)
      · exact ⟨0, by simp, rfl⟩
      · refine ⟨i + 1, by simpa using h, ?_⟩
        simp only [List.getElem_cons_succ, Prod.mk.injEq, and_true]; omega
    · rintro ⟨i, h, rfl⟩
      cases i with
      | zero => exact Or.inl rfl
      | succ i =>
        refine Or.inr ⟨i, by simpa using h, ?_⟩
        simp only [List.getElem_cons_succ, Prod.mk.injEq, and_true]; omega

namespace State

/-! ## Reads after writes -/

/-- A byte that no write names reads as before. -/
theorem rdByte_wrBytes_ne (s : State) (ws : List Host.Cell) (k : Nat) (h : ∀ w ∈ ws, w.1 ≠ k) :
    (s.wrBytes ws).rdByte k = s.rdByte k := sget_ssets_ne emptyByte ws s.mem k h

/-- A byte whose writes all carry one value reads as that value. -/
theorem rdByte_wrBytes_mem (s : State) (ws : List Host.Cell) (k : Nat) (b : Byte) (hm : (k, b) ∈ ws)
    (h : ∀ w ∈ ws, w.1 = k → w.2 = b) : (s.wrBytes ws).rdByte k = b := sget_ssets_mem emptyByte ws s.mem k b hm h

/-- Bytes written in a row read as written; every other byte reads as before. -/
theorem rdByte_wrList (s : State) (k q : Nat) (bs : List Byte) :
    (s.wrList k bs).rdByte q
      = if h : k ≤ q ∧ q < k + bs.length then bs[q - k]'(by omega) else s.rdByte q := by
  unfold wrList
  split
  · next h =>
    apply rdByte_wrBytes_mem
    · rw [keyed_mem]
      refine ⟨q - k, by omega, ?_⟩
      have : k + (q - k) = q := by omega
      rw [this]
    · intro w hw hk
      obtain ⟨i, hi, rfl⟩ := (keyed_mem bs k w).mp hw
      have : q - k = i := by
        have : k + i = q := hk
        omega
      simp only [this]
  · next h =>
    apply rdByte_wrBytes_ne
    intro w hw hk
    obtain ⟨i, hi, rfl⟩ := (keyed_mem bs k w).mp hw
    have hk' : k + i = q := hk
    exact h ⟨by omega, by omega⟩

/-! ## The canonical form -/

theorem wf_wrBytes (s : State) (ws : List Host.Cell) (h : Memory.wf s.mem) : Memory.wf (s.wrBytes ws).mem :=
  swf_ssets emptyByte ws s.mem h

theorem wf_wrList (s : State) (k : Nat) (bs : List Byte) (h : Memory.wf s.mem) : Memory.wf (s.wrList k bs).mem :=
  wf_wrBytes s _ h

theorem mem_foldl_wrSide (ks : List Nat) (line : Nat) (s : State) :
    (ks.foldl (fun s b => s.wrSide line b 0) s).mem = s.mem := by
  induction ks generalizing s with
  | nil => rfl
  | cons k ks ih => rw [List.foldl_cons, ih]; rfl

theorem wf_wrBlock (s : State) (T : Fmt) (base slot : Nat) (ws : List Host.Cell) (scale : Byte) (h : Memory.wf s.mem) :
    Memory.wf (s.wrBlock T base slot ws scale).mem := by
  simp only [wrBlock, wrSide_mem]
  rw [mem_foldl_wrSide]
  exact wf_wrBytes s _ h

theorem wf_poisonSector (s : State) (k : Nat) (h : Memory.wf s.mem) : Memory.wf (s.poisonSector k).mem := h
theorem wf_poisonLine (s : State) (k : Nat) (h : Memory.wf s.mem) : Memory.wf (s.poisonLine k).mem := h
theorem wf_invalidateL1 (s : State) (sel : Nat → Nat → Bool) (h : Memory.wf s.mem) :
    Memory.wf (s.invalidateL1 sel).mem := h

theorem wf_writeThrough (s : State) (sel : Nat → Nat → Bool) (h : Memory.wf s.mem) :
    Memory.wf (s.writeThrough sel).mem := by
  show Memory.wf (if (s.l1Dirty sel).isEmpty then s else s.wrBytes (s.l1Dirty sel)).mem
  split
  · exact h
  · exact wf_wrBytes s _ h

theorem wf_flushCore (s : State) (core : Nat) (h : Memory.wf s.mem) : Memory.wf (s.flushCore core).mem :=
  wf_writeThrough s _ h
theorem wf_flushInvalCore (s : State) (core : Nat) (h : Memory.wf s.mem) : Memory.wf (s.flushInvalCore core).mem :=
  wf_writeThrough s _ h
theorem wf_flushAll (s : State) (h : Memory.wf s.mem) : Memory.wf s.flushAll.mem := wf_writeThrough s _ h
theorem wf_sendLines (s : State) (core : Nat) (ks : List Nat) (h : Memory.wf s.mem) :
    Memory.wf (s.sendLines core ks).mem := wf_writeThrough s _ h
theorem wf_yieldLines (s : State) (core : Nat) (ks : List Nat) (h : Memory.wf s.mem) :
    Memory.wf (s.yieldLines core ks).mem := wf_writeThrough s _ h

theorem wf_trimL1 (core new fuel : Nat) (s : State) (h : Memory.wf s.mem) : Memory.wf (s.trimL1 core new fuel).mem := by
  induction fuel generalizing s with
  | zero => exact h
  | succ n ih =>
    unfold trimL1
    dsimp only
    split
    · exact h
    · split
      · exact ih _ (wf_yieldLines s _ _ h)
      · exact h

theorem wf_roomL1 (s : State) (core k : Nat) (h : Memory.wf s.mem) : Memory.wf (s.roomL1 core k).mem := by
  unfold roomL1
  split
  · exact h
  · exact wf_trimL1 _ _ _ s h

theorem wf_wrL1 (s : State) (core : Nat) (ws : List Host.Cell) (h : Memory.wf s.mem) : Memory.wf (s.wrL1 core ws).mem :=
  wf_roomL1 _ _ _ h

theorem wf_fillL2 (s : State) (k : Nat) (h : Memory.wf s.mem) : Memory.wf (s.fillL2 k).mem := h
theorem wf_settleHome (s : State) (ks : List Nat) (h : Memory.wf s.mem) : Memory.wf (s.settleHome ks).mem := h

theorem wf_fillL1 (s : State) (core k : Nat) (h : Memory.wf s.mem) : Memory.wf (s.fillL1 core k).mem := wf_roomL1 _ _ _ h

theorem wf_fillAt (s : State) (core k p : Nat) (h : Memory.wf s.mem) : Memory.wf (s.fillAt core k p).mem := by
  unfold fillAt
  split
  · exact wf_fillL1 _ core k (wf_fillL2 s k h)
  · split
    · exact wf_settleHome s _ h
    · exact wf_fillL2 s k h

theorem wf_takeMshr (s : State) (core : Nat) (p : Point) (ks : List Nat) (h : Memory.wf s.mem) :
    Memory.wf (s.takeMshr core p ks).mem := h

end State

end Sys2Proof.Machine
end

