-- ==== Sys2Proof/Laws/PerInstr.lean ====
section
/-! SUPPORT. A family of laws, one lemma per constructor of `Instr`: an instruction has words exactly when it is one of the
rows that an instruction word asks for. -/

namespace Sys2Proof.Laws.HasWords

/-- The encoder gives the instruction a word exactly when it is a single op or a pair word. -/
def Statement (i : Instr) : Prop := i.isWord = !(encode i).isEmpty

theorem of_op {i : Instr} {code : Nat} {o : Op} (h : i.op? = some (code, o)) : Statement i := by
  unfold Statement Instr.isWord encode
  rw [h]
  dsimp only
  cases o.ext <;> rfl

theorem of_event {i : Instr} (h : i.op? = none) (hp : i.pair? = none) : Statement i := by
  unfold Statement Instr.isWord encode
  rw [h, hp]
  rfl

theorem bra (o : Op) : Statement (.bra o) := of_op rfl
theorem brc (o : Op) : Statement (.brc o) := of_op rfl
theorem brx (o : Op) : Statement (.brx o) := of_op rfl
theorem call (o : Op) : Statement (.call o) := of_op rfl
theorem ret (o : Op) : Statement (.ret o) := of_op rfl
theorem exit (o : Op) : Statement (.exit o) := of_op rfl
theorem yieldRun (o : Op) : Statement (.yieldRun o) := of_op rfl
theorem nop (o : Op) : Statement (.nop o) := of_op rfl
theorem add (o : Op) : Statement (.add o) := of_op rfl
theorem sub (o : Op) : Statement (.sub o) := of_op rfl
theorem addc (o : Op) : Statement (.addc o) := of_op rfl
theorem mul (o : Op) : Statement (.mul o) := of_op rfl
theorem mulh (o : Op) : Statement (.mulh o) := of_op rfl
theorem mad (o : Op) : Statement (.mad o) := of_op rfl
theorem idiv (o : Op) : Statement (.idiv o) := of_op rfl
theorem irem (o : Op) : Statement (.irem o) := of_op rfl
theorem min (o : Op) : Statement (.min o) := of_op rfl
theorem max (o : Op) : Statement (.max o) := of_op rfl
theorem abs (o : Op) : Statement (.abs o) := of_op rfl
theorem neg (o : Op) : Statement (.neg o) := of_op rfl
theorem lea (o : Op) : Statement (.lea o) := of_op rfl
theorem mov (o : Op) : Statement (.mov o) := of_op rfl
theorem movi (o : Op) : Statement (.movi o) := of_op rfl
theorem i2i (o : Op) : Statement (.i2i o) := of_op rfl
theorem and (o : Op) : Statement (.and o) := of_op rfl
theorem or (o : Op) : Statement (.or o) := of_op rfl
theorem xor (o : Op) : Statement (.xor o) := of_op rfl
theorem not (o : Op) : Statement (.not o) := of_op rfl
theorem shl (o : Op) : Statement (.shl o) := of_op rfl
theorem shr (o : Op) : Statement (.shr o) := of_op rfl
theorem sar (o : Op) : Statement (.sar o) := of_op rfl
theorem rot (o : Op) : Statement (.rot o) := of_op rfl
theorem clz (o : Op) : Statement (.clz o) := of_op rfl
theorem popc (o : Op) : Statement (.popc o) := of_op rfl
theorem brev (o : Op) : Statement (.brev o) := of_op rfl
theorem bfx (o : Op) : Statement (.bfx o) := of_op rfl
theorem bfi (o : Op) : Statement (.bfi o) := of_op rfl
theorem sel (o : Op) : Statement (.sel o) := of_op rfl
theorem cmp (o : Op) : Statement (.cmp o) := of_op rfl
theorem pand (o : Op) : Statement (.pand o) := of_op rfl
theorem por (o : Op) : Statement (.por o) := of_op rfl
theorem pxor (o : Op) : Statement (.pxor o) := of_op rfl
theorem pnot (o : Op) : Statement (.pnot o) := of_op rfl
theorem pmov (o : Op) : Statement (.pmov o) := of_op rfl
theorem fadd (o : Op) : Statement (.fadd o) := of_op rfl
theorem fsub (o : Op) : Statement (.fsub o) := of_op rfl
theorem fmul (o : Op) : Statement (.fmul o) := of_op rfl
theorem fma (o : Op) : Statement (.fma o) := of_op rfl
theorem fmin (o : Op) : Statement (.fmin o) := of_op rfl
theorem fmax (o : Op) : Statement (.fmax o) := of_op rfl
theorem fabs (o : Op) : Statement (.fabs o) := of_op rfl
theorem fneg (o : Op) : Statement (.fneg o) := of_op rfl
theorem fcmp (o : Op) : Statement (.fcmp o) := of_op rfl
theorem fclass (o : Op) : Statement (.fclass o) := of_op rfl
theorem frnd (o : Op) : Statement (.frnd o) := of_op rfl
theorem fcvt (o : Op) : Statement (.fcvt o) := of_op rfl
theorem f2i (o : Op) : Statement (.f2i o) := of_op rfl
theorem i2f (o : Op) : Statement (.i2f o) := of_op rfl
theorem hfma2 (o : Op) : Statement (.hfma2 o) := of_op rfl
theorem hadd2 (o : Op) : Statement (.hadd2 o) := of_op rfl
theorem bfma2 (o : Op) : Statement (.bfma2 o) := of_op rfl
theorem bmax (o : Op) : Statement (.bmax o) := of_op rfl
theorem bscale (o : Op) : Statement (.bscale o) := of_op rfl
theorem bquant (o : Op) : Statement (.bquant o) := of_op rfl
theorem bdeq (o : Op) : Statement (.bdeq o) := of_op rfl
theorem brescale (o : Op) : Statement (.brescale o) := of_op rfl
theorem dot4 (o : Op) : Statement (.dot4 o) := of_op rfl
theorem dot8 (o : Op) : Statement (.dot8 o) := of_op rfl
theorem dot2h (o : Op) : Statement (.dot2h o) := of_op rfl
theorem amaxrd (o : Op) : Statement (.amaxrd o) := of_op rfl
theorem amaxclr (o : Op) : Statement (.amaxclr o) := of_op rfl
theorem exb (o : Op) : Statement (.exb o) := of_op rfl
theorem lg2 (o : Op) : Statement (.lg2 o) := of_op rfl
theorem rcp (o : Op) : Statement (.rcp o) := of_op rfl
theorem rsq (o : Op) : Statement (.rsq o) := of_op rfl
theorem sqt (o : Op) : Statement (.sqt o) := of_op rfl
theorem sin (o : Op) : Statement (.sin o) := of_op rfl
theorem cos (o : Op) : Statement (.cos o) := of_op rfl
theorem tanh (o : Op) : Statement (.tanh o) := of_op rfl
theorem shfl (o : Op) : Statement (.shfl o) := of_op rfl
theorem vote (o : Op) : Statement (.vote o) := of_op rfl
theorem ballot (o : Op) : Statement (.ballot o) := of_op rfl
theorem scan (o : Op) : Statement (.scan o) := of_op rfl
theorem vred (o : Op) : Statement (.vred o) := of_op rfl
theorem confl (o : Op) : Statement (.confl o) := of_op rfl
theorem matchLanes (o : Op) : Statement (.matchLanes o) := of_op rfl
theorem perm (o : Op) : Statement (.perm o) := of_op rfl
theorem fbopen (o : Op) : Statement (.fbopen o) := of_op rfl
theorem fbisect (o : Op) : Statement (.fbisect o) := of_op rfl
theorem fbunion (o : Op) : Statement (.fbunion o) := of_op rfl
theorem fbnext (o : Op) : Statement (.fbnext o) := of_op rfl
theorem fbskip (o : Op) : Statement (.fbskip o) := of_op rfl
theorem fbpos (o : Op) : Statement (.fbpos o) := of_op rfl
theorem fbend (o : Op) : Statement (.fbend o) := of_op rfl
theorem fbclose (o : Op) : Statement (.fbclose o) := of_op rfl
theorem fbsave (o : Op) : Statement (.fbsave o) := of_op rfl
theorem fbrstr (o : Op) : Statement (.fbrstr o) := of_op rfl
theorem ld (o : Op) : Statement (.ld o) := of_op rfl
theorem st (o : Op) : Statement (.st o) := of_op rfl
theorem ldb (o : Op) : Statement (.ldb o) := of_op rfl
theorem stb (o : Op) : Statement (.stb o) := of_op rfl
theorem ldsc (o : Op) : Statement (.ldsc o) := of_op rfl
theorem ldg (o : Op) : Statement (.ldg o) := of_op rfl
theorem stg (o : Op) : Statement (.stg o) := of_op rfl
theorem atom (o : Op) : Statement (.atom o) := of_op rfl
theorem red (o : Op) : Statement (.red o) := of_op rfl
theorem fence (o : Op) : Statement (.fence o) := of_op rfl
theorem pref (o : Op) : Statement (.pref o) := of_op rfl
theorem cctl (o : Op) : Statement (.cctl o) := of_op rfl
theorem lda (o : Op) : Statement (.lda o) := of_op rfl
theorem sta (o : Op) : Statement (.sta o) := of_op rfl
theorem ldab (o : Op) : Statement (.ldab o) := of_op rfl
theorem stab (o : Op) : Statement (.stab o) := of_op rfl
theorem atoma (o : Op) : Statement (.atoma o) := of_op rfl
theorem turn (o : Op) : Statement (.turn o) := of_op rfl
theorem rgq (o : Op) : Statement (.rgq o) := of_op rfl
theorem mconv (o : Op) : Statement (.mconv o) := of_op rfl
theorem mdisb (o : Op) : Statement (.mdisb o) := of_op rfl
theorem mfence (o : Op) : Statement (.mfence o) := of_op rfl
theorem mma (o : Op) : Statement (.mma o) := of_op rfl
theorem mmaSp (o : Op) : Statement (.mmaSp o) := of_op rfl
theorem mmaG (o : Op) : Statement (.mmaG o) := of_op rfl
theorem mloop (o : Op) : Statement (.mloop o) := of_op rfl
theorem accz (o : Op) : Statement (.accz o) := of_op rfl
theorem accld (o : Op) : Statement (.accld o) := of_op rfl
theorem accst (o : Op) : Statement (.accst o) := of_op rfl
theorem patld (o : Op) : Statement (.patld o) := of_op rfl
theorem copy (o : Op) : Statement (.copy o) := of_op rfl
theorem copyg (o : Op) : Statement (.copyg o) := of_op rfl
theorem copys (o : Op) : Statement (.copys o) := of_op rfl
theorem mcommit (o : Op) : Statement (.mcommit o) := of_op rfl
theorem mwait (o : Op) : Statement (.mwait o) := of_op rfl
theorem tclaim (o : Op) : Statement (.tclaim o) := of_op rfl
theorem launch (o : Op) : Statement (.launch o) := of_op rfl
theorem sleep (o : Op) : Statement (.sleep o) := of_op rfl
theorem tbinit (o : Op) : Statement (.tbinit o) := of_op rfl
theorem tbexpect (o : Op) : Statement (.tbexpect o) := of_op rfl
theorem tbarrive (o : Op) : Statement (.tbarrive o) := of_op rfl
theorem tbwait (o : Op) : Statement (.tbwait o) := of_op rfl
theorem tbtest (o : Op) : Statement (.tbtest o) := of_op rfl
theorem bara (o : Op) : Statement (.bara o) := of_op rfl
theorem barw (o : Op) : Statement (.barw o) := of_op rfl
theorem cntrd (o : Op) : Statement (.cntrd o) := of_op rfl
theorem trap (o : Op) : Statement (.trap o) := of_op rfl
theorem rett (o : Op) : Statement (.rett o) := of_op rfl
theorem bkpt (o : Op) : Statement (.bkpt o) := of_op rfl
theorem sread (o : Op) : Statement (.sread o) := of_op rfl
theorem swrite (o : Op) : Statement (.swrite o) := of_op rfl
theorem pairWord (p : Pair) : Statement (.pairWord p) := rfl
theorem issueSlotGrant (core quadrant : Nat) : Statement (.issueSlotGrant core quadrant) := of_event rfl rfl
theorem lateResult (r : TRef) : Statement (.lateResult r) := of_event rfl rfl
theorem sfuResult (r : TRef) : Statement (.sfuResult r) := of_event rfl rfl
theorem sfuEntryFree (r : TRef) : Statement (.sfuEntryFree r) := of_event rfl rfl
theorem missStatusEntryFree (r : TRef) : Statement (.missStatusEntryFree r) := of_event rfl rfl
theorem lineFill (core sector : Nat) : Statement (.lineFill core sector) := of_event rfl rfl
theorem tableWalk (core ctx : Nat) (va : DWord) : Statement (.tableWalk core ctx va) := of_event rfl rfl
theorem invalidationComplete (ctx : Nat) : Statement (.invalidationComplete ctx) := of_event rfl rfl
theorem mfenceRelease (r : TRef) : Statement (.mfenceRelease r) := of_event rfl rfl
theorem turnSwap (cluster block index : Nat) : Statement (.turnSwap cluster block index) := of_event rfl rfl
theorem matrixStep (a : ActRef) : Statement (.matrixStep a) := of_event rfl rfl
theorem sparseStep (a : ActRef) : Statement (.sparseStep a) := of_event rfl rfl
theorem acczPerform (a : ActRef) : Statement (.acczPerform a) := of_event rfl rfl
theorem accstPerform (a : ActRef) : Statement (.accstPerform a) := of_event rfl rfl
theorem patldPerform (a : ActRef) : Statement (.patldPerform a) := of_event rfl rfl
theorem batchQueueSlotFree (r : TRef) : Statement (.batchQueueSlotFree r) := of_event rfl rfl
theorem mwaitRelease (r : TRef) : Statement (.mwaitRelease r) := of_event rfl rfl
theorem copyQueueEntryFree (r : TRef) : Statement (.copyQueueEntryFree r) := of_event rfl rfl
theorem copyUnitSettled (core copy unit : Nat) : Statement (.copyUnitSettled core copy unit) := of_event rfl rfl
theorem copyRemoteFault (core copy row : Nat) : Statement (.copyRemoteFault core copy row) := of_event rfl rfl
theorem tbwaitRelease (r : TRef) : Statement (.tbwaitRelease r) := of_event rfl rfl
theorem barwRelease (r : TRef) : Statement (.barwRelease r) := of_event rfl rfl
theorem sleepExpiry (r : TRef) : Statement (.sleepExpiry r) := of_event rfl rfl
theorem launchQueueRoom (r : TRef) : Statement (.launchQueueRoom r) := of_event rfl rfl
theorem launchAdmission : Statement .launchAdmission := of_event rfl rfl
theorem bindingReservation (launch : Nat) : Statement (.bindingReservation launch) := of_event rfl rfl
theorem clusterPlacement : Statement .clusterPlacement := of_event rfl rfl
theorem placementSkipLimit (launch : Nat) : Statement (.placementSkipLimit launch) := of_event rfl rfl
theorem preemption (cluster : Nat) : Statement (.preemption cluster) := of_event rfl rfl
theorem contextSave (cluster : Nat) : Statement (.contextSave cluster) := of_event rfl rfl
theorem blockExitPoint (cluster block : Nat) : Statement (.blockExitPoint cluster block) := of_event rfl rfl
theorem clusterRetirement (cluster : Nat) : Statement (.clusterRetirement cluster) := of_event rfl rfl
theorem launchRetirement (launch : Nat) : Statement (.launchRetirement launch) := of_event rfl rfl
theorem launchQuiescent (launch : Nat) : Statement (.launchQuiescent launch) := of_event rfl rfl
theorem chunkFire (b : BindRef) (chunk : Nat) : Statement (.chunkFire b chunk) := of_event rfl rfl
theorem readyNotify (n : Notify) : Statement (.readyNotify n) := of_event rfl rfl
theorem contributionNotify (n : Notify) : Statement (.contributionNotify n) := of_event rfl rfl
theorem resultNotify (n : Notify) : Statement (.resultNotify n) := of_event rfl rfl
theorem reduceDispatch (b : BindRef) (chunk : Nat) : Statement (.reduceDispatch b chunk) := of_event rfl rfl
theorem reduceResult (b : BindRef) (chunk : Nat) : Statement (.reduceResult b chunk) := of_event rfl rfl
theorem bindingComplete (b : BindRef) : Statement (.bindingComplete b) := of_event rfl rfl
theorem fabricWriteFailure (b : BindRef) : Statement (.fabricWriteFailure b) := of_event rfl rfl
theorem recordCheckpoint (launch : Nat) : Statement (.recordCheckpoint launch) := of_event rfl rfl
theorem logBufferFull (launch : Nat) : Statement (.logBufferFull launch) := of_event rfl rfl
theorem hostLaunch (h : Cmd) (queue : Nat) (record : List Byte) : Statement (.hostLaunch h queue record) := of_event rfl rfl
theorem heldLaunchAccept : Statement .heldLaunchAccept := of_event rfl rfl
theorem ctxCreate (h : Cmd) (l1 : Nat) (pager : Bool) : Statement (.ctxCreate h l1 pager) := of_event rfl rfl
theorem ctxDestroy (h : Cmd) : Statement (.ctxDestroy h) := of_event rfl rfl
theorem bindQueue (h : Cmd) (queue : Nat) : Statement (.bindQueue h queue) := of_event rfl rfl
theorem invalidate (h : Cmd) : Statement (.invalidate h) := of_event rfl rfl
theorem pagerResolved (h : Cmd) (report : Word) : Statement (.pagerResolved h report) := of_event rfl rfl
theorem pagerDeliver (h : Cmd) (report : Word) : Statement (.pagerDeliver h report) := of_event rfl rfl
theorem pagerAbort (h : Cmd) (report : Word) : Statement (.pagerAbort h report) := of_event rfl rfl
theorem preempt (h : Cmd) (arrival : Word) : Statement (.preempt h arrival) := of_event rfl rfl
theorem debugAttach (h : Cmd) : Statement (.debugAttach h) := of_event rfl rfl
theorem debugDetach (h : Cmd) : Statement (.debugDetach h) := of_event rfl rfl
theorem recordCmd (h : Cmd) (interval : Nat) (addr size : Nat) : Statement (.recordCmd h interval addr size) := of_event rfl rfl
theorem readState (h : Cmd) (sel : Selector) : Statement (.readState h sel) := of_event rfl rfl
theorem objectLoad (h : Cmd) (part : ObjectPart) : Statement (.objectLoad h part) := of_event rfl rfl
theorem attest (h : Cmd) (nonce : List Byte) : Statement (.attest h nonce) := of_event rfl rfl
theorem resend (h : Cmd) (n : Word) : Statement (.resend h n) := of_event rfl rfl
theorem fwUpdate (h : Cmd) (svn : Option Nat) (image sigE sigL : List Byte) : Statement (.fwUpdate h svn image sigE sigL) := of_event rfl rfl
theorem reservedCommand (h : Cmd) : Statement (.reservedCommand h) := of_event rfl rfl
theorem outOfSequenceCommand (h : Cmd) : Statement (.outOfSequenceCommand h) := of_event rfl rfl
theorem moduleReset (member : Nat) (stages : List (List Byte)) (badSlices : List (Nat × Nat)) : Statement (.moduleReset member stages badSlices) := of_event rfl rfl
theorem clockStepDown (mhz : Nat) : Statement (.clockStepDown mhz) := of_event rfl rfl
theorem clockStepUp : Statement .clockStepUp := of_event rfl rfl
theorem hbmChannelFence (channel : Nat) : Statement (.hbmChannelFence channel) := of_event rfl rfl
theorem coolantOverLimit : Statement .coolantOverLimit := of_event rfl rfl
theorem uncorrectableError (site : ErrorSite) : Statement (.uncorrectableError site) := of_event rfl rfl
theorem inletWithinLimits : Statement .inletWithinLimits := of_event rfl rfl
theorem debuggerResume (r : TRef) (writes : DebugWrite) : Statement (.debuggerResume r writes) := of_event rfl rfl
theorem replay (launch : Nat) (checkpoint : Nat) (upTo : Option (TRef × Nat)) : Statement (.replay launch checkpoint upTo) := of_event rfl rfl
theorem hostAccess (m : MemAccess) : Statement (.hostAccess m) := of_event rfl rfl
theorem remoteModuleAccess (m : MemAccess) : Statement (.remoteModuleAccess m) := of_event rfl rfl

end Sys2Proof.Laws.HasWords
end

