-- ==== Sys2Proof/Laws/Word.lean ====
section
/-! SUPPORT. What a single op that acts on its troupe alone answers, in the terms of the claims. -/

namespace Sys2Proof.Claims
open Sys2Proof.Machine

/-- The run of a troupe whose word wrote a latch or none. -/
def runWith (r : Run) (latch : Option Latch) : Run :=
  match latch with
  | some y => { r with latches := r.latches.set (r.k % 4) (some y), k := r.k + 1 }
  | none => r

theorem readP_congr {t u : Troupe} (hp : t.p = u.p) (hw : t.width = u.width) (q : Nat) : t.readP q = u.readP q := by
  simp [Troupe.readP, hp, hw]

theorem goOn_eq (n : Nat) (x : Env) (hdr : DWord) (t : Troupe) (e : FEntry) (es : List FEntry)
    (hf : t.frontier = e :: es) (he : e.mask ≠ 0) :
    t.goOn n x hdr = { t.retire n x.c.len with frontier := goesTo x hdr t.frontier } := by
  have he' : e.mask ≠ 0#128 := he
  unfold Troupe.goOn goesTo
  cases hl : x.c.last
  · simp [Troupe.retire, Troupe.advance, Troupe.finish, hf, he', Cur.next]
  · simp [hf, he']

theorem completes_of {s : State} {x : Env} {code : Nat} {o : Op} {hdr : DWord} {i : Instr} {body : Env → State → Res}
    (h : Runs s x code o hdr) (hx : exec i s = issueOp code i o body s) (e : Effect) (t1 : Troupe)
    (hb : body x s = .done (s.setTroupe x.r t1))
    (hr : t1 = { x.t with
      v := t1.v, sc := t1.sc, s := t1.s, p := t1.p, late := t1.late, amax := e.amax, sticky := e.sticky, prog := e.prog
      rnd := e.rnd, seed := e.seed, tmask := e.tmask, fb := e.fb, watch := e.watch, run := runWith x.t.run e.latch, arenaBusy := e.busy
      launches := e.launches, waitw := e.waitw, wrote := t1.wrote
      counters := { x.t.counters with spills := e.spills } })
    (hv : ∀ r l, l < 128 → t1.readV r l = e.v r l) (hs : ∀ r, t1.readS r = e.s r) (hp : ∀ q, t1.readP q = e.p q)
    (ht : ∀ r b, b < 32 → t1.readTag r b = e.tag r b) (hn : ∀ r, sget 0 t1.wrote r = e.wrote r) :
    Completes i s x (ends code o x) 1 hdr e := by
  have ht0 := State.env?_troupe h.env
  obtain ⟨f, fs, hf, hm⟩ : ∃ f fs, x.t.frontier = f :: fs ∧ f.mask ≠ 0 := by
    have := h.lanes
    unfold Troupe.active at this
    split at this
    · next e es he => exact ⟨e, es, he, this⟩
    · exact absurd rfl this
  have hfr : t1.frontier = x.t.frontier := by rw [hr]
  have hh : t1.held = x.t.held := by rw [hr]
  have hf1 : t1.frontier = f :: fs := by rw [hfr, hf]
  have hex : exec i s = .next { s.setTroupe x.r (t1.wordEnd (o.endsRun || endsOwn code x.det) 1 x hdr) with
      slots := slotsAfter s x.r (ends code o x) } := by
    rw [hx, issueOp_ok h.env h.checks h.whole, hb, h.falls]
    simp only [settle]
    rw [complete_setTroupe ht0 _ _ _ f fs hf1 hm hh]
    have hsl : (s.setTroupe x.r (t1.wordEnd (o.endsRun || endsOwn code x.det) 1 x hdr)).slots = s.slots := by simp
    unfold ends slotsAfter
    split
    · rw [← hsl]; rfl
    · rw [← hsl]
  refine ⟨⟨t1.wordEnd (o.endsRun || endsOwn code x.det) 1 x hdr, ?_, hex⟩, _, hex, ?_⟩
  · have hgo := goOn_eq 1 x hdr t1 f fs hf1 hm
    have hwe : t1.wordEnd (o.endsRun || endsOwn code x.det) 1 x hdr
        = { t1 with
            frontier := goesTo x hdr x.t.frontier, run := runAfter x (ends code o x) e.latch
            midRun := x.t.midRun && !ends code o x, rm := none, status := .ready, redo := false, served := 0, kept := []
            keptTag := []
            retiredInsns := x.t.retiredInsns + 1
            counters := { x.t.counters with retired := (x.t.counters.retired + 1) % 2 ^ 64, spills := e.spills } } := by
      unfold Troupe.wordEnd ends
      rw [hgo, hfr]
      have hrun : t1.run = runWith x.t.run e.latch := by rw [hr]
      have hmid : t1.midRun = x.t.midRun := by rw [hr]
      have hri : t1.retiredInsns = x.t.retiredInsns := by rw [hr]
      have hc : t1.counters = { x.t.counters with spills := e.spills } := by rw [hr]
      split
      · next hc' => simp [Troupe.restRun, Troupe.retire, hc', runAfter, Troupe.freshRun, hri, hc]
      · next hc' =>
        simp only [Bool.not_eq_true] at hc'
        rw [hc']
        simp only [Troupe.retire, runAfter, hri, hc, hmid, hrun]
        cases e.latch <;> simp [runWith]
    constructor
    · intro r l hl; rw [hwe, ← hv r l hl]; rfl
    · intro r; rw [hwe, ← hs r]; rfl
    · intro q; rw [hwe, ← hp q]; rfl
    · intro r b hb'; rw [hwe, ← ht r b hb']; rfl
    · intro r; rw [hwe, ← hn r]
    · rw [hwe]; rw [hr]
  · constructor
    · intro k; simp [State.rdByte]
    · intro q hq
      exact State.troupe?_setTroupe_ne _ hq
    · exact ⟨_, rfl⟩

end Sys2Proof.Claims
end

