-- ==== Sys2Proof/Tests/Lab.lean ====
section
/-! SUPPORT. The small states that the tests stand on: core 0 issues one word, whose page is mapped, with a plain data page and
a page of typed lines beside it. -/

namespace Sys2Proof.Lab


open Sys2Proof.Machine Sys2Proof.Claims

/-- The bits of a two-word instruction. -/
def two (w x : Nat) : Nat := w + 2 ^ 64 * x

/-- Where the data page, the typed page (E4M3) and a page that nothing maps lie. -/
def dataAt : Nat := 0x140000
def typedAt : Nat := 0x180000
def hole : Nat := 0x200000

/-- The leaves of the data page and of the typed page (09 R214): valid, leaf, W; format 1. -/
def leafCells : List Host.Cell :=
  keyed (tableAt + 0x20000 + 8 * (dataAt / 2 ^ 18)) (bytesOf 8 (dataAt + 7))
    ++ keyed (tableAt + 0x20000 + 8 * (typedAt / 2 ^ 18)) (bytesOf 8 (typedAt + 0x47))

/-- The state in which core 0, quadrant 0 issues the instruction with the bits `w`. -/
def at_ (w : Nat) : State :=
  let s := (State.reset.withFetchWord 128 w).wrBytes leafCells
  match s.issueWord 0 0 with
  | .run _ s1 => { s1 with agenda := [] }
  | _ => s

/-- The instruction's fields. -/
def opAt (w : Nat) : Op :=
  match decodeTableWord 128 w with
  | some i => match i.op? with
    | some (_, o) => o
    | none => ⟨false, ⟨false, 7⟩, false, 0, ⟨.v, 0, .none⟩, ⟨.v, 0, .none⟩, 0, none⟩
  | none => ⟨false, ⟨false, 7⟩, false, 0, ⟨.v, 0, .none⟩, ⟨.v, 0, .none⟩, 0, none⟩

/-- The place of the troupe. -/
def me : TRef := ⟨0, 0, 0⟩

/-- The environment of the word that a state issues. -/
def envOf (s : State) : Env :=
  (s.env?).getD ⟨⟨me, 0, 0, 0, 1, true⟩, startTroupe 16 0 [] 256 0 [] false 0 0 0, startBlock 0 [] [] 0 0 0, bareCluster 0 1, bareLaunch⟩

/-- The header that the word falls through to. -/
def hdrOf (code : Nat) (o : Op) (s : State) : DWord :=
  match s.fallCheck (envOf s) (fallLanes code o (envOf s)) with
  | .ok h => h
  | _ => 0

/-! ## Changes of the state -/

def inTroupe (f : Troupe → Troupe) (s : State) : State := s.modTroupe me f
def inBlock (f : Block → Block) (s : State) : State := s.modBlock 0 0 f
def inCluster (f : Cluster → Cluster) (s : State) : State := s.modCluster 0 f
def inLaunch (f : Launch → Launch) (s : State) : State := s.modLaunch 0 f

/-- s registers by number. -/
def sregs (xs : List (Nat × Nat)) : State → State :=
  inTroupe (fun t => { t with s := ssets 0 t.s (xs.map (fun x => (x.1, BitVec.ofNat 32 x.2))) })

/-- A v register with one value in every lane. -/
def vreg (r x : Nat) : State → State :=
  inTroupe (fun t => { t with v := ssets 0 t.v ((List.range 16).map (fun l => (r * 128 + l, BitVec.ofNat 32 x))) })

/-- A v register with `f` of the lane. -/
def vregs (r : Nat) (f : Nat → Nat) : State → State :=
  inTroupe (fun t => { t with v := ssets 0 t.v ((List.range 16).map (fun l => (r * 128 + l, BitVec.ofNat 32 (f l)))) })

/-- A predicate. -/
def preg (n mask : Nat) : State → State :=
  inTroupe (fun t => { t with p := ssets 0 t.p [(n, BitVec.ofNat 128 mask)] })

/-- A v pair with one address in every lane. -/
def vaddr (n a : Nat) : State → State := fun s => vreg (n + 1) (a / 2 ^ 32) (vreg n (a % 2 ^ 32) s)

/-- An s pair with an address. -/
def saddr (n a : Nat) : State → State := sregs [(n, a % 2 ^ 32), (n + 1, a / 2 ^ 32)]

/-- Bytes of memory from a number. -/
def store (a n x : Nat) (s : State) : State := s.wrBytes (keyed a (bytesOf n x))

/-- A header with flags after the word, and one after it. -/
def headers (flags : Nat) : State → State :=
  fun s => { store (codeAt + 16) 8 (plainHeader + flags) (store (codeAt + 8) 8 (plainHeader + flags) s) with frames := s.frames }

/-- The launch record names a handler (18 R395). -/
def handled (s : State) : State :=
  inLaunch (fun l => { l with tvecEnt := bytesOf 16 (2 ^ 57 + codeAt) }) (inTroupe (fun t => { t with tvec := 1 }) s)

/-- Handler mode, entered with the lanes below 16, the interrupted entry having the mask `m`. -/
def inHandler (m : Nat) : State → State :=
  inTroupe (fun t => { t with
    held := some ⟨[⟨BitVec.ofNat 64 codeAt, 0, BitVec.ofNat 128 m, .body (BitVec.ofNat 64 (codeAt + 16)), 0, 0, 0⟩],
      lanesBelow 16, ⟨[none, none, none, none], 0, 0⟩, [], []⟩
    tcause := 0x19, tmask := lanesBelow 16 })

/-- The issuing entry has the lanes `m`. -/
def headMask (m : Nat) : State → State := inTroupe (fun t => match t.frontier with
  | e :: es => { t with frontier := { e with mask := BitVec.ofNat 128 m } :: es }
  | [] => t)

/-- What follows holds after both. -/
def also (f g : State → State) (s : State) : State := g (f s)

/-! ## When a word takes effect, as a test -/

/-- `Runs`, as a test. -/
def runsB (s : State) (code : Nat) (o : Op) : Bool :=
  let x := envOf s
  o.wf code && decide (s.env? = some x) && decide (x.t.active ≠ 0) && decide (opTrap code o x = none)
    && (decide (x.t.rm ≠ some 0) || decide (opLevel code x.t o = .lanes))
    && decide (s.fallCheck x (fallLanes code o x) = .ok (hdrOf code o s))

theorem runs_of {s : State} {code : Nat} {o : Op} (h : runsB s code o = true) : Runs s (envOf s) code o (hdrOf code o s) := by
  simp only [runsB, Bool.and_eq_true, Bool.or_eq_true, decide_eq_true_eq] at h
  obtain ⟨⟨⟨⟨⟨h1, h2⟩, h3⟩, h4⟩, h5⟩, h6⟩ := h
  exact ⟨h1, h2, h3, h4, fun hr => h5.resolve_left (fun n => n hr), h6⟩

/-- The words of a list all take effect. -/
def allRun (ws : List (Nat × Nat)) : Bool := ws.all (fun p => runsB (at_ p.2) p.1 (opAt p.2))

theorem all_run {ws : List (Nat × Nat)} (h : allRun ws = true) :
    ∀ p ∈ ws, ∃ s x o hdr, Runs s x p.1 o hdr :=
  fun p hp => ⟨_, _, _, _, runs_of (List.all_eq_true.mp h p hp)⟩

/-- A state in which a word takes effect and something more holds. -/
theorem runs_and {s : State} {code : Nat} {o : Op} {P : State → Env → Op → Prop} (h : runsB s code o = true)
    (hp : P s (envOf s) o) : ∃ s x o hdr, Runs s x code o hdr ∧ P s x o :=
  ⟨s, envOf s, o, hdrOf code o s, runs_of h, hp⟩

/-! ## Cases of statements -/

/-- The bits of an instruction. -/
def wd (i : Instr) : Nat :=
  match encode i with
  | [a] => a.toNat
  | [a, b] => two a.toNat b.toNat
  | _ => 0

/-- A single op under guard p7. -/
def op (dst : Nat) (a b : Src) (c : Nat) (ext : Option Nat := none) : Op :=
  ⟨false, ⟨false, 7⟩, false, BitVec.ofNat 8 dst, a, b, BitVec.ofNat 13 c, ext.map (fun e => ⟨false, BitVec.ofNat 32 e⟩)⟩

/-- The same op under guard p0, with E and W clear. -/
def Op.p0 (o : Op) : Op := { o with guard := ⟨false, 0⟩ }

def v (n : Nat) : Src := ⟨.v, BitVec.ofNat 8 n, .none⟩
def r (n : Nat) : Src := ⟨.s, BitVec.ofNat 8 n, .none⟩
def lt (n : Nat) : Src := ⟨.latch, BitVec.ofNat 8 n, .none⟩
def z : Src := v 0
def im (n : Nat) : Src := Src.ofBits (0x1800 + BitVec.ofNat 13 n)

/-- The word that the state is about to run is `i`, after `change`, and `more` holds there. -/
structure Case where
  i      : Instr
  change : State → State := id
  more   : State → Env → Op → Bool := fun _ _ _ => true

def caseB (c : Case) : Bool :=
  let s := c.change (at_ (wd c.i))
  match c.i.op? with
  | some (code, o) => runsB s code o && c.more s (envOf s) o
  | none => false

/-- Every case of a list takes effect in a state in which its condition holds. -/
theorem all_meet {cs : List Case} (h : cs.all caseB = true) :
    ∀ c ∈ cs, ∃ code s x o hdr, c.i.op? = some (code, o) ∧ Runs s x code o hdr ∧ c.more s x o = true := by
  intro c hc
  have := List.all_eq_true.mp h c hc
  unfold caseB at this
  split at this
  · rename_i code o ho
    rw [Bool.and_eq_true] at this
    exact ⟨code, _, _, o, _, ho, runs_of this.1, this.2⟩
  · cases this

/-! ## Cases of a step -/

/-- The state whose next move issues from the words `w`, `n`. -/
def nextAt (w n : Nat) : State :=
  let s := (State.reset.withFetchWord 128 w).wrBytes leafCells
  { store (codeAt + 8) 8 n (store codeAt 8 w s) with agenda := [.word 0 0], frames := s.frames }

/-- The entry of the troupe stands at the place `p`. -/
def placed (p : Place) : State → State := inTroupe (fun t => { t with frontier := t.frontier.map (fun e => { e with place := p }) })

/-- Whether core 0, quadrant 0 issues next, from a troupe and an entry of which `k` holds. -/
def issuesB (s : State) (k : TRef → Troupe → Block → Cluster → Launch → FEntry → Bool) : Bool :=
  match s.agenda, s.slotOf 0 0 with
  | .word 0 0 :: _, some r =>
    match s.troupe? r, s.block? r.cluster r.block, s.cluster? r.cluster with
    | some t, some b, some cl =>
      match s.launch? cl.launch, t.frontier with
      | some la, e :: _ => s.replay.isNone && decide (s.redos = []) && decide (t.status = .ready) && s.mayIssue r.cluster && k r t b cl la e
      | _, _ => false
    | _, _, _ => false
  | _, _ => false

theorem issues_of {s : State} {k : TRef → Troupe → Block → Cluster → Launch → FEntry → Bool} (h : issuesB s k = true) :
    ∃ rest r t b cl la e es, NextIssues s 0 0 rest r t b cl la e es ∧ k r t b cl la e = true := by
  unfold issuesB at h
  split at h
  · split at h
    · split at h
      · simp only [Bool.and_eq_true, decide_eq_true_eq, Option.isNone_iff_eq_none] at h
        obtain ⟨⟨⟨⟨h1, h0⟩, h2⟩, h3⟩, h4⟩ := h
        rename_i r ha hs _ _ _ t b cl ht hb hc _ _ la e es hl hf
        exact ⟨_, r, t, b, cl, la, e, es, ⟨ha, h1, h0, hs, ht, hb, hc, hl, hf, h2, h3⟩, h4⟩
      · cases h
    · cases h
  · cases h

/-- A result that is no error. -/
def good {ε α : Type} : Except ε α → Bool
  | .ok _ => true
  | .error _ => false

/-- The moves that have lanes all find a header that is accepted. -/
def acceptedB (s : State) (x : Env) (moves : List Move) : Bool :=
  (moves.filter (fun m => m.mask ≠ 0)).all (fun m => match s.checkTarget x.core x.ctx m with
    | .ok _ => true
    | _ => false)

end Sys2Proof.Lab
end

