-- ==== Sys2Proof/Tests/Accesses.lean ====
section
/-! SUPPORT. For each clause of a statement about memory, arena, matrix, copy, queue and counter words, a state and a word that
meet its hypotheses together. -/

namespace Sys2Proof.Tests

set_option Elab.async false

open Sys2Proof.Machine Sys2Proof.Claims Sys2Proof.Lab

/-! ## Global memory -/

def lanesSel (x : Env) (o : Op) : List Nat := lanesOf x.t.width (x.t.selected o.guard)

/-- Where the lanes' accesses lie, when all of them pass their checks. -/
def placesOf (s : State) (x : Env) (acc : Access) (n : Nat) (lanes : List Nat) (addr : Nat → Nat) : Option (List (Leaf × Nat)) :=
  lanes.mapM (fun l => match s.checkAccess x.core x.ctx acc .plain n (addr l) (pageChoice (addr l)) with
    | .ok p => some p
    | _ => none)

/-- The lanes reach memory, whose bytes are not poisoned, with enough miss-status entries. -/
def reaches (s : State) (x : Env) (o : Op) (acc : Access) (n : Nat) (lanes : List Nat) (addr : Nat → Nat) : Bool :=
  match placesOf s x acc n lanes addr with
  | some ps => ps.all (fun p => !s.poisonAny x.core (atL1 (opPolicy o) (opScope o) p.1) p.2 n)
    && (s.takeEntries x.core (ps.map (fun p => (pointOf (opPolicy o) (opScope o) p.1, p.2, n)))).isSome
  | none => false

/-- An offset of `n` bytes a lane. -/
def strided (n : Nat) : State → State := also (saddr 2 dataAt) (vregs 3 (fun l => l * n))

/-- Words, bytes, 16-byte groups, no lane, the .ca policy, the promoting order. -/
def loadStoreCases : List Case :=
  let lane (acc : Access) (s : State) (x : Env) (o : Op) : Bool := reaches s x o acc (ldWidth o) (lanesSel x o) (laneAddr o x.t)
  [⟨.ld (op 4 (r 2) (v 3) 0xC0), strided 4, lane .load⟩, ⟨.ld (op 4 (r 2) (v 3) 0x20), strided 1, lane .load⟩,
    ⟨.ld (op 4 (r 2) (v 3) 0x10C0), strided 16, fun s x o => ldWidth o = 16 && lane .load s x o⟩,
    ⟨.ld (op 4 (r 2) (v 3) 0xE0), strided 8, fun s x o => ldWidth o = 8 && lane .load s x o⟩,
    ⟨.ld (Op.p0 (op 4 (r 2) (v 3) 0xC0)), strided 4, fun s x o => lanesSel x o = [] && lane .load s x o⟩,
    ⟨.ld (op 4 (r 2) (v 3) 0xCC3), strided 4, fun s x o => (o.c.extractLsb' 10 2).toNat = 3 && lane .load s.flushAll x o⟩,
    ⟨.st (op 4 (r 2) (v 3) 0xC0), strided 0, lane .store⟩, ⟨.st (op 4 (r 2) (v 3) 0x20), strided 1, lane .store⟩,
    ⟨.st (op 4 (r 2) (v 3) 0x10C0), strided 16, lane .store⟩]

/-- LoadsAndStores. -/
theorem witness_LoadsAndStores : ∀ c ∈ loadStoreCases, ∃ code s x o hdr, c.i.op? = some (code, o) ∧ Runs s x code o hdr
    ∧ c.more s x o = true := all_meet (by decide +kernel)

/-- Rows of one and of eight elements; a lane with the index 0xFFFFFFFF. -/
def gatherCases : List Case :=
  let rows (acc : Access) (s : State) (x : Env) (o : Op) : Bool :=
    let idx (l : Nat) : Nat := x.t.operand 6 o o.b l
    let n := 2 ^ (o.c.extractLsb' 10 3).toNat * memWidth (memType o.c)
    let lanes := (lanesSel x o).filter (fun l => idx l ≠ 0xFFFFFFFF)
    lanes.length = 15 && reaches s x o acc n lanes (fun l => (x.t.rawPair o.a 0 + BitVec.ofNat 64 (idx l * n)).toNat)
  let on : State → State := also (saddr 2 dataAt) (vregs 3 (fun l => if l = 3 then 0xFFFFFFFF else l))
  [⟨.ldg (op 8 (r 2) (v 3) 0xC0), on, rows .load⟩, ⟨.ldg (op 8 (r 2) (v 3) 0xCC0), on, rows .load⟩,
    ⟨.stg (op 8 (r 2) (v 3) 0xC0), on, rows .store⟩, ⟨.stg (op 8 (r 2) (v 3) 0xCC0), on, rows .store⟩]

/-- GathersAndScatters. -/
theorem witness_GathersAndScatters : ∀ c ∈ gatherCases, ∃ code s x o hdr, c.i.op? = some (code, o) ∧ Runs s x code o hdr
    ∧ c.more s x o = true := all_meet (by decide +kernel)

/-- Blocks of a typed line: two of them, with every lane and with one. -/
def blockCases : List Case :=
  let all (acc : Access) (s : State) (x : Env) (o : Op) : Bool :=
    let rs := (blockReqs o x.t (x.t.selected o.guard)).map (reachBlock o acc x s)
    let bs := rs.filterMap (fun b => match b with
      | .ok b => some b
      | _ => none)
    bs.length = 2 && bs.length = rs.length
      && bs.all (fun b => !s.poisonAny x.core (atL1 (opPolicy o) (opScope o) b.leaf) b.key (fmtOf (blockType o)).blockBytes)
      && (s.takeEntries x.core (bs.map (fun b =>
        (pointOf (opPolicy o) (opScope o) b.leaf, b.key, (fmtOf (blockType o)).blockBytes)))).isSome
  let on : State → State := also (saddr 2 typedAt) (vregs 3 (fun l => l / 8 * 32))
  [⟨.ldb (op 6 (r 2) (v 3) 0x180), on, all .load⟩, ⟨.ldsc (op 6 (r 2) (v 3) 0x180), on, all .load⟩,
    ⟨.stb (op 6 (r 2) (v 3) 0x180), on, all .store⟩,
    ⟨.ldb (Op.p0 (op 6 (r 2) (v 3) 0x180)), also on (preg 0 0x8080), all .load⟩]

/-- BlockLoadsAndStores. -/
theorem witness_BlockLoadsAndStores : ∀ c ∈ blockCases, ∃ code s x o hdr, c.i.op? = some (code, o) ∧ Runs s x code o hdr
    ∧ c.more s x o = true := all_meet (by decide +kernel)

def deterministic : State → State := inTroupe (fun t => { t with det := true })

/-- Integer words of 32 and 64 bits, all lanes at one address; a float add in a deterministic launch. -/
def atomicCases : List Case :=
  let ok (s : State) (x : Env) (o : Op) : Bool :=
    let n := memWidth (atomType o.c)
    let ps := (lanesSel x o).mapM (fun l => match reachAtomic n x s (x.t.rawPair o.a l).toNat with
      | .ok p => some p
      | _ => none)
    !detAtomic o x && (match ps with
      | some ps => ps.all (fun p => !s.poisonAny x.core (atL1 0 (opScope o) p.1) p.2 n)
        && (s.takeEntries x.core (ps.map (fun p => (pointOf 0 (opScope o) p.1, p.2, n)))).isSome
      | none => false)
  let no (_ : State) (x : Env) (o : Op) : Bool :=
    x.t.det && x.t.selected o.guard ≠ 0 && o.c.extractLsb' 10 3 = 0 && atomType o.c = 11
  [⟨.atom (op 6 (r 2) (v 3) 0xA0), saddr 2 dataAt, ok⟩, ⟨.atom (op 6 (r 2) (v 4) 0xE0), saddr 2 dataAt, ok⟩,
    ⟨.atom (op 6 (v 2) (v 4) 0x1CA2), also (vregs 2 (fun l => dataAt + 4 * l)) (vreg 3 0), ok⟩,
    ⟨.red (op 0 (r 2) (v 3) 0x160), saddr 2 dataAt, ok⟩,
    ⟨.atom (op 6 (r 2) (v 3) 0x160), also (saddr 2 dataAt) deterministic, no⟩,
    ⟨.red (op 0 (r 2) (v 3) 0x160), also (saddr 2 dataAt) deterministic, no⟩]

/-- Atomics. -/
theorem witness_Atomics : ∀ c ∈ atomicCases, ∃ code s x o hdr, c.i.op? = some (code, o) ∧ Runs s x code o hdr
    ∧ c.more s x o = true := all_meet (by decide +kernel)

/-- A dirty line of the core's cache, and another core's. -/
def cached (s : State) : State :=
  { s with l1 := ssets L1Byte.absent s.l1 [(State.l1Key 0 dataAt, .dirty 5), (State.l1Key 1 (dataAt + 256), .dirty 6)] }

/-- A queued copy. -/
def queued : CopyReq :=
  { id := 9, core := 0, cluster := 0, block := 0, troupe := 0, ctx := 0, kind := 0, desc := [], idx := [], pages := [], seed := 0
    wid0 := 0, rnd := 0, seq := 0, bkey := 0, total := 1, settled := [], image := none, stop := none, loose := false }

def fenceCases : List Case :=
  let f (o : Op) : Nat := (o.c.extractLsb' 10 3).toNat
  [⟨.fence (op 0 z z 0), cached, fun _ _ o => opScope o = 0⟩, ⟨.fence (op 0 z z 2), cached, fun _ _ o => opScope o = 2⟩,
    ⟨.fence (op 0 z z 0xC03), cached, fun _ _ o => f o = 3 && opScope o = 3⟩,
    ⟨.pref (op 0 (r 2) (v 3) 0), also cached (strided 4), fun _ _ _ => true⟩,
    ⟨.cctl (op 0 z z 0), cached, fun _ _ o => f o = 0⟩, ⟨.cctl (op 0 z z 0x400), cached, fun _ _ o => f o = 1⟩,
    ⟨.cctl (op 0 (r 2) (v 3) 0x800), also cached (strided 4), fun s x o =>
      f o = 2 && good (s.checkAccess x.core x.ctx .load .any 1 (laneAddr o x.t 0) (pageChoice (laneAddr o x.t 0)))⟩,
    ⟨.cctl (op 0 (r 2) (v 3) 0xC00), also cached (strided 4), fun s x o =>
      f o = 3 && good (s.checkAccess x.core x.ctx .load .any 1 (laneAddr o x.t 0) (pageChoice (laneAddr o x.t 0)))⟩,
    ⟨.cctl (op 0 z z 0x1000), cached, fun s x o => f o = 4
      && !s.staleWork (fun q => q.core = x.core) (fun _ => true) (fun c => c = x.core)⟩,
    ⟨.cctl (op 0 z z 0x1000), also cached (fun s => { s with copies := [{ queued with pages := [(dataAt, ⟨18, false, false, false, 0, 0, 0, 0, false⟩)] }] }),
      fun s x o => f o = 4 && s.staleWork (fun q => q.core = x.core) (fun _ => true) (fun c => c = x.core)⟩]

/-- FencesAndCacheControl. -/
theorem witness_FencesAndCacheControl : ∀ c ∈ fenceCases, ∃ code s x o hdr, c.i.op? = some (code, o) ∧ Runs s x code o hdr
    ∧ c.more s x o = true := all_meet (by decide +kernel)

/-- WritesReadBack: two writes of the last byte below the sideband keys, a unit of 8 bytes, the last sector. -/
theorem witness_WritesReadBack : ∃ (s : State) (ws : List Host.Cell) (k n sector : Nat), swf L1Byte.absent s.l1 ∧ k < 2 ^ 63
    ∧ (∀ w ∈ ws, w.1 < 2 ^ 63) ∧ ws.length = 2 ∧ (∀ w ∈ ws, w.1 = k) ∧ (ws.reverse.find? (fun w => w.1 = k)).map (·.2) = some 2
    ∧ 0 < n ∧ n ≤ 8 ∧ sector * 64 < 2 ^ 63 ∧ k / 64 = sector :=
  ⟨State.reset, [(2 ^ 63 - 1, 1), (2 ^ 63 - 1, 2)], 2 ^ 63 - 1, 8, (2 ^ 63 - 1) / 64, by decide⟩

/-! ## The arena -/

/-- A flat region of `n` bytes at `a`, and a planar one of words with a rule. -/
def flat (a n : Nat) : DWord := BitVec.ofNat 64 (1 + a / 8 * 2 ^ 16 + n / 8 * 2 ^ 36)
def planar (a n ty rule : Nat) : DWord := BitVec.ofNat 64 (3 + ty * 4 + rule * 32 + a / 8 * 2 ^ 16 + n / 8 * 2 ^ 36)

def region (k : Nat) (d : DWord) : State → State := inBlock (fun b => { b with rgn := b.rgn.set k d, arenaSize := 65536 })

/-- Every lane's bytes lie in the region: the last of them at its end. -/
def inRegion (x : Env) (o : Op) (al n : Nat) (off : Nat → Nat) : Bool :=
  let d := x.b.region (o.c.extractLsb' 0 4).toNat
  rgnV d && (lanesSel x o).all (fun l => off l % al = 0 && off l + n ≤ rgnSize d && !x.b.arenaPoison (presentAt d + off l) n)

def planarOn (s : State) (x : Env) (o : Op) : Bool :=
  let d := x.b.region (o.c.extractLsb' 0 4).toNat
  rgnPlanar d && memWidth (memType o.c) = rgnWord d && ((lanesSel x o).foldl (fun (b : Option Block) l =>
    b.bind (fun b => planarWrite b d (nextAt d + ldaAddr o x.t l) ((x.t.readV o.dst.toNat l).toNat) (s.seq + 1) (.lane x.r.troupe l)
      (.store x.r.troupe) false))
    (some x.b)).isSome

def arenaCases : List Case :=
  let lda (_ : State) (x : Env) (o : Op) : Bool := inRegion x o (memWidth (memType o.c)) (memWidth (memType o.c)) (ldaAddr o x.t)
  let step (n : Nat) : State → State := vregs 3 (fun l => l * n)
  let block (st : Bool) (_ : State) (x : Env) (o : Op) : Bool :=
    let d := x.b.region (o.c.extractLsb' 0 4).toNat
    let bs := arenaBlocks o x.t (x.t.selected o.guard)
    (lanesSel x o).all (fun l => arenaBlockCheck o st x d bs l = none)
  let atom (_ : State) (x : Env) (o : Op) : Bool :=
    inRegion x o (memWidth (atomType o.c)) (memWidth (atomType o.c)) (x.t.operand 6 o o.a)
  [⟨.lda (op 4 (v 3) (im 0) 0xC0), also (region 0 (flat 0 64)) (step 4), lda⟩,
    ⟨.lda (op 4 (v 3) (im 0) 0xEF), also (region 15 (flat 64 128)) (step 8), lda⟩,
    ⟨.sta (op 4 (v 3) (im 0) 0xC0), also (region 0 (flat 0 64)) (step 4), fun s x o =>
      lda s x o && !rgnPlanar (x.b.region 0)⟩,
    ⟨.sta (op 4 (v 3) (im 0) 0xC0), also (region 0 (planar 0 64 1 1)) (step 0), fun s x o => lda s x o && planarOn s x o⟩,
    ⟨.sta (op 4 (v 3) (im 0) 0xC1), also (region 1 (planar 0 64 0 0)) (step 4), fun s x o => lda s x o && planarOn s x o⟩,
    ⟨.ldab (op 4 (v 3) (v 5) 0x180), also (region 0 (flat 0 128)) (also (step 4) (vregs 5 (fun l => 64 + l / 8))), block false⟩,
    ⟨.stab (op 4 (v 3) (v 5) 0x180), also (region 0 (flat 0 128)) (also (step 4) (vregs 5 (fun l => 127 - l / 8))), block true⟩,
    ⟨.atoma (op 4 (v 3) (v 5) 0xA0), also (region 0 (flat 0 64)) (step 4), atom⟩,
    ⟨.atoma (op 4 (v 3) (v 5) 0x160), also (region 0 (flat 0 64)) (step 0), fun s x o => !x.t.det && atom s x o⟩,
    ⟨.rgq (op 4 z z 0), id, fun _ x _ => !rgnV (x.b.region 0)⟩, ⟨.rgq (op 4 z z 15), region 15 (flat 0 64), fun _ x _ => rgnV (x.b.region 15)⟩]

/-- ArenaAccesses. -/
theorem witness_ArenaAccesses : ∀ c ∈ arenaCases, ∃ code s x o hdr, c.i.op? = some (code, o) ∧ Runs s x code o hdr
    ∧ c.more s x o = true := all_meet (by decide +kernel)

/-- PlanarStoresDoNotDependOnOrder: the rules, and two lanes of different troupes. -/
theorem witness_PlanarStores : (∃ t1 l1 t2 l2 : Nat, t1 ≠ t2 ∧ l1 < 128 ∧ l2 < 128)
    ∧ ([planar 0 64 0 0, planar 0 64 0 2, planar 0 64 1 1, planar 0 64 2 1].all (fun d =>
      rgnRule d = 0 || rgnRule d = 2 || (rgnRule d = 1 && (rgnType d = 1 || rgnType d = 2)))) = true :=
  ⟨⟨0, 127, 63, 0, by decide⟩, by decide +kernel⟩

/-- A turn of regions 0 and 1 that is new, one that is pending already, and one beside a disjoint one. -/
def turnCases : List Case :=
  let turns (us : List Turn) : State → State := inBlock (fun b => { b with turns := us })
  let ok (_ : State) (x : Env) (o : Op) : Bool :=
    let g : BitVec 64 := x.t.rawPair o.a 0
    let m := x.t.operand 6 o o.b 0
    let m16 : BitVec 16 := BitVec.ofNat 16 m
    g.getLsbD x.r.troupe && g.toNat < 2 ^ x.b.troupes.length && m < 2 ^ 16
      && (List.range 16).all (fun k => !m16.getLsbD k || (rgnV (x.b.region k) && rgnPlanar (x.b.region k)))
      && x.t.active = x.t.launched &&& ~~~x.t.exited
      && x.b.turns.all (fun u => (u.g = g && u.m = m16) || (u.g &&& g = 0 && u.m &&& m16 = 0))
  let on (us : List Turn) : State → State :=
    also (turns us) (also (saddr 2 1) (also (region 0 (planar 0 64 1 1)) (region 15 (planar 128 64 0 0))))
  let word := Instr.turn (op 0 (r 2) (r 5) 0)
  let m : State → State := sregs [(5, 0x8001)]
  [⟨word, also (on []) m, ok⟩, ⟨word, also (on [⟨1, 0x8001, 0⟩]) m, ok⟩, ⟨word, also (on [⟨2, 2, 2⟩]) m, ok⟩, ⟨word, on [], ok⟩]

/-- TurnArrival. -/
theorem witness_TurnArrival : ∀ c ∈ turnCases, ∃ code s x o hdr, c.i.op? = some (code, o) ∧ Runs s x code o hdr
    ∧ c.more s x o = true := all_meet (by decide +kernel)

/-! ## The matrix engine's instructions -/

/-- The troupe is a pending member with every tile, and has issued the instructions of `list`. -/
def member (list : List MInsn) : State → State :=
  inBlock (fun b => { b with pend := [⟨0, 1, 0xFFFF, false, list⟩] })

def commitInsn : MInsn :=
  { i := .mcommit (op 0 z z 0), svals := [], idx := [], grp := [], tags := [], counts := [], pages := [], step := 0, seq := 0, fence := 0, seed := 0, rnd := 0 }

def acczInsn : MInsn := { commitInsn with i := .accz (op 1 z z 0) }

/-- E4M3 by E3M2, eight columns, one block, B in region 2. -/
def ctl : Option Nat := some 0x801CC

def streamCases : List Case :=
  let on (f : State → State) : State → State := also (member []) (also (region 0 (flat 0 8192)) (also (region 2 (flat 8192 8192)) f))
  let step (code : Nat) (_ : State) (x : Env) (o : Op) : Bool := stepTrap code o x 0 = none
  let accst (g : Bool) (s : State) (x : Env) (o : Op) : Bool := accstTrap o x = none && accstGlobal o = g
    && (!g || good (s.pagesFor x.core x.ctx .store .plain
      (accstRows (accstType o) (x.t.rawPair o.a 0).toNat (accstWindow (stepB x.t o)))))
  let commit (n : Nat) (_ : State) (x : Env) (_ : Op) : Bool :=
    notMember x = none && partialEntry x = none && aheadTrap x = none && x.b.committedOf x.r.troupe = n
  [⟨.mma (op 0 (v 64) (r 10) 0x1800 ctl), on id, fun s x o => o.a.cls = .v && step 0x163 s x o⟩,
    ⟨.mma (op 15 (r 9) (r 10) 0x1800 ctl), on id, fun s x o => o.a.cls ≠ .v && step 0x163 s x o⟩,
    ⟨.mmaSp (op 0 (v 64) (r 10) 0x1800 ctl), on id, step 0x164⟩,
    ⟨.mmaG (op 0 (v 8) (r 10) 0x1800 ctl), on (vregs 8 (fun l => if l = 3 then 0xFFFFFFFF else l)), fun _ x o =>
      stepShape 0x165 o x = none && aheadTrap x = none && stepAlign 0x165 o x 0 = none && gOutside o x = []
        && rangeTrap x (stepRanges 0x165 o x 0) = none⟩,
    ⟨.accz (op 1 z z 0), on id, fun _ x o =>
      notMember x = none && badTile x (o.dst.toNat % 16) = none && partialEntry x = none && aheadTrap x = none⟩,
    ⟨.accst (op 1 (r 2) (r 4) 0x1800 (some 0xB)), on id, accst false⟩,
    ⟨.accst (op 1 (r 2) (r 4) 0x1800 (some 0x20B)), on (saddr 2 dataAt), accst true⟩,
    ⟨.patld (op 0 (r 2) (r 4) 0x828), on (also (saddr 2 dataAt) (sregs [(5, 64)])), fun s x o => patldTrap o x = none
      && good (s.pagesFor x.core x.ctx .load .plain [((x.t.rawPair o.a 0).toNat, patldCount o x.t)])⟩,
    ⟨.mcommit (op 0 z z 0), on id, commit 0⟩,
    ⟨.mcommit (op 0 z z 0), member (List.replicate 7 [acczInsn, commitInsn]).flatten, commit 7⟩,
    ⟨.mcommit (op 0 z z 0), member (List.replicate 8 [acczInsn, commitInsn]).flatten, commit 8⟩]

/-- MatrixInstructionsEnterTheStream. -/
theorem witness_MatrixInstructionsEnterTheStream : ∀ c ∈ streamCases, ∃ code s x o hdr, c.i.op? = some (code, o)
    ∧ Runs s x code o hdr ∧ c.more s x o = true := all_meet (by decide +kernel)

/-- Two steps, and the last of them of a resumed word. -/
def mloopCases : List Case :=
  let on (f : State → State) : State → State := also (member []) (also (region 0 (flat 0 8192)) (also (region 2 (flat 8192 8192)) f))
  let steps (s : State) (x : Env) (o : Op) : Bool :=
    let start := if x.t.rm.isSome then x.t.prog.toNat else 0
    let insn (k : Nat) : MInsn :=
      { i := .mloop o, svals := srcS x.t false o.a ++ srcS x.t false o.b, idx := [], grp := [], tags := [], counts := [], pages := []
        step := start + k, seq := s.seq + k + 1, fence := sget 0 x.b.fences x.r.troupe, seed := x.t.seed, rnd := x.t.rnd }
    (List.range (o.dst.toNat / 16 + 1 - start)).all (fun k =>
      stepTrap 0x166 o { x with b := (List.range k).foldl (fun b j => b.enterInsn x.r.troupe (insn j)) x.b } (start + k) = none)
  [⟨.mloop (op 0x10 (r 4) (r 6) 0x1800 ctl), on id, fun s x o => x.t.rm = none && steps s x o⟩,
    ⟨.mloop (op 0x10 (r 4) (r 6) 0x1800 ctl), on (inTroupe (fun t => { t with rm := some 1, prog := 1 })), fun s x o =>
      x.t.rm.isSome && steps s x o⟩]

/-- MloopEntersItsSteps. -/
theorem witness_MloopEntersItsSteps : ∀ c ∈ mloopCases, ∃ code s x o hdr, c.i.op? = some (code, o) ∧ Runs s x code o hdr
    ∧ c.more s x o = true := all_meet (by decide +kernel)

/-- An act of two members with the lists given. -/
def actOf2 (a b : List MInsn) : MAct :=
  ⟨[⟨0, false, a, true⟩, ⟨1, false, b, true⟩], 16, 3, 0, [], [Batch.fresh], none, false⟩

/-- ActsMatchInstructions: the same entry, the same MCOMMIT, different ones, and a member with none. -/
theorem witness_ActsMatchInstructions :
    (∀ a ∈ [actOf2 [acczInsn] [acczInsn, commitInsn], actOf2 [commitInsn] [commitInsn], actOf2 [acczInsn] [commitInsn]],
      a.bad = none ∧ (∀ m ∈ a.members, m.left = false) ∧ ∃ is, MAct.heads a.members = some is ∧ is ≠ [])
    ∧ (let a := actOf2 [acczInsn] []
       a.bad = none ∧ (∀ m ∈ a.members, m.left = false) ∧ ∃ m ∈ a.members, m.list = []) := by
  refine ⟨?_, rfl, by decide, ⟨1, false, [], true⟩, by simp [actOf2], rfl⟩
  intro a ha
  simp only [List.mem_cons, List.not_mem_nil, or_false] at ha
  rcases ha with rfl | rfl | rfl <;> exact ⟨rfl, by decide, _, rfl, by simp⟩

/-- The block has a second troupe whose lanes have all exited. -/
def second : State → State := inBlock (fun b => { b with troupes := b.troupes ++ (b.troupes.map (fun t => { t with exited := t.launched })) })

/-- The troupe is the one member of an act. -/
def joined (bs : List Batch) (bad : Option (Nat × Nat)) : State → State :=
  inBlock (fun b => { b with acts := [⟨[⟨0, false, [], false⟩], 16, 3, 0, [], bs, bad, false⟩] })

def membershipCases : List Case :=
  let conv (gone : Bool) (_ : State) (x : Env) (o : Op) : Bool :=
    let g : BitVec 64 := x.t.rawPair o.a 0
    convShape o x = none && gone = (List.range 64).any (fun u => g.getLsbD u && (x.b.troupes[u]?).any (fun q => q.launched &&& ~~~q.exited = 0))
  let mwait (k : Nat) (_ : State) (x : Env) (o : Op) : Bool := match x.b.mwait x.r.troupe o.b.imm11.toNat with
    | .done _ => k = 0
    | .wait => k = 1
    | .err _ _ _ => k = 2
  let sits (x : Env) (k : MAct → Member → Bool) : Bool :=
    ((x.b.actOf 0).bind (fun n => x.b.acts[n]?)).any (fun a => (a.member? 0).any (fun m => k a m))
  let quiet (x : Env) : Bool := x.b.actErr.all (fun e => e.1 ≠ 0) && (x.b.pending? 0).isNone
  let met (n : Nat) (_ : State) (x : Env) (o : Op) : Bool := quiet x && o.b.imm11.toNat = n && sits x (fun a m =>
    a.bad.isNone && m.list.isEmpty && a.pendingCount m = n && a.batches.all (fun y => !y.complete || y.reported.contains 0 || y.err.isNone))
  let wait := Instr.mwait (op 0 z (im 0) 0)
  [⟨.mconv (op 0 (r 2) (im 1) 0), saddr 2 1, conv false⟩,
    ⟨.mconv (op 0 (r 2) (im 1) 1), also (saddr 2 3) (inBlock (fun b => { b with troupes := b.troupes ++ b.troupes })), conv false⟩,
    ⟨.mconv (op 0 (r 2) (im 1) 0), also (saddr 2 3) second, conv true⟩,
    ⟨.mdisb (op 0 z z 0), joined [Batch.fresh] none, fun _ x _ => x.t.active = x.t.live && sits x (fun a m => !a.dissolved && !m.dirty)⟩,
    ⟨.mconv (op 0 (r 2) (im 1) 0), also (saddr 2 1) (inBlock (fun b => { b with
      acts := [⟨[⟨0, false, [acczInsn], true⟩], 16, 3, 0, [], [Batch.fresh], some (7, 1), true⟩] })), fun s x o => conv false s x o
        && (((x.b.actOf 0).bind (fun k => x.b.acts[k]?)).any (fun a => a.dissolved && (a.member? 0).isSome && a.bad = some (7, 1)))⟩,
    ⟨.mfence (op 0 z z 0), id, fun _ x _ => !x.t.arenaBusy⟩,
    ⟨.mfence (op 0 z z 0), inTroupe (fun t => { t with arenaBusy := true }), fun _ x _ => x.t.arenaBusy⟩,
    ⟨wait, id, fun _ x _ => quiet x && (x.b.actOf 0).isNone⟩, ⟨wait, joined [Batch.fresh] none, met 0⟩,
    ⟨.mwait (op 0 z (im 1) 0), joined [⟨1, 0, false, none, [], 1, [], []⟩] none, met 1⟩,
    ⟨wait, id, mwait 0⟩, ⟨wait, joined [⟨1, 0, false, none, [], 1, [], []⟩] none, mwait 1⟩,
    ⟨.mwait (op 0 z (im 7) 0), member [], mwait 1⟩,
    ⟨wait, joined [Batch.fresh] (some (0, 1)), mwait 2⟩, ⟨wait, inBlock (fun b => { b with actErr := [(0, 2, 0xFFFFFFFF)] }), mwait 2⟩]

/-- ActMembership. -/
theorem witness_ActMembership : ∀ c ∈ membershipCases, ∃ code s x o hdr, c.i.op? = some (code, o) ∧ Runs s x code o hdr
    ∧ c.more s x o = true := all_meet (by decide +kernel)

/-- FP32 and BF16 windows at the end of the tile, and one of an MX format. -/
def accldCases : List Case :=
  let shape (ty : Nat) (_ : State) (x : Env) (o : Op) : Bool :=
    fnType o.c = ty && accldShape o x (x.t.operand 6 o o.a 0) = none
  [⟨.accld (op 8 (r 3) z 0x161), sregs [(3, 127 + (256 - 16) * 2 ^ 16)], shape 11⟩,
    ⟨.accld (op 8 (r 3) z 0x141), sregs [(3, 96 + 31 * 2 ^ 8 + (256 - 32) * 2 ^ 16)], shape 10⟩,
    ⟨.accld (op 8 (r 3) z 0x181), id, shape 12⟩]

/-- AccumulatorReads. -/
theorem witness_AccumulatorReads : ∀ c ∈ accldCases, ∃ code s x o hdr, c.i.op? = some (code, o) ∧ Runs s x code o hdr
    ∧ c.more s x o = true := all_meet (by decide +kernel)

/-! ## Copies, queues, barriers, tags -/

/-- A descriptor in region 5: words of four elements from global memory to global memory, with a barrier. -/
def copyBits (e1 extra : Nat) : Nat :=
  5 * 2 ^ 6 + 5 * 2 ^ 11 + dataAt * 2 ^ 64 + (dataAt + 0x1000) * 2 ^ 128 + (dataAt + 0x2000) * 2 ^ 256 + 4 * 2 ^ 320 + e1 * 2 ^ 336
    + 1 * 2 ^ 352 + 16 * 2 ^ 384 + 16 * 2 ^ 448 + extra

def copyIn (e1 extra : Nat) : State → State :=
  also (region 5 (flat 0 128)) (also (inBlock (fun b => b.wrArena 64 (bytesOf 64 (copyBits e1 extra)) 0 .engine)) (sregs [(10, 64)]))

def copies (n : Nat) (s : State) : State := { s with copies := List.replicate n queued }

def copyCases : List Case :=
  let ok (kind : Nat) (s : State) (x : Env) (o : Op) : Bool :=
    let s0 := s.flushCore x.core
    (s.copies.filter (fun c => c.core = x.core)).length < 64 && (match readDesc o x with
      | .ok (d, _) => copyReason x.b kind d = none && copyAligned x kind d = none && copyBounds x kind d = none
        && (match (if kind = 0 then .ok [] else readIndex x s0 d) with
          | .ok idx => indexedRows x (srcSide kind d) idx = none && indexedRows x (dstSide kind d) idx = none
            && (!x.t.det || copyOverlap x.b kind d idx = none)
            && (match copyPages x s0 kind d idx with
              | .ok (_, key) => (((s0.yieldLines x.core [key]).readBarrier (copyBarrier x.r d key)).sec + d.units < 2 ^ 32)
              | _ => false)
          | _ => false)
      | _ => false)
  let full (s : State) (x : Env) (_ : Op) : Bool := (s.copies.filter (fun c => c.core = x.core)).length = 64
  let idx : Nat := (dataAt + 0x3000) * 2 ^ 192
  [⟨.copy (op 5 (r 10) z 0), also (copyIn 2 0) (copies 63), ok 0⟩, ⟨.copy (op 5 (r 10) z 0), also (copyIn 2 0) deterministic, ok 0⟩,
    ⟨.copyg (op 5 (r 10) z 0), also (copyIn 2 idx) (store (dataAt + 0x3000) 8 0xFFFFFFFF00000001), ok 1⟩,
    ⟨.copys (op 5 (r 10) z 0), also (copyIn 2 idx) (store (dataAt + 0x3000) 8 0x100000000), ok 2⟩,
    ⟨.copy (op 5 (r 10) z 0), copies 64, full⟩, ⟨.copyg (op 5 (r 10) z 0), copies 64, full⟩, ⟨.copys (op 5 (r 10) z 0), copies 64, full⟩]

/-- CopiesEnterTheQueue. -/
theorem witness_CopiesEnterTheQueue : ∀ c ∈ copyCases, ∃ code s x o hdr, c.i.op? = some (code, o) ∧ Runs s x code o hdr
    ∧ c.more s x o = true := all_meet (by decide +kernel)

def queueCases : List Case :=
  let claim (next limit : Nat) (owners : List Nat) (s : State) : State :=
    { s with claims := s.claims.set 31 ⟨BitVec.ofNat 32 next, BitVec.ofNat 32 limit, owners⟩ }
  let recs (n : Nat) (s : State) : State := { s with lq := s.lq.set 15 (List.replicate n ⟨[], 0, 0, 0, none, false⟩) }
  let holds (b : Bool) (s : State) (x : Env) (_ : Op) : Bool :=
    let q := (s.claims[31]?).getD ⟨0, 0, []⟩
    b = (q.owners.contains x.cl.launch && q.next.toNat < q.limit.toNat)
  let take := Instr.tclaim (op 20 z (im 64) 31)
  let la := Instr.launch (op 4 (r 2) z 3)
  let len (n : Nat) (d : Bool) (s : State) (x : Env) (_ : Op) : Bool := (s.queue 15).length = n && x.t.det = d
  let read (cause : Nat) (s : State) (x : Env) (o : Op) : Bool := len 0 false s x o
    && (match (s.flushCore x.core).checkLoad x.core x.ctx .plain 256 256 (x.t.rawPair o.a 0).toNat (pageChoice (x.t.rawPair o.a 0).toNat) with
      | .error f => f.cause = cause
      | .ok _ => false)
  [⟨take, fun s => claim 0 100 (s.launches.map (·.1)) s, holds true⟩, ⟨take, fun s => claim 99 100 (s.launches.map (·.1)) s, holds true⟩,
    ⟨take, fun s => claim 100 100 (s.launches.map (·.1)) s, holds false⟩, ⟨take, claim 0 100 [], holds false⟩,
    ⟨la, also (recs 63) (saddr 2 dataAt), fun s x o => len 63 false s x o
      && good ((s.flushCore x.core).checkLoad x.core x.ctx .plain 256 256 (x.t.rawPair o.a 0).toNat (pageChoice (x.t.rawPair o.a 0).toNat))⟩,
    ⟨la, also (recs 0) (also deterministic (saddr 2 dataAt)), fun s x o => len 0 true s x o
      && good ((s.flushCore x.core).checkLoad x.core x.ctx .plain 256 256 (x.t.rawPair o.a 0).toNat (pageChoice (x.t.rawPair o.a 0).toNat))⟩,
    ⟨la, saddr 2 (dataAt + 64), read 0x0A⟩, ⟨la, saddr 2 hole, read 0x08⟩, ⟨la, recs 64, len 64 false⟩, ⟨la, also (recs 64) deterministic, len 64 true⟩,
    ⟨.sleep (op 0 z (im 0) 0), id, fun _ x o => x.t.operand 6 o o.b 0 = 0⟩, ⟨.sleep (op 0 z (im 1) 0), id, fun _ x o => x.t.operand 6 o o.b 0 = 1⟩]

/-- QueueInstructions. -/
theorem witness_QueueInstructions : ∀ c ∈ queueCases, ∃ code s x o hdr, c.i.op? = some (code, o) ∧ Runs s x code o hdr
    ∧ c.more s x o = true := all_meet (by decide +kernel)

/-- Global barriers and one in the arena, at the ends of the counts. -/
def barrierCases : List Case :=
  let bar (b : Barrier) (ok : Nat → Barrier → Bool) (s : State) (x : Env) (o : Op) : Bool := match s.findBarrier o x with
    | .ok (p, s1) => s1.readBarrier p = b && ok (x.t.operand 6 o o.b 0) b
    | _ => false
  let at_ (i : Instr) (n : Nat) (b : Barrier) (f : State → State) (ok : Nat → Barrier → Bool) : Case :=
    ⟨i, also (saddr 2 dataAt) (also (sregs [(5, n)]) (also (store dataAt 16 b.toNat) f)), bar b ok⟩
  let b0 : Barrier := ⟨3, 2, 5, 9, 0, 0⟩
  [at_ (.tbinit (op 0 (r 2) (r 5) 0)) 1 b0 id (fun n _ => n = 1), at_ (.tbinit (op 0 (r 2) (r 5) 0)) (2 ^ 20 - 1) b0 id (fun n _ => n < 2 ^ 20),
    ⟨.tbinit (op 0 (r 6) (r 5) 0x10), also (region 0 (flat 0 64)) (sregs [(5, 1), (6, 48)]), bar ⟨0, 0, 0, 0, 0, 0⟩ (fun n _ => n = 1)⟩,
    at_ (.tbexpect (op 0 (r 2) (r 5) 0)) (2 ^ 32 - 6) b0 id (fun n b => b.sec + n = 2 ^ 32 - 1),
    at_ (.tbarrive (op 4 (r 2) (r 5) 0)) 0 b0 id (fun n b => max n 1 ≤ b.arv), at_ (.tbarrive (op 4 (r 2) (r 5) 0)) 2 b0 id (fun n b => n = b.arv),
    at_ (.tbarrive (op 4 (r 2) (r 5) 0x20)) 5 b0 id (fun n b => n = b.sec),
    at_ (.tbwait (op 0 (r 2) (r 5) 0)) 4 b0 id (fun n b => b.phase ≠ n % 16 && b.err &&& 0b1011 = 0),
    at_ (.tbwait (op 0 (r 2) (r 5) 0)) 19 b0 id (fun n b => b.phase = n % 16),
    at_ (.tbtest (op 1 (r 2) (r 5) 0)) 4 { b0 with err := 4 } id (fun n b => b.phase ≠ n % 16 && b.err &&& 0b1011 = 0),
    at_ (.tbtest (op 1 (r 2) (r 5) 0)) 3 b0 id (fun n b => b.phase = n % 16),
    at_ (.tbtest (op 1 (r 2) (r 5) 0)) 3 b0 deterministic (fun n b => b.phase = n % 16)]

/-- TransactionBarriers. -/
theorem witness_TransactionBarriers : ∀ c ∈ barrierCases, ∃ code s x o hdr, c.i.op? = some (code, o) ∧ Runs s x code o hdr
    ∧ c.more s x o = true := all_meet (by decide +kernel)

/-- BarrierArithmetic: its clauses at their ends. -/
theorem witness_BarrierArithmetic : (∃ b : Barrier, b.arv = 0 ∧ b.sec = 0) ∧ (∃ b : Barrier, b.arv ≠ 0) ∧ (∃ b : Barrier, b.sec ≠ 0)
    ∧ ∃ b : Barrier, b.phase < 2 ^ 4 ∧ b.arv < 2 ^ 20 ∧ b.sec < 2 ^ 32 ∧ b.reload < 2 ^ 20 ∧ b.err < 2 ^ 4 ∧ b.rsv < 2 ^ 48 :=
  ⟨⟨⟨15, 0, 0, 1, 0, 0⟩, rfl, rfl⟩, ⟨⟨0, 1, 0, 1, 0, 0⟩, by decide⟩, ⟨⟨0, 0, 1, 1, 0, 0⟩, by decide⟩,
    ⟨15, 2 ^ 20 - 1, 2 ^ 32 - 1, 2 ^ 20 - 1, 15, 2 ^ 48 - 1⟩, by decide⟩

def tagCases : List Case :=
  let tags (g : Tag) : State → State := inCluster (fun cl => { cl with tags := cl.tags.set 7 g })
  let tag (x : Env) : Tag := (x.cl.tags[7]?).getD ⟨0, 0, [], []⟩
  let two : State → State := inBlock (fun b => { b with troupes := b.troupes ++ b.troupes })
  let bara (last : Bool) (_ : State) (x : Env) (o : Op) : Bool :=
    let n := x.t.operand 6 o o.b 0
    n ≠ 0 && n ≤ x.cl.troupeCount && (!(tag x).arv.contains 0 || (tag x).done.contains 0) && x.t.active = x.t.live
      && ((tag x).count = 0 || n = (tag x).total) && last = decide ((tag x).count + 1 = n)
  let barw (d : Bool) (_ : State) (x : Env) (_ : Op) : Bool :=
    (tag x).arv.contains 0 && x.t.active = x.t.live && (tag x).done.contains 0 = d
  let cnt (n : Nat) : Case := ⟨.cntrd (op 4 z (im n) 0), id, fun _ x o => x.t.operand 6 o o.b 0 = n⟩
  [⟨.bara (op 0 z (im 1) 7), id, bara true⟩, ⟨.bara (op 0 z (im 2) 7), two, bara false⟩,
    ⟨.bara (op 0 z (im 2) 7), also two (tags ⟨1, 2, [1], []⟩), bara true⟩,
    ⟨.barw (op 0 z z 7), tags ⟨0, 1, [0], [0]⟩, barw true⟩, ⟨.barw (op 0 z z 7), tags ⟨1, 2, [0], []⟩, barw false⟩,
    cnt 0, cnt 4, cnt 5, cnt 15, cnt 16, cnt 22, cnt 23, ⟨.cntrd (op 4 z (im 1) 0), deterministic, fun _ x _ => x.t.det⟩]

/-- TagsAndCounters. -/
theorem witness_TagsAndCounters : ∀ c ∈ tagCases, ∃ code s x o hdr, c.i.op? = some (code, o) ∧ Runs s x code o hdr
    ∧ c.more s x o = true := all_meet (by decide +kernel)

end Sys2Proof.Tests
end

