-- ==== Sys2Proof/Tests/Clauses.lean ====
section
/-! SUPPORT. For each clause of a statement about words, a state and a word that meet its hypotheses together, at the ends of
their ranges: control, traps, special registers, the lane-local ops that have several clauses, fibres. -/

namespace Sys2Proof.Tests

set_option Elab.async false

open Sys2Proof.Machine Sys2Proof.Claims Sys2Proof.Lab

/-! ## Control -/

/-- All lanes are sent, half of them, none; by address and by offset. -/
def transferCases : List Case :=
  let rel (s : State) (x : Env) (o : Op) (g : Lanes) (need : Need) : Bool :=
    acceptedB s x [⟨g, relTarget x o, need⟩, fallMove x g]
  let reg (b : Op → Src) (need : Need) (s : State) (x : Env) (o : Op) : Bool :=
    acceptedB s x (registerMoves x.t (b o) (x.t.selected o.guard) need ++ [fallMove x (x.t.selected o.guard)])
  [⟨.bra (op 0 z (im 1) 0), id, fun s x o => rel s x o (x.t.selected o.guard) .any⟩,
    ⟨.bra (Op.p0 (op 0 z (im 2) 0)), also (headers 0) (preg 0 0xFF), fun s x o => rel s x o (x.t.selected o.guard) .any⟩,
    ⟨.brc (op 0 (v 1) (im 2) 0), also (headers 0) (preg 1 0xFF),
      fun s x o => o.c = 0 && rel s x o (x.t.selected o.guard &&& x.t.predSrc o.a) .any⟩,
    ⟨.brc (op 0 (v 1) (im 2) 1), also (headers 0) (preg 1 1), fun s x o => o.c = 1 && rel s x o (x.t.selected o.guard) .any⟩,
    ⟨.brc (op 0 (v 1) (im 1) 1), id, fun s x o => x.t.predSrc o.a = 0 && rel s x o 0 .any⟩,
    ⟨.brc (op 0 (v 1) (im 2) 2), also (headers 0) (preg 1 0xFFFF), fun s x o => o.c = 2 && rel s x o (x.t.selected o.guard) .any⟩,
    ⟨.brx (op 0 z (v 2) 0), also (headers 2) (also (vregs 2 (fun l => codeAt + 8 + l / 8 * 8)) (vreg 3 0)), reg (·.b) .flagX⟩,
    ⟨.brx (op 0 z (r 2) 0), also (headers 2) (saddr 2 (codeAt + 16)), reg (·.b) .flagX⟩,
    ⟨.call (op 2 z (im 1) 0), headers 1, fun s x o => o.b.isImm && rel s x o (x.t.selected o.guard) .flagC⟩,
    ⟨.call (Op.p0 (op 2 z (v 2) 0)), also (headers 1) (also (vaddr 2 (codeAt + 16)) (preg 0 1)), reg (·.b) .flagC⟩,
    ⟨.ret (op 0 z (v 2) 0), also (headers 0) (also (vregs 2 (fun l => codeAt + 8 + l % 2 * 8)) (vreg 3 0)), reg (·.b) .any⟩]

/-- ControlTransfers. -/
theorem witness_ControlTransfers : ∀ c ∈ transferCases, ∃ code s x o hdr, c.i.op? = some (code, o) ∧ Runs s x code o hdr
    ∧ c.more s x o = true := all_meet (by decide +kernel)

/-- The targets of some of the lanes, or of all, fail, and none waits for a page: the word's own address, no multiple of 8, and an
address at which no header stands. -/
def badTargetCases : List Case :=
  let fails (moves : Op → Env → List Move) (s : State) (x : Env) (o : Op) : Bool :=
    let ts := ((moves o x).filter (fun m => m.mask ≠ 0)).map (s.checkTarget x.core x.ctx)
    ts.any (fun t => match t with
      | .bad _ => true
      | _ => false)
      && ts.all (fun t => match t with
      | .pending _ => false
      | _ => true)
  let rel (g : Op → Env → Lanes) (need : Need) : State → Env → Op → Bool :=
    fails (fun o x => [⟨g o x, relTarget x o, need⟩, fallMove x (g o x)])
  let reg (b : Op → Src) (need : Need) : State → Env → Op → Bool :=
    fails (fun o x => registerMoves x.t (b o) (x.t.selected o.guard) need ++ [fallMove x (x.t.selected o.guard)])
  let sel (o : Op) (x : Env) : Lanes := x.t.selected o.guard
  let half : State → State := also (headers 3) (also (vregs 2 (fun l => codeAt + l / 8 * 16)) (vreg 3 0))
  [⟨.bra (op 0 z (im 1) 0), fun s => { s with cur := s.cur.map (fun c => { c with pc := c.pc + 4 }) }, rel sel .any⟩,
    ⟨.bra (Op.p0 (op 0 z (im 0) 0)), also (headers 0) (preg 0 0xFF), rel sel .any⟩,
    ⟨.brc (op 0 (v 1) (im 0) 0), also (headers 0) (preg 1 1), rel (fun o x => sel o x &&& x.t.predSrc o.a) .any⟩,
    ⟨.brc (Op.p0 (op 0 (v 1) (im 0) 1)), also (headers 0) (also (preg 0 0xF0) (preg 1 0x80)), rel sel .any⟩,
    ⟨.brx (op 0 z (v 2) 0), half, reg (·.b) .flagX⟩, ⟨.brx (op 0 z (r 2) 0), also (headers 1) (saddr 2 (codeAt + 16)), reg (·.b) .flagX⟩,
    ⟨.brx (Op.p0 (op 0 z (v 2) 0)), also half (preg 0 0x8001), reg (·.b) .flagX⟩,
    ⟨.call (op 2 z (im 1) 0), headers 2, rel sel .flagC⟩, ⟨.call (op 4 z (v 2) 0), half, reg (·.b) .flagC⟩,
    ⟨.call (Op.p0 (op 4 z (v 2) 0)), also (headers 0) (also (vaddr 2 hole) (preg 0 0x8000)), reg (·.b) .flagC⟩,
    ⟨.ret (op 0 z (v 2) 0), half, reg (·.b) .any⟩, ⟨.ret (Op.p0 (op 0 z (v 2) 0)), also half (preg 0 0x81), reg (·.b) .any⟩]

/-- BadTargetTraps. -/
theorem witness_BadTargetTraps : ∀ c ∈ badTargetCases, ∃ code s x o hdr, c.i.op? = some (code, o) ∧ Runs s x code o hdr
    ∧ c.more s x o = true := all_meet (by decide +kernel)

/-- The target of a move: no multiple of 8, in a page that nothing maps, a header with and without the flag that is asked for, a
word that is no header. -/
theorem witness_target_checks :
    let s := headers 1 (at_ (wd (.nop (op 0 z z 0))))
    let toward (a : Nat) (n : Need) : Move := ⟨1, BitVec.ofNat 64 a, n⟩
    let word (m : Move) (k : DWord → Bool) : Bool := m.target.toNat % 8 = 0 && (match s.fetch 0 0 m.target with
      | .word w => k w
      | _ => false)
    (toward (codeAt + 4) .any).target.toNat % 8 ≠ 0
    ∧ ((toward hole .any).target.toNat % 8 = 0 ∧ (match s.fetch 0 0 (toward hole .any).target with
      | .fault _ => true
      | _ => false) = true)
    ∧ word (toward (codeAt + 8) .any) (fun w => kindOf w = 3) = true
    ∧ word (toward (codeAt + 8) .flagC) (fun w => kindOf w = 3 && w.getLsbD 0) = true
    ∧ word (toward (codeAt + 8) .flagX) (fun w => kindOf w = 3 && !w.getLsbD 1) = true
    ∧ word (toward codeAt .any) (fun w => kindOf w ≠ 3) = true := by
  decide +kernel

/-- Some lanes are left, none is; out of a handler, and in one. -/
def exitCases : List Case :=
  let left (x : Env) (o : Op) : Lanes := x.t.active &&& ~~~x.t.selected o.guard
  [⟨.exit (Op.p0 (op 0 z z 0)), preg 0 0x7FFF, fun _ x o => left x o ≠ 0⟩,
    ⟨.exit (op 0 z z 0), id, fun _ x o => left x o = 0 && x.t.frontier.length = 1 && x.t.held = none⟩,
    ⟨.exit (op 0 z z 0), inHandler 0xFFFF, fun _ x o => left x o = 0 && x.t.frontier.length = 1 && x.t.held ≠ none⟩]

/-- ExitEndsLanes. -/
theorem witness_ExitEndsLanes : ∀ c ∈ exitCases, ∃ code s x o hdr, c.i.op? = some (code, o) ∧ Runs s x code o hdr
    ∧ c.more s x o = true := all_meet (by decide +kernel)

/-- With a lane selected and with none. -/
def yieldCases : List Case :=
  [⟨.yieldRun (op 0 z z 0), id, fun _ x o => x.t.selected o.guard ≠ 0⟩,
    ⟨.yieldRun (Op.p0 (op 0 z z 0)), id, fun _ x o => x.t.selected o.guard = 0⟩, ⟨.nop (op 0 z z 0), id, fun _ _ _ => true⟩]

/-- YieldAndNop. -/
theorem witness_YieldAndNop : ∀ c ∈ yieldCases, ∃ code s x o hdr, c.i.op? = some (code, o) ∧ Runs s x code o hdr
    ∧ c.more s x o = true := all_meet (by decide +kernel)

/-- YieldAndNop, of the entry that issues next. -/
theorem witness_owed_run : ∃ (e : FEntry) (es : List FEntry) (n : Nat), e.yielded = n ∧ e.owes = 0
    ∧ (∀ f ∈ es, f.mask ≠ 0 → f.pc ≠ e.pc ∧ f.owes ≠ 0 ∧ f.owes ≤ n) ∧ (∃ f ∈ es, f.mask ≠ 0) ∧ (∀ f ∈ e :: es, f.owes = 0 ∨ f.yielded < f.owes) :=
  ⟨⟨0, 9, 1, .header, 0, 2, 0⟩, [⟨8, 0, 2, .header, 2, 1, 0⟩, ⟨16, 0, 4, .header, 1, 0, 0⟩], 2, rfl, rfl, by decide, by decide, by decide⟩

/-- TransfersReachTheirTargets: lanes sent to another entry's address and to a new one, no target being the issuing entry's. -/
theorem witness_TransfersReachTheirTargets : ∃ (e : FEntry) (es : List FEntry) (ok : List (Move × DWord)),
    (∀ c ∈ ok, c.1.target ≠ e.pc) ∧ ((e :: es).map (·.pc)).Nodup ∧ (∀ g ∈ es, g.pc ≠ e.pc) ∧ ok.length = 2
    ∧ (∃ c ∈ ok, hasLane c.1.mask 127 = true ∧ ∃ g ∈ es, g.pc = c.1.target) ∧ ∃ c ∈ ok, hasLane c.1.mask 0 = true :=
  ⟨⟨0, 9, 2 ^ 127 + 3, .body 16, 0, 0, 0⟩, [⟨64, 0, 4, .header, 0, 0, 0⟩], [(⟨2 ^ 127, 64, .any⟩, 0), (⟨1, 16, .any⟩, 0)], by decide +kernel⟩

/-! ## Traps and special registers -/

/-- A trap that a handler takes, one with no handler, one in a handler, one of a launch that has ended. -/
def trapFour (i : Instr) (more : State → Env → Op → Bool) : List Case :=
  let both (k : Env → Bool) (s : State) (x : Env) (o : Op) : Bool := more s x o && k x
  [⟨i, handled, both (fun x => x.t.held = none && !x.la.ended && (handlerOf x.t x.la).isSome)⟩,
    ⟨i, id, both (fun x => x.t.held = none && handlerOf x.t x.la = none)⟩,
    ⟨i, inHandler 1, both (fun x => x.t.held ≠ none)⟩,
    ⟨i, inLaunch (fun l => { l with ended := true }), both (fun x => x.la.ended)⟩]

def debugged (s : State) : State := { s with ctxs := s.ctxs.map (fun c => { c with debugger := true }) }

def requestCases : List Case :=
  trapFour (.trap (op 0 z (im 5) 0)) (fun _ x o => x.t.selected o.guard ≠ 0)
    ++ [⟨.trap (Op.p0 (op 0 z (im 5) 0)), id, fun _ x o => x.t.selected o.guard = 0⟩]
    ++ trapFour (.bkpt (op 0 z (im 5) 0)) (fun s x o => x.t.selected o.guard ≠ 0 && !s.debugged x.ctx)
    ++ [⟨.bkpt (Op.p0 (op 0 z (im 5) 0)), id, fun _ x o => x.t.selected o.guard = 0⟩,
      ⟨.bkpt (op 0 z (im 5) 0), debugged, fun s x o => x.t.selected o.guard ≠ 0 && s.debugged x.ctx⟩]

/-- TrapsOnRequest. -/
theorem witness_TrapsOnRequest : ∀ c ∈ requestCases, ∃ code s x o hdr, c.i.op? = some (code, o) ∧ Runs s x code o hdr
    ∧ c.more s x o = true := all_meet (by decide +kernel)

/-- A word that fails a check. -/
def failsB (c : Case) : Bool :=
  let s := c.change (at_ (wd c.i))
  match c.i.op? with
  | some (_, o) => decide (s.env? = some (envOf s)) && decide ((envOf s).t.active ≠ 0) && decide ((envOf s).t.rm ≠ some 0)
    && c.more s (envOf s) o
  | none => false

def words (n : Nat) : State → State := inTroupe (fun t => { t with run := { t.run with words := n } })

/-- The 25th word; the 24th with a register that is not there, an unset latch, a branch that is not the last of its block. -/
def failedCases : List Case :=
  [⟨.add (op 9 (v 10) (v 11) 0), words 24, fun _ x _ => 24 < x.t.run.words + x.c.len⟩,
    ⟨.add (op 9 (v 10) (v 11) 0), also (words 23) (inTroupe (fun t => { t with nregs := 11 })),
      fun _ x o => x.t.run.words + x.c.len ≤ 24 && opCheck 0x020 x.t o = .illegal⟩,
    ⟨.add (op 9 (lt 3) (v 11) 0), words 23, fun _ x o => x.t.run.words + x.c.len ≤ 24 && opCheck 0x020 x.t o = .latchUnset 3⟩,
    ⟨.bra (op 0 z (im 1) 0), also (words 23) (fun s => { s with cur := s.cur.map (fun c => { c with last := false }) }),
      fun _ x o => x.t.run.words + x.c.len ≤ 24 && opCheck 0x000 x.t o = .ok && !x.c.last⟩]

/-- FailedChecksTrap. -/
theorem witness_FailedChecksTrap : ∀ c ∈ failedCases, ∃ code s x o, c.i.op? = some (code, o) ∧ s.env? = some x ∧ x.t.active ≠ 0
    ∧ x.t.rm ≠ some 0 ∧ c.more s x o = true := by
  intro c hc
  have := List.all_eq_true.mp (show failedCases.all failsB = true by decide +kernel) c hc
  unfold failsB at this
  split at this
  · rename_i code o ho
    simp only [Bool.and_eq_true, decide_eq_true_eq] at this
    exact ⟨code, _, _, o, ho, this.1.1.1, this.1.1.2, this.1.2, this.2⟩
  · cases this

/-! ## Words and headers that are no instruction -/

/-- A pair word that ends its run, and one that does not. -/
def pairIn (isLast : Bool) : State :=
  let s := at_ (wd (.pairWord ⟨false, ⟨.add, 1, 2, 3⟩, ⟨.fmul, 4, 5, 8⟩⟩))
  { s with cur := s.cur.map (fun c => { c with last := isLast }) }

/-- An addition with an immediate, whose next word is its extension word. -/
def addWord : Nat := wd (.add (op 1 (v 2) (im 0) 0)) % 2 ^ 64

/-- An extension word with a reserved bit set. -/
def badExt : Nat := 2 * 2 ^ 62 + 2 ^ 33

/-- Before a 25th word, and a 24th with an extension word; in a page that nothing maps; a stray extension word, a header, a
reserved opcode, fields that break their rules in the word, in its extension word, and where a register is not there either; a
malformed pair word. -/
def fetchedCases : List (State × (State → DWord → Troupe → Block → Launch → FEntry → Bool)) :=
  let body : State → State := placed (.body (BitVec.ofNat 64 (codeAt + 16)))
  let run (n : Nat) : State → State := inTroupe (fun t => { t with run := { t.run with words := n } })
  let word (k : Troupe → DWord → Option DWord → Bool) (s : State) (fin : DWord) (t : Troupe) (b : Block) (la : Launch) (e : FEntry) : Bool :=
    match { s with agenda := [] }.fetchInstr b.core la.ctx e.pc fin with
    | .ok (w, next) => t.run.words < 24 && t.rm ≠ some 0 && k t w next
    | _ => false
  let fits (t : Troupe) (next : Option DWord) : Bool := t.run.words + (if (next.map kindOf).any (· = 2) then 2 else 1) ≤ 24
  let err (e : DecodeErr) (w : DWord) (next : Option DWord) (k : Op → Nat → Bool) : Bool := match decode w next with
    | .illegal y => y.err = e && (match y.first.bind Instr.op? with
      | some (code, o) => k o code
      | none => e ≠ .extField)
    | _ => false
  [(run 24 (body (nextAt addWord 0)), fun _ _ t _ _ _ => 24 ≤ t.run.words && t.rm ≠ some 0),
    (inTroupe (fun t => { t with rm := some 0, frontier := t.frontier.map (fun e =>
        { e with pc := BitVec.ofNat 64 hole, place := .body (BitVec.ofNat 64 (hole + 8)) }) }) (run 24 (nextAt addWord 0)),
      fun s fin t b la e => t.rm = some 0 && 24 ≤ t.run.words && (match { s with agenda := [] }.fetchInstr b.core la.ctx e.pc fin with
        | .error (.fault _) => true
        | _ => false)),
    (inTroupe (fun t => { t with frontier := t.frontier.map (fun e => { e with pc := BitVec.ofNat 64 hole, place := .body (BitVec.ofNat 64 (hole + 8)) }) })
      (nextAt addWord 0), fun s fin t b la e => t.run.words < 24 && (match { s with agenda := [] }.fetchInstr b.core la.ctx e.pc fin with
        | .error (.fault _) => true
        | _ => false)),
    (run 23 (body (nextAt addWord badExt)), word (fun t w next => t.run.words = 23 && (next.map kindOf).any (· = 2)
      && err .extField w next (fun _ _ => true))),
    (run 22 (body (nextAt badExt 0)), word (fun t w next => fits t next && kindOf w = 2)),
    (run 23 (body (nextAt plainHeader 0)), word (fun t w next => fits t next && kindOf w = 3)),
    (body (nextAt (0x1FF * 2 ^ 51) 0), word (fun t w next => fits t next && kindOf w = 0 && !assigned (opcodeOf w).toNat)),
    (body (nextAt (wd (.rett (op 0 z z 0)) + 1) 0), word (fun t w next => fits t next && err .opField w next (fun _ _ => true))),
    (run 22 (body (nextAt addWord badExt)), word (fun t w next => fits t next
      && err .extField w next (fun o code => opCheck code t o ≠ .illegal))),
    (inTroupe (fun t => { t with nregs := 2 }) (body (nextAt addWord badExt)), word (fun t w next => fits t next
      && err .extField w next (fun o code => opCheck code t o = .illegal))),
    (body (nextAt (2 ^ 62 + 15 * 2 ^ 56) 0), word (fun t w next => fits t next && kindOf w = 1 && (match decode w next with
      | .instr (.pairWord _) 1 => false
      | _ => true)))]

def fetchedB (c : State × (State → DWord → Troupe → Block → Launch → FEntry → Bool)) : Bool :=
  issuesB c.1 (fun _ t b _ la e => match e.place with
    | .body fin => c.2 c.1 fin t b la e
    | _ => false)

/-- FetchedWordsTrap. -/
theorem witness_FetchedWordsTrap : ∀ c ∈ fetchedCases, ∃ rest r t b cl la e es fin, NextIssues c.1 0 0 rest r t b cl la e es
    ∧ e.place = .body fin ∧ c.2 c.1 fin t b la e = true := by
  intro c hc
  obtain ⟨rest, r, t, b, cl, la, e, es, h, hk⟩ := issues_of (List.all_eq_true.mp (show fetchedCases.all fetchedB = true by decide +kernel) c hc)
  split at hk
  · exact ⟨rest, r, t, b, cl, la, e, es, _, h, ‹_›, hk⟩
  · cases hk

/-- FetchedWordsTrap, of pair words: one that no encoding may hold, a 25th word, a register that is not there. -/
theorem witness_pair_checks :
    (∃ p : Pair, p.wf = false)
    ∧ (∃ x p, (words 24 (pairIn false)).env? = some x ∧ x.t.rm ≠ some 0 ∧ 24 < x.t.run.words + x.c.len ∧ p = (⟨false, ⟨.add, 1, 2, 3⟩, ⟨.fmul, 4, 5, 8⟩⟩ : Pair))
    ∧ (∃ x, (words 23 (inTroupe (fun t => { t with nregs := 8 }) (pairIn false))).env? = some x ∧ x.t.rm ≠ some 0
      ∧ x.t.run.words + x.c.len ≤ 24 ∧ x.t.nregs < pairNeed ⟨false, ⟨.add, 1, 2, 3⟩, ⟨.fmul, 4, 5, 8⟩⟩) := by
  refine ⟨⟨⟨false, ⟨.add, 1, 2, 3⟩, ⟨.fmul, 1, 5, 8⟩⟩, by decide⟩, ⟨envOf (words 24 (pairIn false)), _, ?_, ?_, ?_, rfl⟩,
    ⟨envOf (words 23 (inTroupe (fun t => { t with nregs := 8 }) (pairIn false))), ?_⟩⟩ <;> decide +kernel

/-- An address that is no multiple of 8; no header, and one without flag C before a handler; lengths, reserved fields and live
values that fail, and good ones at the ends of their ranges, of an entry, a block and a handler. -/
def headerCases : List (Nat × Place × (State → State) × (State → Troupe → Block → Launch → FEntry → Bool)) :=
  let h (length live rest : Nat) : Nat := 3 * 2 ^ 62 + length * 2 ^ 52 + live * 2 ^ 36 + rest
  let word (k : DWord → Troupe → FEntry → Bool) (s : State) (t : Troupe) (b : Block) (la : Launch) (e : FEntry) : Bool :=
    e.pc.toNat % 8 = 0 && (match { s with agenda := [] }.fetch b.core la.ctx e.pc with
      | .word w => k w t e
      | _ => false)
  let header (w : DWord) (e : FEntry) : Bool := kindOf w = 3 && (e.place ≠ .handler || w.getLsbD 0)
  let ok (w : DWord) (t : Troupe) : Bool := w.extractLsb' 52 10 ≠ 0 && w.extractLsb' 4 4 = 0
    && (if w.extractLsb' 36 8 = 0 then 256 else (w.extractLsb' 36 8).toNat) ≤ t.nregs
  let not (w : DWord) (_ : Troupe) (e : FEntry) : Bool := !header w e
  let bad (w : DWord) (t : Troupe) (e : FEntry) : Bool := header w e && !ok w t
  let good (w : DWord) (t : Troupe) (e : FEntry) : Bool := header w e && ok w t
  [(h 1 0 0, .header, inTroupe (fun t => { t with frontier := t.frontier.map (fun e => { e with pc := e.pc + 4 }) }), fun _ _ _ _ e => e.pc.toNat % 8 ≠ 0),
    (addWord, .entry, id, word not), (h 1 0 2, .handler, id, word not), (h 0 0 0, .header, id, word bad),
    (h 1 0 16, .entry, id, word bad), (h 1 0 1, .handler, inTroupe (fun t => { t with nregs := 255 }), word bad),
    (h 1 9 0, .header, inTroupe (fun t => { t with nregs := 8 }), word bad), (h 1 0 0, .entry, id, word good),
    (h 1023 255 1, .handler, inTroupe (fun t => { t with nregs := 255 }), word good), (h 1 8 0, .header, inTroupe (fun t => { t with nregs := 8 }), word good)]

def headerB (c : Nat × Place × (State → State) × (State → Troupe → Block → Launch → FEntry → Bool)) : Bool :=
  let s := c.2.2.1 (placed c.2.1 (nextAt c.1 0))
  issuesB s (fun r t b _ la e => (match e.place with
    | .body _ => false
    | _ => true) && (e.place ≠ .entry || (s.nondetTrap r t).isNone) && c.2.2.2 s t b la e)

/-- HeadersAreChecked. -/
theorem witness_HeadersAreChecked : ∀ c ∈ headerCases, ∃ s rest r t b cl la e es, NextIssues s 0 0 rest r t b cl la e es
    ∧ (∀ fin, e.place ≠ .body fin) ∧ (e.place = .entry → s.nondetTrap r t = none) ∧ c.2.2.2 s t b la e = true := by
  intro c hc
  obtain ⟨rest, r, t, b, cl, la, e, es, h, hk⟩ := issues_of (List.all_eq_true.mp (show headerCases.all headerB = true by decide +kernel) c hc)
  simp only [Bool.and_eq_true, Bool.or_eq_true, decide_eq_true_eq, Option.isNone_iff_eq_none] at hk
  refine ⟨_, rest, r, t, b, cl, la, e, es, h, ?_, fun he => hk.1.2.resolve_left (fun n => n he), hk.2⟩
  intro fin hf
  rw [hf] at hk
  cases hk.1.1

/-- No handler; a lane is missing; all are there, with the interrupted entry whole, cut, and gone, after a trap on request too. -/
def rettCases : List Case :=
  let there (x : Env) : Bool := match x.t.held with
    | some h => x.t.active = h.h &&& ~~~x.t.exited
    | none => false
  let on := Instr.rett (op 0 z z 0)
  trapFour on (fun _ x _ => x.t.held = none || !there x) |>.map (fun c => { c with change := also c.change (headMask 0x7FFF) })
    |>.append [⟨on, inHandler 0xFFFF, fun _ x _ => there x⟩,
      ⟨on, also (inHandler 0xFFFF) (inTroupe (fun t => { t with tcause := 0x39 })), fun _ x _ => there x && x.t.tcause = 0x39⟩,
      ⟨on, also (inHandler 0xFF00) (also (inTroupe (fun t => { t with exited := 0xFF00 })) (headMask 0xFF)),
        fun _ x _ => there x && x.t.exited = 0xFF00⟩]

/-- ReturnFromHandler. -/
theorem witness_ReturnFromHandler : ∀ c ∈ rettCases, ∃ code s x o hdr, c.i.op? = some (code, o) ∧ Runs s x code o hdr
    ∧ c.more s x o = true := all_meet (by decide +kernel)

def sreadCases : List Case :=
  [⟨.sread (op 10 (v 0) z 0x00), id, fun _ _ o => o.a.cls = .v⟩, ⟨.sread (op 10 (r 0) z 0x20), id, fun _ _ o => o.a.cls = .s⟩,
    ⟨.sread (op 11 (r 0) z 0x10), id, fun _ _ _ => true⟩, ⟨.sread (op 10 (v 0) z 0x1B), inHandler 1, fun _ _ _ => true⟩]

/-- SpecialRegisterReads. -/
theorem witness_SpecialRegisterReads : ∀ c ∈ sreadCases, ∃ code s x o hdr, c.i.op? = some (code, o) ∧ Runs s x code o hdr
    ∧ c.more s x o = true := all_meet (by decide +kernel)

/-- CTL at the ends of its values, SEED, STICKY at 7 and 8, TMASK out of a handler and in one. -/
def swriteCases : List Case :=
  let ctl (x : Nat) : Case := ⟨.swrite (op 0 (r 0) z 0x10), sregs [(0, x)], fun _ x' o => x'.t.readS o.a.num.toNat = BitVec.ofNat 32 x⟩
  [ctl 0, ctl 15, ctl 16, ctl 5, ctl 6, ctl 13,
    ⟨.swrite (op 0 (r 0) z 0x11), sregs [(0, 1), (1, 2)], fun _ _ _ => true⟩,
    ⟨.swrite (op 0 (im 0) z 0x11 (some 0xFFFFFFFF)), id, fun _ _ o => o.a.isImm⟩,
    ⟨.swrite (op 0 (r 0) z 0x13), sregs [(0, 7)], fun _ _ _ => true⟩, ⟨.swrite (op 0 (r 0) z 0x13), sregs [(0, 8)], fun _ _ _ => true⟩,
    ⟨.swrite (op 0 (r 0) z 0x1B), id, fun _ x _ => x.t.held = none⟩,
    ⟨.swrite (op 0 (r 0) z 0x1B), inHandler 0xFFFF, fun _ x _ => x.t.held ≠ none⟩]

/-- SpecialRegisterWrites. -/
theorem witness_SpecialRegisterWrites : ∀ c ∈ swriteCases, ∃ code s x o hdr, c.i.op? = some (code, o) ∧ Runs s x code o hdr
    ∧ c.more s x o = true := all_meet (by decide +kernel)

/-- PairWordResults. -/
theorem witness_PairWordResults : ∀ isLast : Bool, ∃ (s : State) (x : Env) (p : Pair) (hdr : DWord), s.env? = some x ∧ x.t.active ≠ 0
    ∧ x.t.run.words + x.c.len ≤ 24 ∧ pairNeed p ≤ x.t.nregs ∧ s.fallCheck x x.t.active = .ok hdr ∧ (p.e || x.c.last) = isLast := by
  intro b
  refine ⟨pairIn b, envOf (pairIn b), ⟨false, ⟨.add, 1, 2, 3⟩, ⟨.fmul, 4, 5, 8⟩⟩,
    match (pairIn b).fallCheck (envOf (pairIn b)) (envOf (pairIn b)).t.active with
    | .ok h => h
    | _ => 0, ?_⟩
  cases b <;> exact by decide +kernel

/-! ## Lane-local and cross-lane ops with several clauses -/

/-- Seven of the eight entries are in use, and all of them. -/
def sfuCases : List Case :=
  let late (n : Nat) : State → State := inTroupe (fun t => { t with late := List.replicate n ⟨true, false, [], [], []⟩ })
  [⟨.rcp (op 9 (v 10) z 0), late 7, fun _ x _ => x.t.sfuEntries = 7⟩, ⟨.rcp (op 9 (v 10) z 0), late 8, fun _ x _ => x.t.sfuEntries = 8⟩]

/-- SpecialFunctionResults. -/
theorem witness_SpecialFunctionResults : ∀ c ∈ sfuCases, ∃ code s x o hdr, c.i.op? = some (code, o) ∧ Runs s x code o hdr
    ∧ c.more s x o = true := all_meet (by decide +kernel)

/-! ## Values of the float ops -/

/-- NaNs in each place, infinities of one and of both signs, zeros, the largest and the smallest magnitudes, sums that cancel. -/
def floatCases : List (Fmt × Nat × Nat × Nat × (FVal → FVal → FVal → Bool)) :=
  let fin : FVal → Bool
    | .fin _ _ _ => true
    | _ => false
  let num (a : FVal) : Bool := !a.isNan
  [(.fp32, 0x7F800001, 0, 0, fun a _ _ => a.isNan), (.fp16, 0x3C00, 0xFE00, 0, fun a b _ => num a && b.isNan),
    (.bf16, 0x3F80, 0, 0x7F81, fun a b c => num a && num b && c.isNan), (.fp32, 0xFF800000, 0x7F800000, 0, fun a b _ => a.isInf && b.isInf),
    (.fp16, 0x7C00, 0x7C00, 0, fun a b _ => a.isInf && b.isInf), (.bf16, 0xFF80, 0xFF7F, 0, fun a b _ => a.isInf && num b && !b.isInf),
    (.fp32, 0x80000000, 0, 0, fun a b _ => a.isZero && b.isZero), (.fp32, 0x7F7FFFFF, 0x7F7FFFFF, 1, fun a b c => fin a && fin b && fin c),
    (.fp16, 1, 0x8001, 0x8000, fun a b c => (a.dy.add b.dy).n = 0 && fin c), (.bf16, 0x7F80, 0x8000, 0, fun a b c => a.isInf && b.isZero && num c),
    (.fp32, 0x7F800000, 0x80000001, 0x7F800000, fun a b c => a.isInf && num b && !b.isZero && c = .inf false),
    (.fp32, 1, 0xFF800000, 0x7F7FFFFF, fun a b c => b.isInf && !a.isZero && num a && fin c), (.fp16, 0x7BFF, 0x7BFF, 0x7C00, fun a b c => fin a && fin b && c.isInf),
    (.fp32, 0x3F800000, 0x3F800000, 0xBF800000, fun a b c => fin a && fin b && fin c && ((a.dy.mul b.dy).add c.dy).n = 0),
    (.fp32, 0, 0x80000000, 0x80000000, fun a b c => a.isZero && b.isZero && c.isZero),
    (.bf16, 0x7F7F, 0, 0, fun a _ _ => match a with
      | .fin _ _ i => 0 ≤ i
      | _ => false),
    (.fp32, 0xBEFFFFFF, 0, 0, fun a _ _ => match a with
      | .fin s m i => s && m ≠ 0 && i < 0
      | _ => false)]

/-- FloatValues. -/
theorem witness_FloatValues : ∀ c ∈ floatCases, (c.1 = .fp32 ∨ c.1 = .fp16 ∨ c.1 = .bf16) ∧ c.2.1 < 2 ^ c.1.bits ∧ c.2.2.1 < 2 ^ c.1.bits
    ∧ c.2.2.2.1 < 2 ^ c.1.bits ∧ c.2.2.2.2 (decodeF c.1 c.2.1) (decodeF c.1 c.2.2.1) (decodeF c.1 c.2.2.2.1) = true := by
  decide +kernel

/-- Whether a = b, exactly. -/
def sameDy (a b : Dy) : Bool := decide ((a.add b.neg).n = 0)

/-- SpecialValues: NaN, infinities, zeros, a negative number, the ends of the powers of two, and an exact square; for EXB each of
its rules. -/
theorem witness_SpecialValues :
    (decodeF .fp32 0x7FC00001).isNan = true ∧ decodeF .fp32 0xFF800000 = .inf true ∧ decodeF .fp32 0x7F800000 = .inf false
    ∧ (∃ i, decodeF .fp32 0x80000000 = .fin true 0 i) ∧ (∃ m i, decodeF .fp32 0xBF800001 = .fin true m i ∧ m ≠ 0)
    ∧ (∃ m i, decodeF .fp32 1 = .fin false m i ∧ m ≠ 0 ∧ sameDy ⟨m, i⟩ ⟨1, -149⟩ = true)
    ∧ (∃ m i, decodeF .fp32 0x7F000000 = .fin false m i ∧ m ≠ 0 ∧ sameDy ⟨m, i⟩ ⟨1, 127⟩ = true)
    ∧ (∃ m i, decodeF .fp32 0x3E800000 = .fin false m i ∧ m ≠ 0 ∧ sameDy ⟨m, i⟩ ⟨1, -2⟩ = true ∧ (-2 : Int) % 2 = 0)
    ∧ (∃ m i, decodeF .fp32 0x40100000 = .fin false m i ∧ sameDy ⟨m, i⟩ ⟨3 * 3, 2 * -1⟩ = true)
    ∧ (∃ m i m' i' m'' i'', decodeF .fp32 0x40800000 = .fin false m i ∧ decodeF .fp32 0xC0000000 = .fin true m' i'
      ∧ decodeF .fp32 0x3F000000 = .fin false m'' i''
      ∧ sameDy (((decodeF .fp32 0x40800000).dy.add (decodeF .fp32 0xC0000000).dy.neg).mul (decodeF .fp32 0x3F000000).dy) ⟨3, 0⟩ = true) := by
  refine ⟨?_, ?_, ?_, ⟨-149, ?_⟩, ⟨0x800001, -23, ?_⟩, ⟨1, -149, ?_⟩, ⟨0x800000, 104, ?_⟩, ⟨0x800000, -25, ?_⟩, ⟨0x900000, -22, ?_⟩,
    ⟨0x800000, -21, 0x800000, -22, 0x800000, -24, ?_⟩⟩ <;> decide +kernel

/-! ## Fibres -/

def fib (n : Nat) (fb : Fibre) : State → State := inTroupe (fun t => { t with fb := t.fb.set n fb })

/-- A dense side of `n` entries. -/
def dense (n : Nat) : Side := ⟨dataAt, 0, 0, false, false, 0, 0, BitVec.ofNat 32 n, 0⟩

def fibreOpCases : List Case :=
  let mode (m f : Nat) (_ : State) (x : Env) (o : Op) : Bool := (x.t.fibre o.a.num.toNat).mode = m && o.c.toNat = f
  let pos (m f : Nat) : Case := ⟨.fbpos (op 4 (v 1) z f), fib 1 ⟨dense 4, dense 4, m, 3⟩, mode m f⟩
  let fend (m n : Nat) : Case := ⟨.fbend (op 1 (v 1) z 0), fib 1 ⟨dense n, dense 1, m, 3⟩, mode m 0⟩
  [⟨.fbclose (op 1 z z 0), fib 1 ⟨dense 4, emptySide, 1, 1⟩, fun _ _ _ => true⟩, pos 1 0, pos 1 6, pos 2 5, pos 3 6, pos 2 7, pos 0 7, pos 0 6, pos 1 1, pos 1 3, pos 1 5,
    fend 1 0, fend 1 1, fend 2 1, fend 3 0, fend 0 0,
    ⟨.fbend (Op.p0 (op 1 (v 1) z 0)), id, fun _ x o => x.t.active &&& x.t.readP o.guard.p.toNat = 0⟩]

/-- FibreRegisterOps. -/
theorem witness_FibreRegisterOps : ∀ c ∈ fibreOpCases, ∃ code s x o hdr, c.i.op? = some (code, o) ∧ Runs s x code o hdr
    ∧ c.more s x o = true := all_meet (by decide +kernel)

/-- A descriptor of one level with arrays right after it: its level entry is `e`. -/
def descr (e : Nat) (arrays : List (Nat × Nat × Nat)) (s : State) : State :=
  arrays.foldl (fun s a => store (dataAt + a.1) a.2.1 a.2.2 s) (store dataAt 64 (dataAt + 2 ^ 64 + 2 ^ 128 * e) s)

/-- Level entries of a dense, a compressed, a bitmap and a singleton level with 100 coordinates. -/
def levelE (spec posoff crdoff : Nat) : Nat := spec + 100 * 16 + posoff * 2 ^ 32 + crdoff * 2 ^ 64

def openCases : List Case :=
  let opens (x : Env) (s : State) (o : Op) : Bool :=
    let addr := (x.t.rawPair o.a 0).toNat
    addr % 64 = 0 && (match carRead x s addr 64 with
      | (.ok d, q0) => (match openLevel d (o.c.toNat % 4) (x.t.operand 6 o o.b 0) with
        | .ok lv => (match openRange x q0 lv (x.t.operand 6 o o.b 0) with
          | (.ok (cur, fin), q1) => (lv.spec = 3 || cur ≤ fin)
            && (match loadEntry x q1 ⟨addr, o.c.toNat % 4, lv.spec, lv.iw, false, BitVec.ofNat 32 (x.t.operand 6 o o.b 0),
                BitVec.ofNat 32 cur, BitVec.ofNat 32 fin, 0⟩ cur none with
              | (.ok _, q2) => !carStalls x s q1 && !carStalls x s q2
              | _ => false)
          | _ => false)
        | _ => false)
      | _ => false)
  let at_ (e : Nat) (arrays : List (Nat × Nat × Nat)) : Case :=
    ⟨.fbopen (op 1 (r 2) (im 0) 0), also (saddr 2 dataAt) (descr e arrays), fun s x o => opens x s o⟩
  let single (i : Instr) : Case := ⟨i, also (fib 1 ⟨dense 4, emptySide, 1, 1⟩) (fib 2 ⟨dense 3, emptySide, 1, 0⟩),
    fun _ x o => (x.t.fibre o.a.num.toNat).mode = 1 && (x.t.fibre o.b.num.toNat).mode = 1⟩
  [at_ (levelE 0 0 0) [], at_ (levelE 1 8 9) [(64, 8, 2 * 2 ^ 32), (72, 4, 5 + 99 * 2 ^ 16)], at_ (levelE 2 8 9) [(64, 8, 2 ^ 32), (72, 8, 0), (80, 8, 1)],
    at_ (levelE 3 0 9) [(72, 2, 99)], at_ (levelE 1 8 9) [(64, 8, 0)],
    single (.fbisect (op 3 (v 1) (v 2) 0)), single (.fbunion (op 3 (v 1) (v 2) 0))]

/-- FibreOpening. -/
theorem witness_FibreOpening : ∀ c ∈ openCases, ∃ code s x o hdr, c.i.op? = some (code, o) ∧ Runs s x code o hdr
    ∧ c.more s x o = true := all_meet (by decide +kernel)

/-- Entries past the end, and of each kind of level. -/
def entryCases : List (State × Side × Nat × Option Nat × (Side → Bool)) :=
  let on (e : Nat) (arrays : List (Nat × Nat × Nat)) : State := descr e arrays (at_ (wd (.nop (op 0 z z 0))))
  let side (spec : Nat) : Side := { dense 2 with spec := spec }
  [(on 0 [], side 1, 2, none, fun d => d.cur = 2), (on 0 [], side 0, 1, some 7, fun d => d.coord = 8),
    (on (levelE 1 8 9) [(72, 4, 5 + 99 * 2 ^ 16)], side 1, 1, some 5, fun d => d.coord = 99),
    (on (levelE 2 8 9) [(72, 8, 0), (80, 8, 2 ^ 35)], side 2, 0, none, fun d => d.coord = 99),
    (on (levelE 3 0 9) [(72, 2, 0)], side 3, 0, some 9, fun d => d.coord = 0)]

/-- FibreEntries. -/
theorem witness_FibreEntries : ∀ c ∈ entryCases, ∃ x sd' s', loadEntry x c.1 c.2.1 c.2.2.1 c.2.2.2.1 = (.ok sd', s')
    ∧ c.2.2.2.2 sd' = true := by
  have h : entryCases.all (fun c => match loadEntry (envOf c.1) c.1 c.2.1 c.2.2.1 c.2.2.2.1 with
      | (.ok d, _) => c.2.2.2.2 d
      | _ => false) = true := by decide +kernel
  intro c hc
  have := List.all_eq_true.mp h c hc
  split at this
  · exact ⟨_, _, _, ‹_›, this⟩
  · cases this

/-- A compressed side that is to advance and whose descriptor no page maps, and one whose second entry no page maps. -/
def unmapped : Side := { dense 4 with desc := hole, spec := 1, adv := true }
def shrinking : Side := { dense 4 with spec := 1 }

def deliveryCases : List Case :=
  let next (m vp : Nat) (a b : Side) (more : Env → Served → Bool) : Case :=
    ⟨.fbnext (op 2 (v 1) (v vp) 1), fib 1 ⟨a, b, m, 0⟩, fun s x o =>
      let out := serve x (lanesOf x.t.width (x.t.selected o.guard)) (x.t.fibre o.a.num.toNat) [] s
      x.t.selected o.guard ≠ 0 && !carStalls x s out.s && more x out⟩
  let skip (m key : Nat) : Case := ⟨.fbskip (op 1 z (im key) 0), fib 1 ⟨dense 4, dense 3, m, 0⟩, fun s x o =>
    let fb := x.t.fibre o.dst.toNat
    fb.mode ≠ 0 && (match pending x fb.sides fb s with
      | (.go f1, s1) => (match skipSides x (x.t.operand 6 o o.b 0) f1.sides f1 s1 with
        | (.go _, s2) => !carStalls x s s2
        | _ => false)
      | _ => false)⟩
  [⟨.fbnext (Op.p0 (op 2 (v 1) (v 5) 1)), id, fun s x o => x.t.selected o.guard = 0 && !carStalls x s s⟩,
    next 1 5 (dense 4) emptySide (fun _ out => out.stop = none && (out.lanes.lookup 3).join.isSome && (out.lanes.lookup 4).join = none),
    next 2 4 (dense 4) (dense 3) (fun x out => out.stop = none && 4 + 2 ≤ x.t.nregs),
    next 3 254 (dense 4) (dense 3) (fun x out => out.stop = none && 254 + 2 ≤ x.t.nregs),
    next 1 5 unmapped emptySide (fun _ out => out.stop.isSome && out.lanes = []),
    next 1 5 shrinking emptySide (fun _ out => out.stop.isSome && out.lanes.length = 1),
    skip 1 2, skip 2 9, skip 3 3]

/-- FibreDelivery. -/
theorem witness_FibreDelivery : ∀ c ∈ deliveryCases, ∃ code s x o hdr, c.i.op? = some (code, o) ∧ Runs s x code o hdr
    ∧ c.more s x o = true := all_meet (by decide +kernel)

/-- FibreDelivery, of a walk that finds a common coordinate, of one that steps to a key, and of a union's entry. -/
theorem witness_walks : ∃ (s : State) (x : Env) (fb f1 f2 : Fibre) (e : Entry),
    intersect x (fb.a.left + fb.b.left + 1) fb s = (.go f1, s) ∧ f1.a.coord = 2
    ∧ skipSide x 0 3 ((fb.side 0).left + 1) fb s = (.go f2, s) ∧ f2.a.coord = 3
    ∧ ({ fb with mode := 3 } : Fibre).mode = 3 ∧ (deliver { fb with mode := 3 }).2 = some e := by
  let s := at_ (wd (.nop (op 0 z z 0)))
  let fb : Fibre := ⟨dense 4, { dense 3 with coord := 2 }, 2, 0⟩
  refine ⟨s, envOf s, fb, ⟨{ dense 4 with cur := 2, coord := 2 }, { dense 3 with coord := 2 }, 2, 0⟩,
    ⟨{ dense 4 with cur := 3, coord := 3 }, { dense 3 with coord := 2 }, 2, 0⟩, ⟨0, 0, 0xFFFFFFFF⟩, ?_⟩
  decide +kernel

def imageCases : List Case :=
  let img (s : State) (x : Env) (o : Op) (ok : Bool) : Bool := fbAddr o x.t % 64 = 0 && (match carRead x s (fbAddr o x.t) 64 with
    | (.ok n, q) => fibreImageOk n = ok && !carStalls x s q
    | _ => false)
  let rst (n : Nat) (ok : Bool) : Case :=
    ⟨.fbrstr (op 1 (r 2) (im 64) 0), also (saddr 2 (dataAt - 64)) (store dataAt 64 n), fun s x o => img s x o ok⟩
  [⟨.fbsave (op 1 (r 2) (im 64) 0), also (saddr 2 (dataAt - 64)) (fib 1 ⟨dense 4, emptySide, 1, 1⟩), fun s x o =>
      (match s.checkAccess x.core x.ctx .store .plain 64 (fbAddr o x.t) (pageChoice (fbAddr o x.t)) with
        | .ok (leaf, k) => (s.takeEntries x.core [(pointOf 0 0 leaf, k, 64)]).isSome
        | _ => false)⟩,
    rst 0 true, rst (fibreBits ⟨dense 4, emptySide, 1, 1⟩) true, rst (2 ^ 63) false]

/-- FibreSaveAndRestore. -/
theorem witness_FibreSaveAndRestore : ∀ c ∈ imageCases, ∃ code s x o hdr, c.i.op? = some (code, o) ∧ Runs s x code o hdr
    ∧ c.more s x o = true := all_meet (by decide +kernel)

/-- FibreSaveAndRestore, of a register that its image holds. -/
theorem witness_fibre_image : ∃ fb : Fibre, (∀ sd ∈ [fb.a, fb.b], sd.desc < 2 ^ 57 ∧ sd.level < 4 ∧ sd.spec < 4) ∧ fb.mode < 4 :=
  ⟨⟨⟨2 ^ 57 - 64, 3, 3, true, true, 1, 2, 3, 4⟩, emptySide, 3, 5⟩, by decide⟩

end Sys2Proof.Tests
end

