-- ==== Sys2Proof/Tests/Events.lean ====
section
/-! SUPPORT. For each clause of a statement about events of the troupes, the memory pipeline, the arena and the matrix engine, a
state that meets its hypotheses. -/

namespace Sys2Proof.Tests

set_option Elab.async false

open Sys2Proof.Machine Sys2Proof.Claims Sys2Proof.Lab

/-- A state, and what holds of it. -/
structure Scene where
  s    : State
  more : State → Bool

/-- In every scene of a list its condition holds. -/
theorem all_scenes {cs : List Scene} (h : cs.all (fun c => c.more c.s) = true) : ∀ c ∈ cs, c.more c.s = true :=
  List.all_eq_true.mp h

/-- A module with one troupe, at a NOP, and free slots. -/
def base : State := { at_ (wd (.nop (op 0 z z 0))) with slots := [], cur := none }

/-- The cluster, launch, block and troupe of `base`. -/
def parts (s : State) (k : Cluster → Launch → Block → Troupe → Bool) : Bool :=
  match s.cluster? 0, s.launch? 0, s.block? 0 0, s.troupe? me with
  | some cl, some la, some b, some t => k cl la b t
  | _, _, _, _ => false

/-! ## Issue slots, stalls, waits -/

/-- No bid; one, in the middle of a run; five troupes that bid alike; an entry that owes a run, and one that waits for
it; an entry of higher priority. -/
def grantCases : List Scene :=
  let best (k : Troupe → Bool) (s : State) : Bool := (s.slotOf 0 0).isNone && decide ((s.clusters.map (·.1)).Nodup)
    && (s.bids 0 0).any (fun b => (s.bids 0 0).all (fun c =>
        decide (c ≠ b → c.cls < b.cls ∨ (c.cls = b.cls ∧ (c.wait < b.wait ∨ (c.wait = b.wait ∧ b.slot < c.slot)))))
      && (s.troupe? b.r).any k && (s.cluster? b.r.cluster).any (fun cl => (s.launch? cl.launch).isSome))
  let entries (es : List (Nat × Nat × Nat × Nat)) : State → State := inTroupe (fun t => { t with
    midRun := false
    frontier := es.map (fun e => ⟨BitVec.ofNat 64 (codeAt + 64 * e.1), e.2.1, 1, .header, e.2.2.1, e.2.2.2, 0⟩) })
  let live (t : Troupe) : List FEntry := t.frontier.filter (fun f => f.mask ≠ 0)
  let waits (t : Troupe) (f : FEntry) : Bool := (live t).any (fun g => g.owes ≠ 0 && g.owes ≤ f.yielded)
  [⟨inTroupe (fun t => { t with status := .retired }) base, fun s => (s.slotOf 0 0).isNone && (s.bids 0 0).isEmpty⟩,
    ⟨inTroupe (fun t => { t with midRun := true }) base, best (·.midRun)⟩,
    ⟨inBlock (fun b => { b with troupes := (List.replicate 5 b.troupes).flatten }) base, fun s => best (fun t => t.waitw = 0) s
      && (s.bids 0 0).length == 5⟩,
    ⟨entries [(0, 0, 0, 5), (1, 0, 5, 0)] base, best (fun t => live t ≠ [] && (live t).any (waits t) && (live t).any (fun g => !waits t g))⟩,
    ⟨entries [(3, 1, 0, 0), (2, 2, 0, 0), (1, 2, 0, 0)] base, best (fun t => live t ≠ [] && (live t).all (fun g => !waits t g))⟩]

/-- IssueSlotGrants. -/
theorem witness_IssueSlotGrants : ∀ c ∈ grantCases, c.more c.s = true := all_scenes (by decide +kernel)

/-- PendingFaultIssuesFirst: a troupe that has such a word beside one that asks for the slot, and none. -/
theorem witness_PendingFaultIssuesFirst :
    (let s := inBlock (fun b => { b with troupes := b.troupes.map (fun t => { t with redo := true }) ++ b.troupes }) base
     s.replay = none ∧ s.redos = [(0, 0, me)] ∧ (s.clusters.map (·.1)).Nodup) ∧ base.redos = [] := by decide +kernel

/-- The word's troupe is stalled, or waits, at it. -/
def held (st : Instr → Cur → TStatus) (c : Case) : State :=
  let s := c.change (at_ (wd c.i))
  match s.cur with
  | some k => inTroupe (fun t => { t with status := st c.i k }) s
  | none => s

/-- What the troupe lacks, and that it is there. -/
def stallCases : List Scene :=
  let lack (i : Instr) (f : State → State) (free : Bool) (k : Op → Block → Troupe → State → Bool) : Scene :=
    ⟨held .stalled ⟨i, f, fun _ _ _ => true⟩, fun s => s.mayIssue 0 && parts s (fun _ _ b t =>
      match t.status with
      | .stalled j _ => decide (j = i) && (match i.op? with
        | some (_, o) => k o b t s == free
        | none => false)
      | _ => false)⟩
  let sfu (n : Nat) : State → State := inTroupe (fun t => { t with late := List.replicate n ⟨true, false, [], [], []⟩ })
  let miss (n : Nat) (s : State) : State := { s with mshr := (List.range n).map (fun k => (0, k)) }
  let batches (n : Nat) : State → State := member (List.replicate n [acczInsn, commitInsn]).flatten
  let queue (n : Nat) (s : State) : State := { s with lq := s.lq.set 15 (List.replicate n ⟨[], 0, 0, 0, none, false⟩) }
  let launched : Instr := .launch (op 4 (r 2) z 3)
  let copied (i : Instr) (n : Nat) := lack i (copies n) (decide (n < 64)) (fun _ b _ s => decide ((s.copies.filter (fun c => c.core = b.core)).length < 64))
  let room (n : Nat) := lack launched (queue n) (decide (n < 64)) (fun o _ _ s => decide ((s.queue (12 + o.c.toNat % 4)).length < 64))
  [lack (.rcp (op 4 (v 5) z 0x160)) (sfu 8) false (fun _ _ t _ => decide ((t.late.filter (·.sfu)).length < 8)),
    lack (.rcp (op 4 (v 5) z 0x160)) (sfu 7) true (fun _ _ t _ => decide ((t.late.filter (·.sfu)).length < 8)),
    lack (.fbopen (op 1 (r 2) (im 0) 0)) (miss 1536) false (fun _ b _ s => decide ((s.mshr.filter (fun e => e.1 = b.core)).length < 1536)),
    lack (.ld (op 4 (r 2) (v 3) 0xC0)) (miss 1535) true (fun _ b _ s => decide ((s.mshr.filter (fun e => e.1 = b.core)).length < 1536)),
    lack (.mcommit (op 0 z z 0)) (batches 8) false (fun _ b _ _ => decide (b.committedOf 0 < 8)),
    lack (.mcommit (op 0 z z 0)) (batches 7) true (fun _ b _ _ => decide (b.committedOf 0 < 8)),
    copied (.copy (op 5 (r 10) z 0)) 64, copied (.copyg (op 5 (r 10) z 0)) 63, copied (.copys (op 5 (r 10) z 0)) 64,
    room 64, room 63,
    lack (.mfence (op 0 z z 0)) (inTroupe (fun t => { t with arenaBusy := true })) true (fun _ _ t _ => t.arenaBusy)]

/-- StallsEnd. -/
theorem witness_StallsEnd : ∀ c ∈ stallCases, c.more c.s = true := all_scenes (by decide +kernel)

/-- Every wait with what ends it: an act with nothing to perform, a tag whose count is complete, barriers whose phase is
over; a troupe whose sleep is over, and one that sleeps on. -/
def waitCases : List Scene :=
  let ends (k : WaitKind) (i : Instr) (f : State → State) (pass : State → Env → Op → Bool) : Scene :=
    ⟨held (.waiting k) ⟨i, f, fun _ _ _ => true⟩, fun s => s.mayIssue 0 && parts s (fun _ _ _ t => match t.status, i.op? with
      | .waiting k2 j c, some (code, o) =>
        let s1 : State := { s.setTroupe me { t with status := .ready, waitw := 0 } with cur := some c }
        decide (k2 = k) && decide (j = i) && decide (c.r = me) && runsB s1 code o && pass s1 (envOf s1) o
      | _, _ => false)⟩
  let barrier : State → State := also (saddr 2 dataAt) (also (sregs [(5, 4)]) (store dataAt 16 (⟨3, 2, 5, 9, 0, 0⟩ : Barrier).toNat))
  let isOver (s : State) (x : Env) (o : Op) : Bool := match s.findBarrier o x with
    | .ok (p, s2) => let b := s2.readBarrier p
      decide (b.phase ≠ x.t.operand 6 o o.b 0 % 16 ∧ b.err &&& 0b1011 = 0)
    | _ => false
  let sleeps (u : Nat) (early : Bool) : Scene :=
    ⟨inTroupe (fun t => { t with status := .sleeping u }) { base with clk := 100 }, fun s => s.mayIssue 0 && parts s (fun _ _ _ t =>
      match t.status with
      | .sleeping k => decide (k ≤ s.clk) != early
      | _ => false)⟩
  [ends .mwait (.mwait (op 0 z (im 0) 0)) (joined [Batch.fresh] none) (fun _ x o => match x.b.mwait 0 o.b.imm11.toNat with
      | .done _ => true
      | _ => false),
    ends (.barw 3) (.barw (op 0 z z 3)) (inCluster (fun cl => { cl with tags := cl.tags.set 3 ⟨0, 1, [0], [0]⟩ })) (fun _ x o =>
      let g : Tag := (x.cl.tags[o.c.toNat % 8]?).getD ⟨0, 0, [], []⟩
      x.t.active = x.t.live && g.arv.contains 0 && g.done.contains 0),
    ends .tbwait (.tbwait (op 0 (r 2) (r 5) 0)) barrier isOver,
    ends .tbtest (.tbtest (op 1 (r 2) (r 5) 0)) barrier isOver,
    sleeps 100 false, sleeps 101 true]

/-- WaitsEnd. -/
theorem witness_WaitsEnd : ∀ c ∈ waitCases, c.more c.s = true := all_scenes (by decide +kernel)

/-- A result of each kind, behind one of the other, whose cells a later result writes too. -/
def lateCases : List Scene :=
  let late (sfu : Bool) : List Late := [⟨!sfu, false, [(5, 1)], [], []⟩, ⟨sfu, true, [(128, 7), (129, 8)], [(3, 9)], [(2, 0x7E)]⟩,
    ⟨sfu, false, [(128, 10)], [], []⟩]
  [false, true].map (fun sfu => ⟨inTroupe (fun t => { t with late := late sfu }) base, fun s => parts s (fun _ _ _ t => match t.late with
    | q :: p :: _ => q.sfu != sfu && p.sfu == sfu
      && t.late.all (fun q => decide ((q.v.map (·.1)).Nodup ∧ (q.s.map (·.1)).Nodup ∧ (q.sc.map (·.1)).Nodup))
    | _ => false)⟩)

/-- LateResultsArrive. -/
theorem witness_LateResultsArrive : ∀ c ∈ lateCases, c.more c.s = true := all_scenes (by decide +kernel)

/-! ## The memory pipeline -/

/-- Sectors of this module, of another one and of host memory, of a .cg, a .ca and a .cd load, which L1 holds as a store in part; a walk that finds a leaf, and one that
finds none; an invalidation that nothing holds up, and one that a copy does. -/
def pipelineCases : List Scene :=
  let fill (sector f : Nat) : Scene := ⟨{ base with mshr := [(0, sector * 4 + f), (1, sector * 4)], l1 := [(State.l1Key 0 dataAt, .dirty 5)] },
    fun s => s.mshr.contains (0, sector * 4 + f) && (s.mshrOf 0).all (fun e => e / 4 ≠ sector || e = sector * 4 + f)
      && decide (sector < 2 ^ 57) && swf false s.l2⟩
  let own := dataAt / 64
  let other := memberBase 5 / 64
  let host := hostBase / 64
  let walk (va : Nat) (found : Bool) : Scene := ⟨{ base with tlb := [] }, fun s => match s.ctx? 0 with
    | some c => decide (va < 2 ^ 57) && (match s.walk c.l1 va with
      | .leaf _ => found
      | _ => !found) && (s.tlbLookup 0 0 va).isNone
    | none => false⟩
  let inval (cs : List CopyReq) (busy : Bool) : Scene := ⟨{ base with invals := [⟨0, 7⟩], copies := cs }, fun s =>
    (s.invals.find? (fun u => u.ctx = 0)).any (fun v => s.invalPending v == busy)⟩
  [fill own 0, fill own 1, fill own 2, fill other 0, fill other 1, fill other 2, fill host 0, fill host 1, fill host 2, walk dataAt true, walk hole false, inval [] false,
    inval [{ queued with pages := [(dataAt, ⟨18, false, false, false, 0, 0, 0, 0, false⟩)] }] true]

/-- MemoryPipelineEvents. -/
theorem witness_MemoryPipelineEvents : ∀ c ∈ pipelineCases, c.more c.s = true := all_scenes (by decide +kernel)

/-! ## Turns -/

/-- A turn of two regions, whose planes have been written, for which its troupe waits; in the second of them with the rule FAULT,
where a word is collided. -/
def turnScene (rule : Nat) : Scene :=
  ⟨inBlock (fun b => { b with turns := [⟨1, 0x8001, 1⟩], marks := [(64, some ⟨1, 0, 0, 1, false, false⟩), (200, some ⟨1, 0, 0, 1, false, true⟩)] })
      (held (fun i c => .waiting .turn i { c with last := false }) ⟨.turn (op 0 (r 2) (r 5) 0),
        also (saddr 2 1) (also (sregs [(5, 0x8001)]) (also (region 0 (planar 0 64 1 1)) (region 15 (planar 128 64 0 rule)))), fun _ _ _ => true⟩),
    fun s => s.mayIssue 0 && parts s (fun _ _ b t => match b.turns, t.status, t.frontier with
      | u :: _, .waiting .turn (.turn _) w, e :: _ =>
        let ms := (List.range 16).filter (fun r => u.m.getLsbD r)
        let base (r : Nat) : Nat := rgnBase (b.region r)
        let past (r : Nat) : Nat := base r + 2 * rgnSize (b.region r)
        turnArrived b u && !turnPending s 0 0 b u && b.rgn.length = 16 && swf none b.marks
          && ms.any (fun r => rgnRule (b.region r) = 2 && (List.range (rgnSize (b.region r))).any (fun o =>
            ((sget none b.marks (nextAt (b.region r) + o)).map (·.collided)) = some true)) == decide (rule = 2)
          && ms == [0, 15] && ms.all (fun r => rgnPlanar (b.region r))
          && ms.all (fun r => ms.all (fun q => decide (r ≠ q → past r ≤ base q ∨ past q ≤ base r)))
          && u.arrived.getLsbD 0 && decide (w.r = me) && !w.last && e.mask ≠ 0
      | _, _, _ => false)⟩

/-- TurnSwapsPlanes. -/
theorem witness_TurnSwapsPlanes : ∀ c ∈ [turnScene 0, turnScene 2], c.more c.s = true := all_scenes (by decide +kernel)

/-! ## The matrix engine -/

/-- The act of the one troupe performs the entry of `n` next, with A in region 0 and B in region 2. -/
def performing (n : MInsn) (f : State → State := id) : State :=
  f (also (region 0 (flat 0 8192)) (also (region 2 (flat 8192 8192)) (inBlock (fun b => { b with
    acts := [⟨[⟨0, false, [], true⟩], 16, 0xFFFF, 1, [⟨0, [n]⟩], [⟨1, 0, false, none, [], 0xFFFF, [], []⟩], none, false⟩] }))) base)

/-- The first act of the block, its entry, and what holds of its job. -/
def act0 : ActRef := ⟨0, 0, 0⟩
def jobB (n : MInsn) (k : Job → State → Bool) (s : State) : Bool := match s.job? act0 with
  | some j => decide (j.head.i = n.i) && decide (((j.a.batches[j.batch]?).getD Batch.fresh).err = none)
    && decide ((j.a.members.map (·.troupe)).Nodup) && k j s
  | none => false

/-- An instruction of the act stream with the s registers that it read. -/
def insn (i : Instr) (ss : List Nat) : MInsn := { commitInsn with i := i, svals := ss.map (BitVec.ofNat 32) }

/-- A poisoned word at the beginning of region 2, and at that of region 0. -/
def spoil (a : Nat) : State → State := inBlock (fun b => { b with apoison := [(a / 8, true)] })

/-- Each op from its sources, with operands that are whole and with one that is poisoned: A in registers, a table, by index, and
the second step of MLOOP; the columns end at the tile's. -/
def denseCases : List Scene :=
  let scene (n : MInsn) (o : Op) (src : ASource) (off : Job → Nat) (f : State → State) (bad : Bool) : Scene :=
    ⟨performing n f, jobB n (fun j s => let c := stepCtl o
      if bad then (j.poisonAt c src c.kb (off j)).isSome
      else (j.poisonAt c src c.kb (off j)).isNone && decide (c.col + c.n ≤ 256) && decide ((j.rowsA s o c src).length ≤ 128))⟩
  let last : Option Nat := some (0x801CC + (256 - 8) / 8 * 2 ^ 24)
  let mv := op 0 (v 64) (r 10) 0x1800 ctl
  let mt := op 15 (r 9) (r 10) 0x1800 last
  let mg := op 0 (v 8) (r 10) 0x1800 ctl
  let ml := op 0x10 (r 4) (r 6) 0x1800 ctl
  let four (n : MInsn) (o : Op) (src : ASource) (off : Job → Nat) (a : Nat) := [scene n o src off id false, scene n o src off (spoil a) true]
  let table (n : MInsn) : ASource := .table ((n.svals.getD 0 0).toNat)
  let nt := insn (.mma mt) [0, 0]
  let nl := { insn (.mloop ml) [0, 0] with step := 1 }
  let c := stepCtl ml
  four (insn (.mma mv) [0]) mv .regs (·.sval 0) 8192
    ++ four nt mt (table nt) (·.sval 1) 0
    ++ four { insn (.mmaG mg) [0, 0] with idx := (List.range 16).map (fun l => if l = 3 then 0xFFFFFFFF else BitVec.ofNat 32 l) } mg (.indexed 0) (·.sval 0) 0
    ++ four nl ml (.table (16 * rowStride c.ta c.kb)) (fun j => j.sval 1 + panelBytes c.tb c.n c.kb) (16 * rowStride c.ta c.kb)

/-- DenseSteps. -/
theorem witness_DenseSteps : ∀ c ∈ denseCases, c.more c.s = true := all_scenes (by decide +kernel)

/-- MMA.SP from registers and from a table: patterns that are all legal, an illegal one, a marked one, a poisoned operand. -/
def sparseCases : List Scene :=
  let scene (n : MInsn) (o : Op) (src : ASource) (off pat : Nat) (f : State → State) (k : Nat) : Scene :=
    ⟨performing n (also (inBlock (fun b => { b with patSize := 4096, pat := ssets 0 b.pat ((List.range 256).map (fun i => (i, 0x10))) })) f),
      jobB n (fun j s => let c := stepCtl o
        let kind := o.dst.toNat / 16 % 4
        let kb := c.kb * patG kind / patN kind
        let bad (m : Nat) := j.b.badPattern kind (pat + m * c.kb * 16) (c.kb * blockElemsOf c.ta / 2)
        let legal := (List.range (j.a.members.length * j.a.rm)).all (fun m => bad m = none)
        if k = 0 then legal && (j.poisonAt c src kb off).isNone && decide (c.col + c.n ≤ 256) && decide ((j.rowsA s o c src).length ≤ 128)
        else if k = 1 then legal && (j.poisonAt c src kb off).isSome
        else bad 0 = none && (bad 1).isSome)⟩
  let mv := op 0 (v 64) (r 10) 0x1800 ctl
  let mt := op 15 (r 9) (r 10) 0x1800 ctl
  let nv := insn (.mmaSp mv) [0, 0]
  let nt := insn (.mmaSp mt) [0, 0, 0]
  let ill : State → State := inBlock (fun b => { b with pat := sset 0 b.pat 17 0 })
  let marked : State → State := inBlock (fun b => { b with patPoison := [(18, true)] })
  [scene nv mv .regs 0 0 id 0, scene nv mv .regs 0 0 (spoil 8192) 1, scene nv mv .regs 0 0 ill 2, scene nv mv .regs 0 0 marked 2,
    scene nt mt (.table 0) 0 0 id 0, scene nt mt (.table 0) 0 0 (spoil 0) 1]

/-- SparseSteps. -/
theorem witness_SparseSteps : ∀ c ∈ sparseCases, c.more c.s = true := all_scenes (by decide +kernel)

/-- ACCZ with its tile in one act alone, and PATLD of 64 bytes. -/
def entryCases2 : List Scene :=
  let mapped := [(dataAt, (⟨18, true, false, false, 1, 0, 0, dataAt, false⟩ : Leaf))]
  let pat := { insn (.patld (op 0 (r 2) (r 4) 0x828)) [dataAt, 0, 0, 64] with pages := mapped }
  [⟨performing acczInsn, jobB acczInsn (fun j _ => decide (j.b.acts.length = 1))⟩, ⟨performing pat, jobB pat (fun j _ => decide (j.sval 3 = 64))⟩]

/-- ZeroAndPatternEntries. -/
theorem witness_ZeroAndPatternEntries : ∀ c ∈ entryCases2, c.more c.s = true := all_scenes (by decide +kernel)

/-- ACCST as FP32, FP16 and E4M3, into a flat region, the unwritten words of a planar one, and global memory. -/
def accstCases : List Scene :=
  let mapped := [(dataAt, (⟨18, true, false, false, 1, 0, 0, dataAt, false⟩ : Leaf))]
  let scene (ctl win : Nat) (ss : List Nat) (f : State → State) : Scene :=
    let n := { insn (.accst (op 1 (r 2) (r 4) 0x1800 (some ctl))) (ss ++ [win]) with pages := mapped }
    ⟨performing n f, jobB n (fun j s => match n.i with
      | .accst o =>
        let ty := accstType o
        let w := accstWindow (j.sval (if accstGlobal o then 2 else 1))
        let size := w.rows * accstStride ty w.cols
        let d := j.b.region (accstRegion o)
        let at_ := nextAt d + j.sval 0
        let key (k : Nat) : Nat := s.pageKey j.head.pages (j.sval 0 + 2 ^ 32 * j.sval 1 + k)
        (ty = 9 || ty = 10 || ty = 11 || (typeMx ty && w.cols % 32 = 0))
          && (if accstGlobal o then (List.range size).all (fun k => key k = key 0 + k)
            else !rgnPlanar d || (at_ % rgnWord d = 0 && (List.range size).all (fun k => (sget none j.b.marks (at_ + k)).isNone)))
      | _ => false)⟩
  [scene 0xB 0x3000100 [0] id, scene 0xA 0x1F000000 [64] id, scene 0xC 0x3010000 [0] id, scene 0x40B 0x3000100 [0] (region 1 (planar 0 1024 1 0)),
    scene 0x20B 0x3000100 [dataAt, 0] id, scene 0x209 0x3000100 [dataAt + 64, 0] id]

/-- AccumulatorStores. -/
theorem witness_AccumulatorStores : ∀ c ∈ accstCases, c.more c.s = true := all_scenes (by decide +kernel)

end Sys2Proof.Tests
end

