-- ==== Sys2Proof/Tests/Engines.lean ====
section
/-! SUPPORT. For each clause of a statement about the copy engine and the ringmaster, a state that meets its hypotheses. -/

namespace Sys2Proof.Tests

set_option Elab.async false

open Sys2Proof.Machine Sys2Proof.Claims Sys2Proof.Lab

/-! ## The copy engine -/

/-- The data page as a copy has it. -/
def dataPages : Pages := [(dataAt, ⟨18, true, false, false, 1, 0, 0, dataAt, false⟩)]

/-- A descriptor: source and destination kinds, types, transform, extents, addresses, row strides, and more bits. -/
def descOf (sk dk st dt xf e0 e1 src dst extra : Nat) : Nat :=
  sk + dk * 2 ^ 2 + st * 2 ^ 6 + dt * 2 ^ 11 + xf * 2 ^ 16 + src * 2 ^ 64 + dst * 2 ^ 128 + (dataAt + 0x2000) * 2 ^ 256 + e0 * 2 ^ 320
    + e1 * 2 ^ 336 + 2 ^ 352 + 256 * 2 ^ 384 + 256 * 2 ^ 448 + extra

/-- A queued copy of a descriptor, with a region of 8,192 bytes at 0. -/
def copying (bits : Nat) (f : CopyReq → CopyReq) : State :=
  let q : CopyReq := { queued with desc := bytesOf 64 bits, pages := dataPages, bkey := dataAt + 0x2000 }
  region 0 (flat 0 8192) { base with copies := [f { q with total := (copyDesc q.desc).units }] }

/-- Unit `u` of the copy, of which `k` holds. -/
def unitB (u : Nat) (k : CopyJob → Bool) (s : State) : Bool := match s.copyJob? 0 9 with
  | some j => s.copies.all (fun q => q.id ≠ 9 || decide (q = j.q))
    && (match j.barrier with
      | .global _ => true
      | .arena c i _ _ => (s.block? c i).isSome)
    && j.unitReady u && k j
  | none => false

/-- Rows of `n` bytes. -/
def image (rows n : Nat) (bad : Bool) : List RowImage :=
  List.replicate rows ⟨(List.range n).map (fun i => BitVec.ofNat 8 (i + 1)), List.replicate n bad, List.replicate (n / 24) 0x7E⟩

/-- A row of 80 bytes to global memory, its last unit; the same with poison, and stopped before it; a row left out by the index;
words of the arena, flat and planar; two MX blocks of typed lines, and FP6 blocks that a unit cuts; a tile row at its end; a
panel; a unit that may not be settled yet; a barrier in the arena. -/
def unitCases : List Scene :=
  let dst := dataAt + 0x1000
  let scene (bits u rows n : Nat) (bad : Bool) (f : CopyReq → CopyReq) (k : CopyJob → Bool) (g : State → State := id) : Scene :=
    ⟨g (copying bits (fun q => f { q with image := some (image rows n bad) })), unitB u (fun j => j.q.image.isSome && k j)⟩
  let plain (u : Nat) (j : CopyJob) : Bool := j.d.dk = 0 && !typeMx j.d.dtype && !j.d.rb
    && (match j.rowStart (u / j.d.rowUnits) with
      | some a => (List.range 64).all (fun k => j.s.pageKey j.q.pages (a + u % j.d.rowUnits * 64 + k) = dst + u % j.d.rowUnits * 64 + k)
      | none => false)
  let arena (planar : Bool) (j : CopyJob) : Bool := j.d.dk = 1 && rgnPlanar (j.b.region 0) = planar && !j.d.rb
  let lines (u : Nat) (j : CopyJob) : Bool := j.d.dk = 0 && typeMx j.d.dtype && !j.d.rb && (match j.rowStart 0 with
    | some a =>
      let bb := blockBytesOf j.d.dtype
      let line (k : Nat) : Nat := j.s.pageKey j.q.pages (CopyJob.lineSlot j.d.dtype a k).1
      let slot (k : Nat) : Nat := (CopyJob.lineSlot j.d.dtype a k).2
      let mine := (List.range 8).filter (fun k => decide (64 * u ≤ k * bb ∧ k * bb < 64 * u + 64 ∧ k * bb + bb ≤ j.d.dstRow))
      mine ≠ [] && mine.all (fun k => slot k < lineBlocks (fmtOf j.d.dtype) && line k % 256 = slot k * bb)
        && mine.all (fun k => mine.all (fun l => decide (k ≠ l → line k / 256 = line l / 256 → slot k ≠ slot l)))
    | none => false)
  let tile (j : CopyJob) : Bool := j.d.dk = 2 && j.d.de1 ≤ 128 && adrRow j.d.daddr < 128 && adrCol j.d.daddr + 16 ≤ 256
    && !j.b.tilePending (adrTile j.d.daddr)
  let arenaBar (s : State) : State := { s with copies := s.copies.map (fun q => { q with desc := q.desc.set 0 (q.desc.getD 0 0 + 32) }) }
  [scene (descOf 0 0 5 5 0 20 1 dataAt dst 0) 1 1 80 false (fun q => { q with settled := [0] }) (plain 1),
    scene (descOf 0 0 5 5 0 20 1 dataAt dst 0) 0 1 80 true (fun q => { q with stop := some 1 }) (plain 0),
    scene (descOf 0 0 5 5 0 16 2 dataAt dst 0) 1 2 64 false (fun q => { q with stop := some 1 }) (fun j => decide (1 ≤ j.rowOf 1)),
    scene (descOf 0 0 5 5 0 16 1 dataAt dst 0) 0 1 64 false (fun q => { q with kind := 2, idx := [0xFFFFFFFF] }) (fun j => (j.rowStart 0).isNone),
    scene (descOf 0 1 5 5 0 16 1 dataAt 0 0) 0 1 64 false id (arena false),
    scene (descOf 0 1 5 5 0 16 1 dataAt 0 0) 0 1 64 true id (fun j => arena true j && (nextAt (j.b.region 0)) % rgnWord (j.b.region 0) = 0
      && (List.range 64).all (fun k => (sget none j.b.marks (nextAt (j.b.region 0) + k)).isNone)) (region 0 (planar 0 1024 1 0)),
    scene (descOf 0 0 12 12 0 64 1 dataAt dst 0) 0 1 64 false id (lines 0),
    scene (descOf 0 0 14 14 0 128 1 dataAt dst 0) 0 1 96 true id (lines 0),
    scene (descOf 0 2 11 11 0 16 1 dataAt (15 + 127 * 2 ^ 4 + 240 * 2 ^ 11) 0) 0 1 64 false id tile,
    scene (descOf 0 2 11 11 0 16 1 dataAt (15 + 127 * 2 ^ 4 + 240 * 2 ^ 11) 0) 0 1 64 true id
      (fun j => tile j && j.b.undef.getLsbD (adrTile j.d.daddr) && j.b.aloneOn (adrTile j.d.daddr)) (inBlock (fun b => { b with undef := 0xFFFF })),
    scene (descOf 0 2 11 11 0 16 1 dataAt (15 + 127 * 2 ^ 4 + 240 * 2 ^ 11) 0) 0 1 64 false (fun q => { q with loose := true }) (fun j => tile j && j.q.loose),
    scene (descOf 0 1 12 12 0 32 8 dataAt 0 (2 ^ 19)) 0 1 512 false id (fun j => j.d.rb),
    scene (descOf 0 1 5 5 0 16 1 dataAt 0 0) 0 1 64 false id (fun j => j.b.tileCount = 16 && j.q.total = 1 && (j.q.dstArea).isNone)
      (inBlock (fun b => { b with tileCount := 16 })),
    ⟨copying (descOf 0 0 5 5 0 16 1 dataAt dst 0) (fun q => { q with settled := [0], total := 2, image := some (image 1 64 false) }), fun s =>
      match s.copyJob? 0 9 with
      | some j => !j.unitReady 0
      | none => false⟩,
    scene (descOf 0 0 5 5 0 16 1 dataAt dst 0) 0 1 64 false id (fun j => decide (j.barrier ≠ .global j.q.bkey)) arenaBar]

/-- CopyUnitsSettle. -/
theorem witness_CopyUnitsSettle : ∀ c ∈ unitCases, c.more c.s = true := all_scenes (by decide +kernel)

/-- A copy that has read nothing yet: of whole bytes, of a poisoned sector, and one that quantises. -/
def sourceCases : List Scene :=
  let scene (bits : Nat) (f : State → State) (bad : Bool) : Scene := ⟨f (copying bits id), unitB 0 (fun j =>
    let parts := (List.range j.d.e2).flatMap (fun e2 => (List.range j.d.de1).map (j.rowParts e2))
    j.q.image.isNone && j.q.stop.isNone && (j.firstBad (parts.map j.rowImage)).isSome == bad)⟩
  [scene (descOf 0 0 5 5 0 4 2 dataAt (dataAt + 0x1000) 0) id false,
    scene (descOf 0 0 5 5 0 4 2 dataAt (dataAt + 0x1000) 0) (fun s => s.poisonSector (dataAt + 256)) true,
    scene (descOf 0 0 11 12 1 32 1 dataAt (dataAt + 0x1000) 0) id false]

/-- CopiesReadTheirSource. -/
theorem witness_CopiesReadTheirSource : ∀ c ∈ sourceCases, c.more c.s = true := all_scenes (by decide +kernel)

/-- Padding; a moved element; a converted number, infinity and NaN; a quantised and a rescaled block. -/
def transformCases : List Scene :=
  let scene (bits : Nat) (k : CopyJob → Bool) (f : State → State := id) : Scene := ⟨f (copying bits id), fun s => match s.copyJob? 0 9 with
    | some j => k j
    | none => false⟩
  let some_ (k : CopyJob → SrcElem → Bool) (j : CopyJob) : Bool := match j.source 0 0 0 with
    | some c => k j c
    | none => false
  let typed : State → State := also (store dataAt 1 1) (fun s => { s with side := sset 0 s.side (dataAt / 256 * 16) 0x80 })
  let deq (code scale : Nat) : State → State := also (store dataAt 1 code) (fun s => { s with side := sset 0 s.side (dataAt / 256 * 16) (BitVec.ofNat 8 scale) })
  [scene (descOf 0 0 5 5 0 4 1 dataAt (dataAt + 0x1000) (2 ^ 368)) (fun j => decide (j.d.f0 = 4) && (j.source 0 0 4).isNone),
    scene (descOf 0 0 5 5 0 4 1 dataAt (dataAt + 0x1000) 0) (some_ (fun j _ => j.d.xf = 0)),
    scene (descOf 0 0 13 11 2 32 1 dataAt (dataAt + 0x1000) 0) (some_ (fun j c => j.d.xf = 2 && (match j.value c with
      | .fin _ _ _ => true
      | _ => false))) (deq 1 0x80),
    scene (descOf 0 0 13 11 2 32 1 dataAt (dataAt + 0x1000) 0) (some_ (fun j c => j.d.xf = 2 && j.value c = .inf false)) (deq 0x7C 0x80),
    scene (descOf 0 0 13 11 2 32 1 dataAt (dataAt + 0x1000) 0) (some_ (fun j c => j.d.xf = 2 && j.value c = .nan)) (deq 1 0xFF),
    scene (descOf 0 0 11 12 1 32 1 dataAt (dataAt + 0x1000) 0) (some_ (fun j _ => j.d.xf = 1)),
    scene (descOf 0 0 12 12 3 32 1 dataAt (dataAt + 0x1000) (2 ^ 24)) (some_ (fun j _ => j.d.xf = 3)) typed]

/-- CopyTransforms. -/
theorem witness_CopyTransforms : ∀ c ∈ transformCases, c.more c.s = true := all_scenes (by decide +kernel)

/-- A copy with a page in another module, from its first row on and from a row past its end. -/
def remoteCases : List Scene :=
  let far : CopyReq → CopyReq := fun q => { q with settled := [0], pages := [(dataAt, ⟨18, true, false, false, 1, 1, 5, dataAt, false⟩)] }
  let scene (row : Nat) (some_ : Bool) : Scene := ⟨copying (descOf 0 0 5 5 0 16 2 dataAt (dataAt + 0x1000) 0) far, fun s =>
    match s.copyJob? 0 9 with
    | some j => s.remoteCopy j.q && decide (j.q.settled.length ≤ j.q.total) && decide j.q.settled.Nodup && j.q.settled.all (fun u => u < j.q.total)
      && ((List.range j.q.total).filter (fun u => decide (row ≤ j.rowOf u) && !j.q.settled.contains u) ≠ []) == some_
    | none => false⟩
  [scene 0 true, scene 2 false]

/-- RemoteCopyFaults. -/
theorem witness_RemoteCopyFaults : ∀ c ∈ remoteCases, c.more c.s = true := all_scenes (by decide +kernel)

/-! ## The ringmaster -/

/-- A record of one cluster of one troupe of 16 lanes at the code page, with more bits; and as a queue holds it. -/
def recOf (extra : Nat) : List Byte := bytesOf 256 (codeAt + 4 * 2 ^ 64 + 2 ^ 297 + extra)
def headOf (bytes : List Byte) (arrival : Nat) (parent : Option Nat) : QRec := ⟨bytes, BitVec.ofNat 32 arrival, 0, 5, parent, false⟩

/-- The launch of `base` with another record, in another state. -/
def launched (bytes : List Byte) (f : Launch → Launch) (s : State) : State :=
  inLaunch (fun la => f { la with bytes := bytes, state := 1, next := 0 }) s

/-- A full table; a head before another of a lower class, and one that arrived first; a record that is refused; a good one
that conflicts in a range and one that shares a claim queue of its parent, or takes it. -/
def admissionCases : List Scene :=
  let scene (qs : List (Nat × QRec)) (f : State → State) (k : State → QRec → Launch → Bool) : Scene :=
    ⟨f { base with lq := qs.foldl (fun l q => l.set q.1 [q.2]) base.lq }, fun s => s.freeIndex.isSome
      && s.heads.any (fun h => s.heads.all (fun g => decide (g ≠ h → State.headBefore h g = true ∧ State.headBefore g h = false))
        && s.launches.all (fun e => e.1 ≠ s.nextId)
        && (s.launch? 0).any (k { s with lq := s.lq.set h.1 (s.queue h.1).tail } h.2))⟩
  let ok (k : State → QRec → Launch → Bool) (s1 : State) (q : QRec) (la : Launch) : Bool := good (s1.checkRecord q.ctx ⟨q.bytes⟩) && k s1 q la
  let cls (n : Nat) : Nat := n * 2 ^ 91
  let range (i page : Nat) : Nat := (page + 2 ^ 45) * 2 ^ (768 + 64 * i)
  let claim : Nat := 2 ^ 576 + 4 * 2 ^ 577 + 7 * 2 ^ 640 + 9 * 2 ^ 672
  let claims (s1 : State) (q : QRec) : Bool := (⟨q.bytes⟩ : LRec).cv 0 && (⟨q.bytes⟩ : LRec).cq 0 ≠ (⟨q.bytes⟩ : LRec).cq 1
    && (s1.claims[(⟨q.bytes⟩ : LRec).cq 0]?).isSome
  [⟨{ base with launches := (List.range 64).map (fun k => (k, { bareLaunch with entry := k })) }, fun s => s.freeIndex.isNone⟩,
    scene [(1, headOf (recOf 0) 0 none), (2, headOf (recOf (cls 1)) 9 none)] id (ok (fun _ q la => q.arrival = 9
      && !State.conflicts la ⟨q.bytes⟩ [])),
    scene [(3, headOf (recOf 0) 0xFFFFFFFE none), (2, headOf (recOf 0) 0 none)] id (ok (fun _ q _ => q.arrival = 0xFFFFFFFE)),
    scene [(0, headOf (bytesOf 256 0) 0 none)] id (fun s1 q _ => (⟨q.bytes⟩ : LRec).crec = 0 && (match s1.checkRecord q.ctx ⟨q.bytes⟩ with
      | .error st => st = 1
      | _ => false)),
    scene [(0, headOf (recOf (range 0 3)) 0 none)] (launched (recOf (range 4 3)) id) (ok (fun _ q la => State.conflicts la ⟨q.bytes⟩ [])),
    scene [(12, headOf (recOf claim) 0 (some 0))] (fun s => { s with claims := s.claims.set 4 ⟨0, 9, [0]⟩ }) (ok (fun s1 q _ => claims s1 q
      && q.parent = some 0 && (s1.claims[4]?).any (fun c => c.owners.contains 0))),
    scene [(0, headOf (recOf claim) 0 none)] id (ok (fun s1 q _ => claims s1 q && q.parent = none))]

/-- LaunchesAreAdmitted. -/
theorem witness_LaunchesAreAdmitted : ∀ c ∈ admissionCases, c.more c.s = true := all_scenes (by decide +kernel)

/-- A binding of CID 5 to the members 0 and 7, of FP32 elements, with `n` chunks of the data page. -/
def bindingOf (wire n : Nat) : Binding :=
  State.freshBinding 0 1 ⟨⟨bytesOf 64 (5 + wire * 2 ^ 18 + 2 ^ 32 + dataAt * 2 ^ 128 + n * 2 ^ 192)⟩, [0, 7], dataPages⟩

/-- The launch of `base` has the bindings. -/
def binding (bs : List Binding) (f : Launch → Launch) : State → State :=
  launched (recOf 0) (fun la => f { la with bindings := bs, reservedAll := false })

/-- Enough staging slots, and none; enough, with a launch of a lower CID that waits for more of them. -/
def reservationCases : List Scene :=
  let scene (full : Bool) (f : State → State) : Scene := ⟨f (binding [bindingOf 4 3] id { base with stagingUse := if full then [(0, stagingSlots)] else [(0, 4)] }), fun s =>
    match s.launch? 0 with
    | some la => s.mayReserve (0, la)
      && s.launches.all (fun f => f.1 = 0 || decide (s.lowestCid (0, la) ≤ s.lowestCid f) || !s.mayReserve f
        || decide (reduceSlots < s.reservedCount + f.2.bindings.length) || (State.reserveMany (s.byCid f) s).isNone)
      && decide (s.reservedCount + la.bindings.length ≤ reduceSlots) && (State.reserveMany (s.byCid (0, la)) s).isNone == full
    | none => false⟩
  let low : State → State := fun s => { s with
    stagingUse := [(0, stagingSlots - 8)]
    launches := s.launches ++ (s.launches.map (fun e => (9, { e.2 with
      entry := 9
      bindings := [State.freshBinding 0 1 ⟨⟨bytesOf 64 (4 + 4 * 2 ^ 18 + 2 ^ 32 + dataAt * 2 ^ 128 + 7 * 2 ^ 192)⟩, [0, 7], dataPages⟩] }))) }
  [scene false id, scene true id, ⟨low (scene false id).s, fun s => (scene false id).more s && s.launches.any (fun f => f.1 = 9 && s.mayReserve f
    && (s.launch? 0).any (fun la => s.lowestCid f < s.lowestCid (0, la)))⟩]

/-- BindingsAreReserved. -/
theorem witness_BindingsAreReserved : ∀ c ∈ reservationCases, c.more c.s = true := all_scenes (by decide +kernel)

/-- A fresh cluster, and a saved one, behind one that fits nowhere; over the coolant limit. -/
def placementCases : List Scene :=
  let big : Launch := { bareLaunch with bytes := recOf (3 * 2 ^ 91 + 17 * 2 ^ 280), entry := 1, state := 1, next := 0 }
  let scene (f : State → State) (resumes : Bool) : Scene :=
    ⟨f (launched (recOf 0) id { base with launches := base.launches ++ [(9, big)], nextId := 20 }), fun s => !s.overLimit && !s.reduceDue
      && (match s.candidates with
        | c :: k :: _ => (s.fit c).isNone && !c.la.blocking.contains c.cluster.ordinal && (s.fit k).isSome && s.launch? k.id = some k.la
          && k.saved.isSome == resumes && c.id ≠ k.id
        | _ => false)⟩
  [⟨{ base with overLimit := true }, (·.overLimit)⟩, scene (fun s => { s with clusters := [] }) false,
    scene (inCluster (fun cl => { cl with state := .saved })) true]

/-- ClustersArePlaced: placement; blocks on their cores, one with a pending fault; candidates that have been skipped for 2^20
clocks and for one less. -/
theorem witness_ClustersArePlaced : (∀ c ∈ placementCases, c.more c.s = true)
    ∧ (∃ (bs : List Block) (cores : List Nat), bs ≠ [] ∧ (∀ b ∈ bs, b.exited = false) ∧ cores.length = bs.length
      ∧ ∃ b ∈ bs, ∃ t ∈ b.troupes, ∃ rep, t.status = .parked rep)
    ∧ (∃ (s : State) (la : Launch), s.launch? 0 = some la ∧ (∃ e ∈ la.skipped, e.2 + 2 ^ 20 ≤ s.clk)
      ∧ ∃ e ∈ la.skipped, ¬ e.2 + 2 ^ 20 ≤ s.clk) := by
  refine ⟨all_scenes (by decide +kernel), ?_, ?_⟩
  · let t := { startTroupe 16 0 [] 256 0 [] false 0 0 0 with status := .parked ⟨0, .load, 3, 0, 0⟩ }
    exact ⟨[startBlock 0 [t] [] 0 0 0], [5], by simp, by simp [startBlock], rfl, _, .head _, t, .head _, _, rfl⟩
  · exact ⟨{ State.reset with launches := [(0, { bareLaunch with skipped := [(0, 0), (1, 1)] })], clk := 2 ^ 20 },
      { bareLaunch with skipped := [(0, 0), (1, 1)] }, rfl, ⟨(0, 0), .head _, by decide⟩, ⟨(1, 1), .tail _ (.head _), by decide⟩⟩

/-- The cluster is on sixteen cores of each die, with all their tiles, and a launch of class 1 needs sixteen. -/
def crowded : State :=
  let s := launched (recOf (16 * 2 ^ 280)) (fun la => { la with next := 1 }) base
  let wide : Launch := { bareLaunch with bytes := recOf (2 ^ 91 + 4 * 2 ^ 70 + 15 * 2 ^ 230 + 16 * 2 ^ 280), entry := 1, state := 1, next := 0 }
  { s with
    launches := s.launches ++ [(9, wide)]
    slots := [(0, me)]
    clusters := s.clusters.flatMap (fun e => (List.range 4).map (fun d => (if d = 0 then 0 else 10 + d, { e.2 with
      die := d, placed := d, blocks := e.2.blocks.flatMap (fun b => (List.range 16).map (fun i => { b with core := d * 24 + i })) }))) }

/-- A cluster that nothing needs out of the way; one that a candidate needs; one that has told to stop with a copy on its way, and
without, a late result still to come. -/
def saveCases : List Scene :=
  let scene (s : State) (c : Nat) (k : State → Cluster → Bool) : Scene := ⟨s, fun s => (s.cluster? c).any (k s)⟩
  let stopping (f : State → State) : State := f (inTroupe (fun t => { t with late := [⟨false, true, [(5, 1)], [], []⟩] })
    (inCluster (fun cl => { cl with state := .stopping }) base))
  [scene base 0 (fun s _ => decide (s.nextVictim ≠ some 0)),
    scene crowded 0 (fun s cl => s.nextVictim = some 0 && cl.state = .resident
      && (((s.slots.filter (fun e => e.2.cluster = 0)).foldl (fun q e => q.stopInside e.2) s).cluster? 0).any (fun x => x.state = .resident)),
    scene (stopping (copies 1)) 0 (fun s cl => !s.drained 0 cl),
    scene (stopping id) 0 (fun s cl => cl.state = .stopping && s.drained 0 cl && cl.blocks.length = 1
      && cl.blocks.all (fun b => b.troupes.all (fun t => t.late ≠ [] && t.late.all (fun q =>
        decide ((q.v.map (·.1)).Nodup ∧ (q.s.map (·.1)).Nodup ∧ (q.sc.map (·.1)).Nodup)))))]

/-- ClustersAreSaved. -/
theorem witness_ClustersAreSaved : ∀ c ∈ saveCases, c.more c.s = true := all_scenes (by decide +kernel)

/-- The example of 04 R109: a troupe of 64 lanes and 96 registers that has written all of them, and v0 to v39 with H = 40. -/
theorem test_save_bytes :
    let t (n h : Nat) : Troupe := { startTroupe 64 0 [] 96 (lanesBelow 64) [] false 0 0 0 with
      frontier := [⟨0, 0, 1, .header, 0, 0, h⟩], wrote := (List.range n).map (fun r => (r, 1)) }
    (t 96 96).saveBytes = 28544 ∧ (t 40 40).saveBytes = 13312 := by decide +kernel

/-- The troupe stands before the word of a case, which nothing keeps from executing. -/
def nextB (c : Case) : Bool :=
  let s := { c.change (at_ (wd c.i)) with cur := none }
  parts s (fun _ la b t => match t.frontier with
    | e :: _ => match e.place with
      | .body fin => match s.fetchInstr b.core la.ctx e.pc fin with
        | .ok (w, next) => match decode w next with
          | .instr i len =>
            let s1 : State := { s with cur := some ⟨me, e.pc, hiOf w, (next.map hiOf).getD 0, len, e.pc + BitVec.ofNat 64 (8 * len) = fin⟩ }
            match c.i.op? with
            | some (code, o) => decide (i = c.i) && decide (s1.env? = some (envOf s1)) && decide (t.status = .ready) && s.mayIssue 0
              && decide (t.rm ≠ some 0) && (opTrap code o (envOf s1)).isNone && c.more s1 (envOf s1) o
            | none => false
          | _ => false
        | _ => false
      | _ => false
    | [] => false)

/-- A short word; FBNEXT with W; FBNEXT, LDG and STG with sixteen lanes to serve, the first resumed after its first; MLOOP before
its two steps, and before the second. -/
def stopCases : List Case :=
  let many (_ : State) (x : Env) (o : Op) : Bool := decide (1 < (lanesSel x o).length)
  let rows : State → State := also (saddr 2 dataAt) (vregs 3 id)
  let fb := op 2 (v 1) (v 5) 1
  [⟨.nop (op 0 z z 0), id, fun _ _ _ => true⟩, ⟨.fbnext { fb with w := true }, id, fun s x o => o.w && many s x o⟩, ⟨.fbnext fb, id, many⟩,
    ⟨.fbnext fb, inTroupe (fun t => { t with rm := some 0xFFFE, prog := 1 }), many⟩,
    ⟨.ldg (op 8 (r 2) (v 3) 0xCC0), rows, many⟩, ⟨.ldg { op 8 (r 2) (v 3) 0xC0 with w := true }, rows, fun s x o => o.w && many s x o⟩,
    ⟨.stg (op 8 (r 2) (v 3) 0xCC0), rows, many⟩,
    ⟨.mloop (op 0x10 (r 4) (r 6) 0x1800 ctl), id, fun _ x _ => x.t.rm.isNone⟩,
    ⟨.mloop (op 0x10 (r 4) (r 6) 0x1800 ctl), inTroupe (fun t => { t with rm := some 1, prog := 1 }), fun _ x _ => x.t.rm.isSome⟩]

/-- LongInstructionsStop. -/
theorem witness_LongInstructionsStop : ∀ c ∈ stopCases, nextB c = true := List.all_eq_true.mp (by decide +kernel)

/-! ## The end of blocks, clusters and launches -/

/-- The binding of a launch that has been reserved. -/
def reserved (b : Binding) : Binding := { b with reserved := true, txbase := 0, rxbase := 8 }

/-- Every troupe has retired. -/
def retired : State → State := inTroupe (fun t => { t with status := .retired, exited := t.launched })

/-- A block with a copy on its way, and one that is at its exit point, in a launch with a binding. -/
def exitPointCases : List Scene :=
  let scene (f : State → State) (at_ : Bool) : Scene := ⟨f (binding [reserved (bindingOf 4 3)] id base), fun s => parts s (fun cl _ b _ =>
    cl.state = .resident && (if at_ then !b.exited && b.troupes.all (fun t => t.status = .retired)
        && s.copies.all (fun q => !(q.cluster = 0 && q.block = 0)) && b.pend.isEmpty && b.acts.all (fun a => a.queue.isEmpty)
      else !s.atExit 0 0 b))⟩
  [scene id false, scene (also retired (copies 1)) false, scene retired true]

/-- BlocksExit. -/
theorem witness_BlocksExit : ∀ c ∈ exitPointCases, c.more c.s = true := all_scenes (by decide +kernel)

/-- A finished cluster out of curve order; one with a chunk still to fire; one whose chunk has fired. -/
def retirementCases : List Scene :=
  let scene (rec : List Byte) (ord : Nat) (fired : Bool) (k : Cluster → Launch → Bool) : Scene :=
    ⟨inCluster (fun cl => { cl with state := .finished, ordinal := ord }) (launched rec (fun la => { la with
        bindings := [{ reserved (bindingOf 4 3) with fire := [], fired := if fired then [0] else [] }] }) base), fun s => parts s (fun cl la _ _ =>
      cl.state = .finished && decide ((s.clusters.map (·.1)).Nodup) && s.copies.all (fun q => q.cluster ≠ 0) && k cl la)⟩
  let late (cl : Cluster) (la : Launch) : Bool := (la.det && cl.ordinal ≠ la.done) || !State.firedAll la.lrec cl la.bindings
  [scene (recOf (2 ^ 93)) 1 true late, scene (recOf 0) 0 false late,
    scene (recOf (2 ^ 93)) 0 true (fun cl la => (!la.det || cl.ordinal = la.done) && State.firedAll la.lrec cl la.bindings
      && (la.bindings.head?).any (·.live))]

/-- ClustersRetire. -/
theorem witness_ClustersRetire : ∀ c ∈ retirementCases, c.more c.s = true := all_scenes (by decide +kernel)

/-- A launch that has retired its clusters, with no record and with one in the data page; one with a cluster to go; one that a
trap has ended, at rest and with a copy on its way. -/
def launchEndCases : List Scene :=
  let scene (f : State → State) (k : State → Launch → Bool) : Scene := ⟨f base, fun s => decide ((s.launches.map (·.1)).Nodup)
    && decide ((s.clusters.map (·.1)).Nodup) && (s.launch? 0).any (k s)⟩
  let trap : TrapReport := ⟨8, 3, 0x19, 0, 0, 1⟩
  let ended : State → State := also (inTroupe (fun t => { t with status := .stopped }))
    (inLaunch (fun la => { la with ended := true, traps := [trap, { trap with wid := 2 }] }))
  let done (_ : State) (la : Launch) : Bool := !la.ended && la.state = 3 && la.bindings.all (·.complete)
  let recorded (s : State) (la : Launch) : Bool := done s la && la.lrec.crec = dataAt
    && (match (s.flushAll.removeClusters (fun _ cl => cl.launch = 0)).pagesFor coreTotal la.ctx .store .plain [(la.lrec.crec, 128)] with
      | .ok ps => (List.range 128).all (fun i => s.pageKey ps (dataAt + i) = s.pageKey ps dataAt + i)
      | _ => false)
  [scene id done, scene (inLaunch (fun la => { la with bytes := bytesOf 256 (dataAt * 2 ^ 1792) })) recorded,
    scene (inLaunch (fun la => { la with state := 2 })) (fun _ la => la.state ≠ 3),
    scene ended (fun s la => la.ended && la.traps.length = 2 && s.quiescent 0 la),
    scene (also ended (copies 1)) (fun s la => !s.quiescent 0 la)]

/-- LaunchesEnd. -/
theorem witness_LaunchesEnd : ∀ c ∈ launchEndCases, c.more c.s = true := all_scenes (by decide +kernel)

end Sys2Proof.Tests
end

