-- ==== Sys2Proof/Tests/Device.lean ====
section
/-! SUPPORT. For each clause of a statement about collectives, recording, host commands and the module's surroundings, a state that
meets its hypotheses. -/

namespace Sys2Proof.Tests

set_option Elab.async false

open Sys2Proof.Machine Sys2Proof.Claims Sys2Proof.Lab

/-! ## Collectives -/

/-- The binding is reserved, and what holds of it and its launch. -/
def bindingB (k : State → Binding → Launch → Bool) (s : State) : Bool := match s.binding? ⟨0, 0⟩, s.launch? 0 with
  | some b, some la => k s b la
  | _, _ => false

/-- The launch of `base` has one reserved binding, of `n` chunks. -/
def collective (wire n : Nat) (f : Binding → Binding) (extra : Nat := 0) : State :=
  launched (recOf extra) (fun la => { la with bindings := [f (reserved (bindingOf wire n))] }) base

def peer : PeerBase := ⟨1, 0x1000, 0x2000⟩

/-- A chunk that is due no more, or not yet; the module's own, one for a peer that is READY, one for a peer that is not, and one
that waits for its cluster's retirement. -/
def fireCases : List Scene :=
  let scene (extra c : Nat) (f : Binding → Binding) (k : Binding → Launch → Bool) : Scene :=
    ⟨collective 4 3 (fun b => f { b with fire := [] }) extra, bindingB (fun s b la => k b la && (b.live = false ||
      (b.pmaps.all (fun p => decide (¬ (p.1 = c ∧ p.2.1 = b.rankOf s.member)))
        && decide (b.rxbase + c / b.peerCount * b.peerCount + b.rankOf s.member ≠ b.txbase + c))))⟩
  let due (c : Nat) (b : Binding) : Bool := b.live && c < b.ent.nchunk && sget 0 b.fire c = 0 && !b.fired.contains c
  let now (c : Nat) (b : Binding) (la : Launch) : Bool := !la.det || State.selecting la.lrec.blocks b.ent.ms c = 0
  [scene 0 3 id (fun b _ => b.ent.nchunk ≤ 3), scene 0 0 (fun b => { b with fired := [0] }) (fun b _ => b.fired.contains 0),
    scene 0 0 (fun b => { b with fault := true }) (fun b _ => !b.live),
    scene 0 2 id (fun b la => due 2 b && now 2 b la && 2 % b.peerCount = b.rankOf 0),
    scene 0 1 (fun b => { b with ready := [peer] }) (fun b la => due 1 b && now 1 b la && (b.ready.find? (fun p => p.rank = 1 % b.peerCount)).isSome),
    scene 0 1 id (fun b la => due 1 b && now 1 b la && (b.ready.find? (fun p => p.rank = 1 % b.peerCount)).isNone),
    scene (2 ^ 93) 0 id (fun b la => due 0 b && la.det && State.selecting la.lrec.blocks b.ent.ms 0 ≠ 0)]

/-- ChunksFire. -/
theorem witness_ChunksFire : ∀ c ∈ fireCases, c.more c.s = true := all_scenes (by decide +kernel)

/-- A notify of rank 1 for the binding. -/
def note (s : State) (chunk epoch : Nat) (f : Notify → Notify := id) : Notify :=
  f { s.plainNote (reserved (bindingOf 4 3)) chunk with rank := 1, epoch := epoch, nchunk := 3, pdig := State.peerDigest (bindingOf 4 3) }

/-- A result that waits for rank 1. -/
def waiting1 : ResultWait := ⟨1, note base 0 0, [1, 2]⟩

/-- For no reserved binding, of the coming EPOCH and of a later one; one that fits, with chunks and results that wait, and one
that does not; a contribution to a chunk of the module, and to another's; the next EPOCH, and a past one. -/
def notifyCases : List (State × (State → Notify) × (State → Notify → Binding → Bool)) :=
  let none_ (k : Notify → Nat → Bool) (s : State) (n : Notify) (_ : Binding) : Bool := (s.reservedFor n.cid).isNone && k n (sget 0 s.epochs n.cid)
  let soon (n : Notify) (e : Nat) : Bool := n.epoch = e % 256 || n.epoch = (e + 1) % 256
  let some_ (k : State → Notify → Binding → Bool) (s : State) (n : Notify) (b : Binding) : Bool := s.reservedFor n.cid = some ⟨0, 0⟩ && b.live && k s n b
  let free : State := binding [bindingOf 4 3] id base
  let taken : State := collective 4 3 (fun b => { b with epoch := 2, sendWait := [1], resWait := [waiting1] })
  [(free, fun s => note s 0 1, none_ (fun n e => soon n e)), (free, fun s => note s 0 1 (fun n => { n with reservedOk := false }), none_ (fun n e => !n.reservedOk && soon n e)), (free, fun s => note s 0 2, none_ (fun n e => !soon n e)),
    (taken, fun s => note s 0 2, some_ (fun s n b => n.epoch = b.epoch % 256 && s.noteFits b n && State.readyFits b n
      && n.chunk % b.peerCount = b.rankOf s.member)),
    (taken, fun s => note s 1 2, some_ (fun s n b => n.epoch = b.epoch % 256 && s.noteFits b n && n.chunk % b.peerCount ≠ b.rankOf s.member)),
    (taken, fun s => note s 3 2, some_ (fun s n b => n.epoch = b.epoch % 256 && !s.noteFits b n)),
    (taken, fun s => note s 0 3, some_ (fun _ n b => n.epoch = (b.epoch + 1) % 256)),
    (taken, fun s => note s 0 1, some_ (fun _ n b => n.epoch ≠ b.epoch % 256 && State.pastEpoch b.epoch n.epoch))]

/-- NotifiesArrive. -/
theorem witness_NotifiesArrive : ∀ c ∈ notifyCases, bindingB (fun s b _ => c.2.2 s (c.2.1 s) b) c.1 = true :=
  List.all_eq_true.mp (by decide +kernel)

/-- A chunk with every contribution and a core with room; one without; a chunk whose block runs, of both operations; its result
from its owner, and from another rank. The chunk's bytes lie in one page. -/
def reduceCases : List Scene :=
  let scene (f : Binding → Binding) (k : State → Binding → Launch → Bool) : Scene := ⟨collective 4 3 f, bindingB k⟩
  let inPage (s : State) (b : Binding) (c : Nat) : Bool :=
    (List.range 4096).all (fun i => s.pageKey b.pages (b.ent.out + 4096 * c + i) = dataAt + 4096 * c + i)
  [scene (fun b => { b with arrive := [] }) (fun s _ la => (s.dueReduces (0, la)).contains (⟨0, 0⟩, 0) && s.reduceSeat = some 0),
    scene id (fun s _ la => !(s.dueReduces (0, la)).contains (⟨0, 0⟩, 0)),
    scene (fun b => { b with dispatched := [(2, 0)] }) (fun s b _ => b.live && b.dispatched.any (fun d => d.1 = 2) && inPage s b 2 && b.ent.wire = 4),
    scene id (fun s b _ => let n := note s 1 0
      s.reservedFor n.cid = some ⟨0, 0⟩ && b.live && n.epoch = b.epoch % 256 && s.noteFits b n && 1 % b.peerCount = n.rank),
    scene id (fun s b _ => let n := note s 0 0
      s.reservedFor n.cid = some ⟨0, 0⟩ && b.live && n.epoch = b.epoch % 256 && s.noteFits b n && 0 % b.peerCount ≠ n.rank),
    ⟨collective 1 1 (fun b => { b with dispatched := [(0, 0)] }), bindingB (fun s b _ => b.live && b.ent.isMx && b.dispatched.any (fun d => d.1 = 0)
      && (List.range 128).all (fun k => s.pageKey b.pages (b.ent.out + k / 8 * 256) = dataAt + k / 8 * 256))⟩]

/-- ChunksAreReduced. -/
theorem witness_ChunksAreReduced : ∀ c ∈ reduceCases, c.more c.s = true := all_scenes (by decide +kernel)

/-- A binding with every result, one with a result that waits, one that has ended, one that is complete. -/
def completionCases : List Scene :=
  let scene (f : Binding → Binding) (k : Binding → Bool) : Scene := ⟨collective 4 3 f, bindingB (fun _ b _ => k b)⟩
  [scene (fun b => { b with results := 0 }) (fun b => b.reserved && !b.complete && b.results = 0 && b.resWait = [] && b.live),
    scene (fun b => { b with results := 0, resWait := [waiting1] }) (fun b => b.resWait ≠ [] && !b.fault),
    scene (fun b => { b with fault := true }) (fun b => b.reserved && !b.complete && b.fault && !b.live),
    scene (fun b => { b with complete := true }) (fun b => b.complete)]

/-- BindingsComplete. -/
theorem witness_BindingsComplete : ∀ c ∈ completionCases, c.more c.s = true := all_scenes (by decide +kernel)

/-! ## Recording and replay -/

/-- What a checkpoint of `base` holds, with the moves given; and a replay of them. -/
def checkpointOf (s : State) (moves : List LogMove) : Checkpoint :=
  ⟨0, bareLaunch, s.clustersOf 0, s.mem, s.side, s.poison, s.sidePoison, s.frames, s.claims, s.staging, false, s.clk, s.seq, s.free, moves,
    [(dataAt, true)]⟩
def replayOf (s : State) (moves : List LogMove) : Replay :=
  ⟨0, moves, none, [(dataAt, true)], s.mem, s.side, s.poison, s.sidePoison, s.frames, s.claims, s.staging, s.setting⟩

/-- The launch is recorded. -/
def recorded (r : Recording) : State → State := inLaunch (fun la => { la with record := some r })
def aMove (s : State) : LogMove := ⟨.word 0 0, s.setting, []⟩

/-- An interval that is over, and one that is not; a copy on its way; a buffer that is full, and one with room for one entry; no
recording; a checkpoint to add to, and replays of this launch and of another; checkpoints with no move, with one, and with one
after a later checkpoint. -/
def recordingCases : List Scene :=
  let rec_ (r : Recording) (f : State → State) (k : State → Launch → Recording → Bool) : Scene := ⟨f (recorded r base), fun s =>
    (s.launch? 0).any (fun la => la.record.any (k s la))⟩
  let r0 : Recording := ⟨1, 0x1000, 64, 0, 0, 1, false, []⟩
  let drained (s : State) : Bool := (s.clustersOf 0).all (fun e => s.drained e.1 e.2)
  [rec_ r0 id (fun s la r => !r.full && r.since + r.interval ≤ s.retiredBy 0 la && s.replay.isNone && drained s),
    rec_ { r0 with interval := 2 } id (fun s la r => s.retiredBy 0 la < r.since + r.interval),
    rec_ r0 (fun s => { s with checkpoints := [checkpointOf s [], checkpointOf s []] }) (fun s la r => !r.full && r.since + r.interval ≤ s.retiredBy 0 la
      && s.replay.isNone && drained s && s.checkpoints.length = 2 && s.checkpoints.all (fun c => c.launch = 0)),
    rec_ r0 (fun s => { s with replay := some (replayOf s []) }) (fun s _ _ => s.replay.any (fun p => p.launch = 0)),
    rec_ r0 (fun s => { s with replay := some { replayOf s [] with launch := 3 } }) (fun s _ _ => s.replay.any (fun p => p.launch ≠ 0)),
    rec_ r0 (copies 1) (fun s _ _ => !drained s), rec_ { r0 with used := 49 } id (fun _ _ r => !r.full && r.size < r.used + 16),
    rec_ { r0 with used := 48 } id (fun _ _ r => r.used + 16 ≤ r.size), rec_ { r0 with full := true } id (fun _ _ r => r.full),
    ⟨base, fun s => (s.launch? 0).any (·.record.isNone)⟩,
    ⟨{ base with checkpoints := [checkpointOf base []] }, fun s => ((s.checkpoints.filter (fun x => x.launch = 0))[0]?).any (fun c => c.moves = [])
      && s.replay.isNone⟩,
    ⟨{ base with checkpoints := [checkpointOf base [aMove base]] }, fun s => ((s.checkpoints.filter (fun x => x.launch = 0))[0]?).any (fun c => c.moves ≠ [])
      && s.replay.isNone⟩,
    ⟨{ base with checkpoints := [checkpointOf base [], checkpointOf base [aMove base]] }, fun s =>
      let mine := s.checkpoints.filter (fun x => x.launch = 0)
      ((mine[0]?).any (fun c => c.moves = [])) && (mine.drop 0).flatMap (·.moves) ≠ [] && s.replay.isNone⟩]

/-- RecordingAndReplay. -/
theorem witness_RecordingAndReplay : ∀ c ∈ recordingCases, c.more c.s = true := all_scenes (by decide +kernel)

/-- MovesAreLoggedAndReplayed: a move of the launch and one of no launch; a buffer with room for one entry, and with none; a replay
before its last move, and before another. -/
theorem witness_MovesAreLoggedAndReplayed :
    (let s : State := { base with slots := [(0, me)], checkpoints := [checkpointOf base []] }
     (s.checkpoints.all (fun d => d.launch = 0) && s.replay.isNone && s.moveOf 0 (.word 0 0) && !s.moveOf 0 (.word 1 1)) = true)
    ∧ (∀ used ∈ [48, 49], let s : State := recorded ⟨1, 0x1000, 64, used, 0, 0, false, []⟩ { base with slots := [(0, me)], checkpoints := [checkpointOf base []] }
       (s.replay.isNone && s.moveOf 0 (.word 0 0) && (s.launch? 0).any (fun la => la.record.any (fun r => decide (r.used + 16 ≤ r.size) == decide (used = 48)))
         && (s.issuerAt 0 0 = some me) && (s.troupe? me).isSome) = true)
    ∧ (∀ ms ∈ [[aMove base], [aMove base, aMove base]], ∃ (s : State) (p : Replay) (m : LogMove) (rest : List LogMove),
      s.replay = some p ∧ p.todo = m :: rest ∧ ms = m :: rest ∧ p.upTo = none) := by
  refine ⟨by decide +kernel, by decide +kernel, ?_⟩
  intro ms hm
  refine ⟨{ base with replay := some (replayOf base ms) }, replayOf base ms, aMove base, ms.tail, rfl, ?_, ?_, rfl⟩ <;>
    (simp only [List.mem_cons, List.not_mem_nil, or_false] at hm; rcases hm with rfl | rfl <;> rfl)

/-! ## Host commands -/

/-- The header of the command that comes next to `base`, for a context, of a length. -/
def next (ctx len : Nat) : Cmd := ⟨0, ctx, len⟩

/-- A held LAUNCH. -/
def heldOne : Cmd × Nat × List Byte := (next 0 5, 0, recOf 0)

/-- Whether the command is taken, has the length, and finds the context that it needs. -/
def goodB (h : Cmd) (len : Nat) (needs : Bool) (s : State) : Bool :=
  decide (h.seq = s.ack + 1 ∧ h.ctx < 256 ∧ h.len ≤ 64 ∧ s.heldLaunch = none ∧ h.len = len) && (!needs || (s.ctx? h.ctx).isSome)

def cmdScene (h : Cmd) (len : Nat) (needs : Bool) (s : State) (k : State → Bool := fun _ => true) : Scene := ⟨s, fun s => goodB h len needs s && k s⟩

/-- Out of sequence, behind a held LAUNCH, a wrong length, a missing context, a reserved kind; LAUNCH on a bound queue with room,
on a full one, over the coolant limit, and on a queue that is not bound, and each of these held. -/
def sequenceCases : List Scene :=
  let bound (s : State) : State := { s with bound := s.bound.set 3 (some 0) }
  let full (s : State) : State := { s with lq := s.lq.set 3 (List.replicate 256 (headOf [] 0 none)) }
  let isBound (h : Cmd) (s : State) : Bool := h.len = 5 && (s.ctx? h.ctx).isSome && s.bound[3]? = some (some h.ctx)
  let hold (s : State) : Bool := s.overLimit || (isBound (next 0 5) s && 256 ≤ (s.queue 3).length)
  let both (f : State → State) (k : State → Bool) : List Scene :=
    [cmdScene (next 0 5) 5 false (f base) k, ⟨{ f base with heldLaunch := some (next 0 5, 3, recOf 0) }, fun s => s.heldLaunch.isSome && k s⟩]
  [⟨base, fun s => (⟨1, 0, 1⟩ : Cmd).seq ≠ s.ack + 1⟩, ⟨base, fun s => !s.heldLaunch.isSome && decide (64 < (⟨0, 0, 65⟩ : Cmd).len)⟩,
    ⟨{ base with heldLaunch := some heldOne, waiting := [(1, .debugAttach ⟨1, 0, 1⟩)] }, fun s => s.heldLaunch.isSome
      && decide ((⟨2, 0, 1⟩ : Cmd).seq = s.ack + 1 + BitVec.ofNat 32 (1 + s.waiting.length))⟩,
    ⟨{ bound (full base) with waiting := [(0, .hostLaunch (next 0 5) 3 (recOf 0)), (1, .debugAttach ⟨1, 0, 1⟩)] }, fun s => goodB (next 0 5) 5 false s
      && isBound (next 0 5) s && hold s && s.waiting.any (fun w => w.1 = 0)⟩,
    cmdScene (next 0 2) 2 true base, cmdScene (next 7 0) 0 false base (fun s => (s.ctx? 7).isNone), cmdScene (next 0 64) 64 false base]
    ++ both bound (fun s => isBound (next 0 5) s && !hold s) ++ both (also bound full) hold
    ++ both (fun s => { s with overLimit := true }) hold ++ both id (fun s => !isBound (next 0 5) s && !hold s)

/-- CommandsAreTakenInSequence and LaunchCommands. -/
theorem witness_commands : ∀ c ∈ sequenceCases, c.more c.s = true := all_scenes (by decide +kernel)

/-- The troupe is parked with report 3. -/
def parked : State → State := inTroupe (fun t => { t with status := .parked ⟨BitVec.ofNat 64 dataAt, .load, 3, 4, 0⟩ })

/-- Each command of a context, with each of its outcomes. -/
def contextCases : List Scene :=
  let idle : State := { base with launches := [], clusters := [] }
  let loading : Obj :=
    { handle := 7, ctx := 0, codeva := 0, seg := 1, buf := [], digest := [], header := []
      image := [], segEnds := [], done := [], cached := false, loaded := false }
  [cmdScene (next 9 1) 1 false base (fun s => (s.ctx? 9).isNone), cmdScene (next 0 1) 1 false base (fun s => (s.ctx? 0).isSome),
    cmdScene (next 0 0) 0 true base (fun s => s.launches.any (fun e => e.2.ctx = 0)),
    cmdScene (next 0 0) 0 true { idle with lq := idle.lq.set 1 [headOf (recOf 0) 0 none] } (fun s => s.lq.flatten.any (fun q => q.ctx = 0)),
    cmdScene (next 0 0) 0 true idle (fun s => s.launches.all (fun e => e.2.ctx ≠ 0) && s.lq.flatten.all (fun q => q.ctx ≠ 0)),
    cmdScene (next 0 0) 0 true { idle with objects := [loading] } (fun s => s.launches.isEmpty && s.lq.flatten.isEmpty
        && s.objects.any (fun o => o.ctx = 0 && !o.loaded)),
    cmdScene (next 0 1) 1 true base]

/-- ContextCommands. -/
theorem witness_ContextCommands : ∀ c ∈ contextCases, c.more c.s = true := all_scenes (by decide +kernel)

/-- A report that no troupe waits with, and one that a troupe of a launch waits with, which has a handler; a resident cluster of
the launch named, and one that is stopping. -/
def pagerCases : List Scene :=
  let h := next 0 1
  [cmdScene h 1 false base (fun s => (s.parkedWith 4).isNone),
    cmdScene h 1 false (parked (handled base)) (fun s => match s.parkedWith 4 with
      | some (r, _, l) => (match s.troupe? r, s.launch? l with
        | some t, some la => t.held.isNone && !la.ended && (handlerOf t la).isSome && decide ((s.launches.map (·.1)).Nodup)
        | _, _ => false)
      | none => false),
    cmdScene h 1 false base (fun s => decide ((s.clusters.map (·.1)).Nodup) && s.slots.isEmpty && s.clusters.any (fun e => e.2.state = .resident
      && s.launches.any (fun la => la.2.arrival = 0 && la.1 = e.2.launch))),
    cmdScene h 1 false (inCluster (fun cl => { cl with state := .stopping }) base) (fun s => decide ((s.clusters.map (·.1)).Nodup)
      && s.slots.isEmpty && s.clusters.all (fun e => e.2.state ≠ .resident))]

/-- PagerAnswersAndPreemption. -/
theorem witness_PagerAnswersAndPreemption : ∀ c ∈ pagerCases, c.more c.s = true := all_scenes (by decide +kernel)

/-- DEBUG, RECORD, READ_STATE of an entry in use, a free one and one past the end, of counters of cores and of a troupe that is
there and one that is not, ATTEST, RESEND of what is kept and of more, sent before and not; segments of an image, and its close. Whether the
signatures are accepted is opaque, and any SVN, below the fuse counter too, is in one of the cases that follow. -/
def deviceCases : List Scene :=
  let answered (n : Nat) (s : State) : State := { s with devSeq := BitVec.ofNat 32 n, responses := List.replicate n ⟨0, 0, 0x82, 0, 1, 0, []⟩ }
  let fw (svn : Option Nat) (image : List Byte) : Nat := (image.length + (if svn.isSome then 2768 else 0) + 63) / 64
  let last := fw (some 5) [1]
  let held (n : Nat) : State := recorded ⟨1, 0x1000, 64, 64, 0, 0, true, List.replicate n 1⟩ base
  [cmdScene (next 0 1) 1 true base,
    cmdScene (next 0 1) 1 true (held 32) (fun s => decide ((s.launches.map (·.1)).Nodup)
      && (s.launches.filter (fun e => e.2.ctx = 0 && !e.2.det)).length = 1 && s.launches.any (fun e => e.2.record.any (fun r => r.unsent.length = 32))),
    cmdScene (next 0 1) 1 true (held 0) (fun s => s.launches.all (fun e => e.2.record.all (fun r => r.unsent = []))),
    cmdScene (next 0 1) 1 false base (fun s => s.launches.all (fun e => e.2.entry ≠ 63) && (s.launches.find? (fun e => e.2.entry = 0)).isSome
      && (s.troupe? me).isSome && (s.troupe? ⟨9, 0, 0⟩).isNone && (List.replicate 48 (0 : Byte)).length = 48),
    cmdScene (next 0 1) 1 false (answered 3 base) (fun s => s.devSeq - 3 + BitVec.ofNat 32 3 = s.devSeq && s.responses.length = 3
      && s.devSeq - 4 + BitVec.ofNat 32 4 = s.devSeq && s.link.all (fun r => r.seq ≠ s.devSeq - 4)),
    cmdScene (next 0 1) 1 false { answered 3 base with link := [⟨BitVec.ofNat 32 3 - 4, 0, 0x82, 0, 1, 0, []⟩] } (fun s =>
      s.link.any (fun r => r.seq = s.devSeq - 4)),
    cmdScene (next 0 1) (fw none [1, 2]) false base,
    cmdScene (next 0 last) last false base (fun _ => (List.replicate 96 (0 : Byte)).length = 96 && (List.replicate 2668 (0 : Byte)).length = 2668),
    cmdScene (next 0 last) last false { base with fuse := 6 } (fun s => decide (5 < s.fuse))]

/-- DebugRecordAndStateCommands. -/
theorem witness_DebugRecordAndStateCommands : ∀ c ∈ deviceCases, c.more c.s = true := all_scenes (by decide +kernel)

/-- An object in the course of loading: two segments, one function, the header given. -/
def objectOf (seg : Nat) (buf header : List Byte) : Obj :=
  { handle := 7, ctx := 0, codeva := 0, seg := seg, buf := buf, digest := [], header := header
    image := if seg = 0 then [] else List.replicate 64 0, segEnds := [], done := [], cached := true, loaded := false }

/-- The first bytes of the header: its magic number, version 1, two segments, SVN 0, one function. -/
def headBytes (nseg n : Nat) : List Byte := bytesOf n (zcoMagic + 2 ^ 32 + nseg * 2 ^ 48 + 2 ^ 112)

/-- A part that breaks R440, the first of an object and one that is not; one out of order; one in the middle of the header, its
last; the last of a segment with another digest, too short, with the next digest, and the object's last. The digest of such a
segment is computed as the device computes it. Whether the signatures are accepted is opaque: for each header one of the three
cases holds. -/
def objectCases : List Scene :=
  let part (seg off n : Nat) (last : Bool) : ObjectPart := ⟨7, seg, off, last, 0, true, List.replicate n 1⟩
  let scene (o : Option Obj) (p : ObjectPart) (k : State → Bool) : Scene :=
    let len := 1 + (p.data.length + 63) / 64
    cmdScene (next 0 len) len true { base with objects := o.toList } (fun s => (s.objects.find? (fun q => q.handle = p.handle && q.ctx = 0) == o) && k s)
  let fits (p : ObjectPart) : Bool := p.reservedOk && p.data.length ≤ 4032
  let go (o : Obj) (p : ObjectPart) (k : Obj → List Byte → Bool) : Scene := scene (some o) p (fun s => fits p
    && s.objects.all (fun q => !(q.handle = 7 && q.ctx = 0) || q = o) && !o.loaded && p.seg = o.seg && p.off = o.buf.length && p.codeva = 0
    && k o (o.buf ++ p.data))
  let seg (o : Obj) (p : ObjectPart) (same : Bool) (k : Obj → List Byte → Bool) : Scene := go { o with digest := if same then Sha.sha384 (o.buf ++ p.data) else [] } p
    (fun o buf => o.seg ≠ 0 && p.last && o.header ≠ [] && (Sha.sha384 buf = o.digest) == same && k o buf)
  let rest (o : Obj) (buf : List Byte) (final : Bool) : Bool :=
    let n := buf.length - (if final then 0 else 48)
    let x := { o with image := o.image ++ buf.take n }
    decide (o.nseg ≤ o.seg + 1) == final && (final || 48 ≤ buf.length) && o.cached && x.funcs ≠ [] && x.funcs.all (·.ok)
  let late := objectOf 1 [] (headBytes 2 16)
  let early := objectOf 1 [] (headBytes 3 16)
  [scene none { part 0 0 4 false with reservedOk := false } (fun _ => true), scene none (part 1 0 4 false) (fun _ => fits (part 1 0 4 false)),
    scene none (part 0 0 4 false) (fun _ => fits (part 0 0 4 false)),
    scene (some late) (part 1 1 4 false) (fun _ => fits (part 1 1 4 false) && (1 : Nat) ≠ late.buf.length),
    go (objectOf 0 [1] []) (part 0 1 4 false) (fun _ buf => buf.length < 3072),
    go (objectOf 0 (headBytes 2 3000) []) ⟨7, 0, 3000, false, 0, true, List.replicate 72 0⟩ (fun o buf => o.header = [] && 3072 ≤ buf.length
      && { o with buf := buf, header := buf.take 3072 }.headerOk && { o with buf := buf, header := buf.take 3072 }.svn = 0),
    seg early (part 1 0 4 true) false (fun _ _ => true),
    seg early (part 1 0 47 true) true (fun o buf => o.seg + 1 < o.nseg && buf.length < 48), seg early (part 1 0 48 true) true (fun o b => rest o b false),
    seg late (part 1 0 4 true) true (fun o b => rest o b true)]

/-- ObjectsAreLoaded. -/
theorem witness_ObjectsAreLoaded : ∀ c ∈ objectCases, c.more c.s = true := all_scenes (by decide +kernel)

/-! ## The module and its surroundings -/

/-- DegradedOperation: clocks that step down and do not, a channel that is new and one that is fenced, clusters with no slot. -/
theorem witness_DegradedOperation :
    ([(1600, 1200, true), (1600, 800, true), (800, 1200, false), (1600, 900, false)].all (fun c =>
      (decide (c.2.1 = 1200 ∨ c.2.1 = 800) && decide (c.2.1 < ({ base with clockMhz := c.1 } : State).clockMhz)) == c.2.2)
    && !base.channels.contains 3 && ({ base with channels := [3] } : State).channels.contains 3
    && decide ((base.clusters.map (·.1)).Nodup) && base.slots.isEmpty
    && base.clusters.any (fun e => e.2.state = .resident)) = true := by decide +kernel

/-- A line of the first table of a context and one of its second; a line with no context; a block; a launch. -/
def errorCases : List Scene :=
  let one (line : Nat) (s : State) : Bool := decide (s.ctxs.filter (fun c => s.inTables c line) = s.ctxs) && s.ctxs.length = 1
    && decide ((s.launches.map (·.1)).Nodup)
  [⟨base, one (tableAt / 256)⟩, ⟨base, one ((tableAt + 0x10000) / 256)⟩,
    ⟨{ cached base with ctxs := [] }, fun s => s.ctxs.isEmpty && s.l1.any (fun e => State.l1Addr (State.l1Phys e.1) / 256 = dataAt / 256)⟩, ⟨{ base with ctxs := [] }, fun s => s.ctxs.isEmpty⟩,
    ⟨base, fun s => (s.block? 0 0).isSome && decide ((s.launches.map (·.1)).Nodup)⟩]

/-- ErrorsPoison. -/
theorem witness_ErrorsPoison : ∀ c ∈ errorCases, c.more c.s = true := all_scenes (by decide +kernel)

/-- A troupe at BKPT with a debugger, one without, and one that is not; a write of every part, at the last register and lane. -/
def debugCases : List (State × Bool) :=
  let brk : State → State := inTroupe (fun t => { t with status := .breakpoint })
  let attach (s : State) : State := { s with ctxs := s.ctxs.map (fun c => { c with debugger := true }) }
  [(brk (attach base), true), (brk base, false), (attach base, false)]

def debugAll : DebugWrite :=
  ⟨[(255, 15, 7), (0, 0, 3)], [(63, 5)], [(6, 1)], [(255, 3, 0x70)], [(7, 0)], [(3, none)], some 1, some 2, some 3, some 4, some 5, some 6,
    some 7, some 8, some 9, some 10, some [(BitVec.ofNat 64 codeAt, 3, lanesBelow 8), (64, 1, lanesBelow 16 &&& ~~~lanesBelow 8)]⟩

/-- DebuggerAndOutsideAccesses: the debugger, with a frontier that the troupe can have and one that it cannot; stores that end at the end of memory, and past it; the last slot and byte. -/
theorem witness_DebuggerAndOutsideAccesses :
    debugCases.all (fun c => let s := c.1
      s.mayIssue 0 && parts s (fun _ la _ t => (t.status = .breakpoint && s.debugged la.ctx) == c.2 && decide (t.width ≤ 128)
        && t.fb.length = 8 && t.run.latches.length = 4
        && [(debugAll, true), ({ debugAll with frontier := some [(0, 0, 1)] }, false)].all (fun w => w.1.frontier.any (fun es =>
          (decide (es.map (·.1)).Nodup && es.all (fun e => e.2.2 ≠ 0) && (List.range 128).all (fun l =>
            (es.filter (fun e => hasLane e.2.2 l)).length = if hasLane t.live l then 1 else 0)) == w.2)))) = true
    ∧ (let w := debugAll
       (w.vregs.map (fun x => (x.1, x.2.1))).Nodup ∧ (w.sregs.map (·.1)).Nodup ∧ (w.tags.map (fun x => (x.1, x.2.1))).Nodup
        ∧ (w.preds.map (·.1)).Nodup ∧ (w.fibres.map (·.1)).Nodup ∧ (w.latches.map (·.1)).Nodup)
    ∧ (∃ (pa : Nat) (bytes : List Byte), bytes ≠ [] ∧ pa + bytes.length = 768 * 2 ^ 30)
    ∧ (∃ (slot off : Nat) (bytes : List Byte), bytes ≠ [] ∧ slot = 32767 ∧ off + bytes.length = 4224) :=
  ⟨by decide +kernel, by decide, ⟨768 * 2 ^ 30 - 1, [1], by decide, by decide⟩, ⟨32767, 4223, [1], by decide, rfl, by decide⟩⟩

end Sys2Proof.Tests
end

