-- ==== Sys2Proof/Tests/Faults.lean ====
section
/-! SUPPORT. For each clause of a statement about faults of lanes and traps at issue, a state and a word that meet its hypotheses
together. -/

namespace Sys2Proof.Tests

set_option Elab.async false

open Sys2Proof.Machine Sys2Proof.Claims Sys2Proof.Lab

/-! ## Global memory -/

/-- Some lane's fault has the cause, the others find their entries, and no store waits in L1. -/
def faults (cause : Nat) (chk : Nat → Except MemFault (Leaf × Nat)) (l1 : Leaf → Bool) (pt : Leaf → Point) (n : Nat) (lanes : List Nat) (s : State) (x : Env) : Bool :=
  let ok := lanes.filterMap (fun l => match chk l with
    | .ok p => some p
    | _ => none)
  s.l1.all (fun e => match e.2 with
    | .dirty _ => false
    | _ => true)
    && (s.takeEntries x.core (ok.map (fun p => (pt p.1, p.2, n)))).isSome
    && lanes.any (fun l => match chk l with
      | .error f => f.cause = cause
      | .ok p => cause = 0x0C && s.poisonAny x.core (l1 p.1) p.2 n)

def poisoned (a : Nat) (s : State) : State := s.poisonSector a

/-- The pages of the launch's context no pager serves. -/
def memoryFaultCases : List Case :=
  let ca (o : Op) (p : Leaf) : Bool := atL1 (opPolicy o) (opScope o) p
  let plain (s : State) (x : Env) (acc : Access) (n va : Nat) := s.checkAccess x.core x.ctx acc .plain n va (pageChoice va)
  let lane (acc : Access) (cause : Nat) (s : State) (x : Env) (o : Op) : Bool :=
    faults cause (fun l => plain s x acc (ldWidth o) (laneAddr o x.t l)) (ca o) (pointOf (opPolicy o) (opScope o)) (ldWidth o) (lanesSel x o) s x
  let row (acc : Access) (cause : Nat) (s : State) (x : Env) (o : Op) : Bool :=
    let n := 2 ^ (o.c.extractLsb' 10 3).toNat * memWidth (memType o.c)
    faults cause (fun l => plain s x acc n (x.t.rawPair o.a 0 + BitVec.ofNat 64 (x.t.operand 6 o o.b l * n)).toNat) (ca o)
      (pointOf (opPolicy o) (opScope o)) n
      ((lanesSel x o).filter (fun l => x.t.operand 6 o o.b l ≠ 0xFFFFFFFF)) s x
  let atom (cause : Nat) (s : State) (x : Env) (o : Op) : Bool :=
    let n := memWidth (atomType o.c)
    !detAtomic o x && faults cause (fun l => reachAtomic n x s (x.t.rawPair o.a l).toNat) (atL1 0 (opScope o))
      (pointOf 0 (opScope o)) n (lanesSel x o) s x
  let ld := Instr.ld (op 4 (r 2) (v 3) 0xC0)
  let st := Instr.st (op 4 (r 2) (v 3) 0xC0)
  let ldg := Instr.ldg (op 8 (r 2) (v 3) 0xCC0)
  let stg := Instr.stg (op 8 (r 2) (v 3) 0xCC0)
  let at_ (a n : Nat) : State → State := also (saddr 2 a) (vregs 3 (fun l => l * n))
  let idx : State → State := vregs 3 (fun l => if l = 3 then 0xFFFFFFFF else l)
  let pair (f : Nat → Nat) : State → State := also (vregs 2 (fun l => f l % 2 ^ 32)) (vregs 3 (fun l => f l / 2 ^ 32))
  [⟨ld, at_ dataAt 2, lane .load 0x0A⟩, ⟨ld, at_ hole 4, lane .load 0x08⟩, ⟨ld, at_ typedAt 4, lane .load 0x0B⟩,
    ⟨ld, also (at_ dataAt 4) (poisoned dataAt), lane .load 0x0C⟩, ⟨ld, at_ (2 ^ 57 - 4) 4, lane .load 0x09⟩,
    ⟨st, at_ dataAt 2, lane .store 0x0A⟩, ⟨st, at_ (hole - 32) 4, lane .store 0x08⟩,
    ⟨ldg, also (saddr 2 (dataAt + 4)) idx, row .load 0x0A⟩, ⟨ldg, also (saddr 2 (dataAt + 32)) (also idx (poisoned (dataAt + 64))), row .load 0x0C⟩,
    ⟨stg, also (saddr 2 (hole - 64)) idx, row .store 0x08⟩, ⟨stg, also (saddr 2 typedAt) idx, row .store 0x0B⟩,
    ⟨.atom (op 6 (v 2) (v 4) 0xA0), pair (fun l => dataAt + 4 * l + l / 15), atom 0x0A⟩,
    ⟨.atom (op 6 (r 2) (v 3) 0xA0), also (saddr 2 dataAt) (poisoned dataAt), atom 0x0C⟩,
    ⟨.red (op 0 (v 2) (v 4) 0xA0), pair (fun l => if l = 0 then hole else dataAt), atom 0x08⟩]

/-- MemoryFaultsTrap. -/
theorem witness_MemoryFaultsTrap : ∀ c ∈ memoryFaultCases, ∃ code s x o hdr, c.i.op? = some (code, o) ∧ Runs s x code o hdr
    ∧ c.more s x o = true := all_meet (by decide +kernel)

/-- PagerFaultsPark: a troupe of a launch. -/
theorem witness_PagerFaultsPark : ∃ (s : State) (r : TRef) (launch : Nat) (t : Troupe) (la : Launch), s.troupe? r = some t
    ∧ s.launch? launch = some la := by
  refine ⟨at_ (wd (.nop (op 0 z z 0))), me, 0, (envOf (at_ (wd (.nop (op 0 z z 0))))).t, (envOf (at_ (wd (.nop (op 0 z z 0))))).la, ?_⟩
  decide +kernel

/-! ## The arena -/

/-- A region that is not there, offsets that are misaligned and past the end, an access that a planar region does not take, a
poisoned word, and a collision of rule FAULT. -/
def arenaFaultCases : List Case :=
  let d (x : Env) (o : Op) : DWord := x.b.region (o.c.extractLsb' 0 4).toNat
  let off (o : Op) (x : Env) : Nat → Nat := if o.c.toNat / 2 ^ 4 = 0 then x.t.operand 6 o o.a else ldaAddr o x.t
  let gone (_ : State) (x : Env) (o : Op) : Bool := !rgnV (d x o)
  let odd (_ : State) (x : Env) (o : Op) : Bool := rgnV (d x o) && (lanesSel x o).any (fun l => off o x l % 4 ≠ 0)
  let far (_ : State) (x : Env) (o : Op) : Bool := rgnV (d x o)
    && (lanesSel x o).any (fun l => x.t.readV 3 l = 64 && rgnSize (d x o) = 64)
  let spoilt (_ : State) (x : Env) (o : Op) : Bool := x.b.arenaPoison (rgnBase (d x o)) 4
  let kind (_ : State) (x : Env) (o : Op) : Bool := rgnPlanar (d x o)
  let hits (s : State) (x : Env) (o : Op) : Bool :=
    rgnRule (d x o) = 2 && (staLanes (d x o) (s.seq + 1) x.r.troupe (ldaAddr o x.t) (fun l => bytesOf 4 (x.t.readV o.dst.toNat l).toNat)
      (lanesSel x o) x.b).2.length = 15
  let step (n : Nat) : State → State := vregs 3 (fun l => l * n)
  let spoil : State → State := inBlock (fun b => { b with apoison := [(0, true)] })
  let lda := Instr.lda (op 4 (v 3) (im 0) 0xC0)
  let sta := Instr.sta (op 4 (v 3) (im 0) 0xC0)
  let ldab := Instr.ldab (op 4 (v 3) (v 5) 0x180)
  let stab := Instr.stab (op 4 (v 3) (v 5) 0x180)
  let atoma := Instr.atoma (op 4 (v 3) (v 5) 0xA0)
  let on : State → State := also (region 0 (flat 0 64)) (vregs 5 (fun l => 32 + l / 8))
  [⟨lda, step 4, gone⟩, ⟨lda, also on (step 2), odd⟩, ⟨lda, also on (vregs 3 (fun l => if l = 9 then 64 else 0)), far⟩,
    ⟨lda, also on (also (step 4) spoil), spoilt⟩, ⟨sta, step 4, gone⟩, ⟨sta, also on (vregs 3 (fun l => if l = 15 then 64 else 4 * l)), far⟩,
    ⟨sta, also (region 0 (planar 0 64 0 0)) (step 4), fun s x o => kind s x o && memWidth (memType o.c) = rgnWord (d x o)⟩,
    ⟨.sta (op 4 (v 3) (im 0) 0xE0), also (region 0 (planar 0 64 0 0)) (step 0), fun s x o => kind s x o && memWidth (memType o.c) ≠ rgnWord (d x o)⟩,
    ⟨sta, also (region 0 (planar 0 64 0 2)) (step 0), hits⟩,
    ⟨ldab, step 4, gone⟩, ⟨ldab, also on (step 2), odd⟩, ⟨ldab, also on (also (step 0) spoil), spoilt⟩,
    ⟨stab, also on (step 1), odd⟩, ⟨stab, also (region 0 (planar 0 64 0 0)) (step 0), kind⟩,
    ⟨atoma, step 0, gone⟩, ⟨atoma, also (region 0 (planar 0 64 0 0)) (step 0), kind⟩, ⟨atoma, also on (also (step 0) spoil), spoilt⟩]

/-- ArenaFaultsTrap. -/
theorem witness_ArenaFaultsTrap : ∀ c ∈ arenaFaultCases, ∃ code s x o hdr, c.i.op? = some (code, o) ∧ Runs s x code o hdr
    ∧ c.more s x o = true := all_meet (by decide +kernel)

/-! ## The matrix instructions -/

/-- The troupe has issued 64 act-stream instructions. -/
def far : State → State := inBlock (fun b => { b with since := sset 0 b.since 0 64 })

/-- No act; a tile that is not the act's; columns past the end of a tile, and more of K than a step covers; a lane that is not
active; registers that are not there; patterns past the end; the 65th instruction; the reasons of MCONV, MDISB and ACCLD. -/
def matrixTrapCases : List Case :=
  let out (_ : State) (x : Env) (_ : Op) : Bool := (x.b.seat x.r.troupe).isNone
  let part (_ : State) (x : Env) (_ : Op) : Bool := (x.b.seat x.r.troupe).isSome && x.t.active ≠ x.t.live
  let late (code : Nat) (_ : State) (x : Env) (o : Op) : Bool := stepShape code o x = none && sget 0 x.b.since x.r.troupe = 64
  let shape (code : Nat) (r : Nat) (_ : State) (x : Env) (o : Op) : Bool := stepShape code o x = some r
  let on (f : State → State) : State → State := also (member []) (also (region 0 (flat 0 8192)) (also (region 2 (flat 8192 8192)) f))
  let mma (d : Nat) (ctl : Nat) := Instr.mma (op d (v 64) (r 10) 0x1800 (some ctl))
  let cut : State → State := headMask 0xFF
  let loop (prog : Nat) : State → State := inTroupe (fun t => { t with rm := some 1, prog := BitVec.ofNat 32 prog })
  let dissolved : State → State := inBlock (fun b => { b with acts := [⟨[⟨0, false, [], true⟩], 16, 3, 0, [], [Batch.fresh], some (0, 1), true⟩] })
  let conv (r : Nat) (_ : State) (x : Env) (o : Op) : Bool := convShape o x = some r
  [⟨mma 0 0x801CC, id, shape 0x163 1⟩, ⟨mma 0 0x801CC, also (on id) (inBlock (fun b => { b with pend := [⟨0, 1, 0xFFFE, false, []⟩] })), shape 0x163 2⟩,
    ⟨mma 0 0x801CC, on cut, shape 0x163 4⟩, ⟨.mma (op 0 (v 250) (r 10) 0x1800 ctl), on (inTroupe (fun t => { t with nregs := 255 })), shape 0x163 7⟩,
    ⟨mma 0 0x801CC, on far, late 0x163⟩, ⟨.mmaSp (op 0 (v 64) (r 10) 0x1800 ctl), id, shape 0x164 1⟩,
    ⟨.mmaSp (op 0 (v 64) (r 10) 0x1800 ctl), on (inBlock (fun b => { b with patSize := 0 })), shape 0x164 9⟩,
    ⟨.mmaG (op 0 (v 8) (r 10) 0x1800 ctl), id, shape 0x165 1⟩, ⟨.mmaG (op 0 (v 8) (r 10) 0x1800 ctl), on far, late 0x165⟩,
    ⟨.mloop (op 0x10 (r 4) (r 6) 0x1800 ctl), loop 1, shape 0x166 1⟩, ⟨.mloop (op 0x10 (r 4) (r 6) 0x1800 ctl), on far, late 0x166⟩,
    ⟨.accz (op 1 z z 0), id, out⟩, ⟨.accz (op 1 z z 0), on far, fun _ x _ => 64 ≤ sget 0 x.b.since 0⟩,
    ⟨.accst (op 1 (r 2) (r 4) 0x1800 (some 0xB)), id, out⟩, ⟨.accst (op 1 (r 2) (r 4) 0x1800 (some 0xB)), on cut, part⟩,
    ⟨.patld (op 0 (r 2) (r 4) 0x828), id, out⟩, ⟨.patld (op 0 (r 2) (r 4) 0x828), on id, fun _ x o => (x.t.readS o.srcC.num.toNat).toNat = 0⟩,
    ⟨.mcommit (op 0 z z 0), id, out⟩, ⟨.mcommit (op 0 z z 0), on cut, part⟩,
    ⟨.mconv (op 0 (r 2) (im 1) 0), also (saddr 2 1) cut, conv 4⟩, ⟨.mconv (op 0 (r 2) (im 1) 0), saddr 2 2, conv 5⟩,
    ⟨.mconv (op 0 (r 2) (im 1) 0), also (saddr 2 1) (member []), conv 5⟩, ⟨.mconv (op 0 (r 2) (im 1) 0), also (saddr 2 1) (joined [Batch.fresh] none), conv 5⟩,
    ⟨.mconv (op 0 (r 2) (im 0) 0), saddr 2 1, conv 6⟩,
    ⟨.mdisb (op 0 z z 0), id, out⟩, ⟨.mdisb (op 0 z z 0), dissolved, fun _ x _ => (x.b.seat 0).isSome⟩,
    ⟨.mdisb (op 0 z z 0), also (joined [Batch.fresh] none) cut, part⟩,
    ⟨.mdisb (op 0 z z 0), inBlock (fun b => { b with acts := [⟨[⟨0, false, [], true⟩], 16, 3, 0, [], [Batch.fresh], none, false⟩] }), fun _ x _ => (x.b.seat 0).isSome⟩,
    ⟨.accld (op 8 (r 3) z 0x161), sregs [(3, 128)], fun _ x o => accldShape o x 128 = some 8⟩,
    ⟨.accld (op 250 (r 3) z 0x161), also (inTroupe (fun t => { t with nregs := 255 })) (sregs [(3, 31 * 2 ^ 8)]), fun _ x o => accldShape o x (31 * 2 ^ 8) = some 7⟩]

/-- MatrixInstructionsTrap. -/
theorem witness_MatrixInstructionsTrap : ∀ c ∈ matrixTrapCases, ∃ code s x o hdr, c.i.op? = some (code, o) ∧ Runs s x code o hdr
    ∧ c.more s x o = true := all_meet (by decide +kernel)

/-- A block in which troupe 0 and troupe 1 are the members of an act. -/
def actBlock (ms : List Member) (bs : List Batch) (bad : Option (Nat × Nat)) : Block :=
  { startBlock 0 [] [] 0 0 0 with acts := [⟨ms, 16, 3, 9, [], bs, bad, false⟩] }

/-- MwaitReports: a failed MCONV, each reason with another member that is to hear of it too, waiting for entries and for batches,
completing, and the errors of a batch. -/
theorem witness_MwaitReports :
    (∃ b : Block, b.actErr.find? (fun e => e.1 = 0) = some (0, 2, 0xFFFFFFFF))
    ∧ (∀ c ∈ [(([⟨0, false, [acczInsn], true⟩, ⟨1, false, [acczInsn], true⟩] : List Member), [Batch.fresh], some (9, 1)),
        ([⟨0, false, [acczInsn], true⟩, ⟨1, false, [acczInsn], true⟩, ⟨2, true, [], true⟩], [Batch.fresh], some (9, 3)),
        ([⟨0, false, [], true⟩], [Batch.fresh], some (9, 3)), ([⟨0, false, [acczInsn], true⟩], [Batch.fresh], none),
        ([⟨0, false, [], true⟩], [⟨1, 0, true, none, [], 1, [], []⟩, Batch.fresh], none), ([⟨0, false, [], true⟩], [Batch.fresh], none),
        ([⟨0, false, [], true⟩], [⟨1, 1, true, some (.pattern 64 255 4), [], 1, [], []⟩, Batch.fresh], none),
        ([⟨0, false, [], true⟩], [⟨1, 1, true, some (.poison 64 15 255), [], 1, [], []⟩, Batch.fresh], none)],
      let b := actBlock c.1 c.2.1 c.2.2
      (∀ e ∈ b.actErr, e.1 ≠ 0) ∧ b.pending? 0 = none ∧ b.actOf 0 = some 0 ∧ ∃ a m, b.acts[0]? = some a ∧ a.member? 0 = some m) := by
  refine ⟨⟨{ startBlock 0 [] [] 0 0 0 with actErr := [(0, 2, 0xFFFFFFFF)] }, by decide⟩, ?_⟩
  intro c hc
  simp only [List.mem_cons, List.not_mem_nil, or_false] at hc
  rcases hc with rfl | rfl | rfl | rfl | rfl | rfl | rfl | rfl <;> exact ⟨by decide, rfl, rfl, _, _, rfl, rfl⟩

/-! ## Transaction barriers and tags -/

/-- Each error bit; the ends of the counts; every reason of a tag. -/
def barrierTrapCases : List Case :=
  let bar (b : Barrier) (ok : Nat → Barrier → Bool) (s : State) (x : Env) (o : Op) : Bool := match s.findBarrier o x with
    | .ok (p, s1) => s1.readBarrier p = b && ok (x.t.operand 6 o o.b 0) b
    | _ => false
  let at_ (i : Instr) (n : Nat) (b : Barrier) (ok : Nat → Barrier → Bool) : Case :=
    ⟨i, also (saddr 2 dataAt) (also (sregs [(5, n)]) (store dataAt 16 b.toNat)), bar b ok⟩
  let b0 : Barrier := ⟨3, 2, 5, 9, 0, 0⟩
  let failed (n : Nat) (b : Barrier) : Bool := b.phase ≠ n % 16 && b.err &&& 0b1011 ≠ 0
  let tags (g : Tag) : State → State := inCluster (fun cl => { cl with tags := cl.tags.set 7 g })
  let tag (x : Env) : Tag := (x.cl.tags[7]?).getD ⟨0, 0, [], []⟩
  let two : State → State := inBlock (fun b => { b with troupes := b.troupes ++ b.troupes })
  [at_ (.tbwait (op 0 (r 2) (r 5) 0)) 4 { b0 with err := 1 } failed, at_ (.tbtest (op 1 (r 2) (r 5) 0)) 4 { b0 with err := 8 } failed,
    at_ (.tbwait (op 0 (r 2) (r 5) 0)) 2 { b0 with err := 2 } failed,
    at_ (.tbinit (op 0 (r 2) (r 5) 0)) 0 b0 (fun n _ => n = 0), at_ (.tbinit (op 0 (r 2) (r 5) 0)) (2 ^ 20) b0 (fun n _ => n = 2 ^ 20),
    at_ (.tbexpect (op 0 (r 2) (r 5) 0)) (2 ^ 32 - 5) b0 (fun n b => b.sec + n = 2 ^ 32),
    at_ (.tbarrive (op 4 (r 2) (r 5) 0)) 3 b0 (fun n b => n = b.arv + 1), at_ (.tbarrive (op 4 (r 2) (r 5) 0x20)) 6 b0 (fun n b => n = b.sec + 1),
    at_ (.tbarrive (op 4 (r 2) (r 5) 0)) 0 { b0 with arv := 0 } (fun n b => b.arv < max n 1),
    ⟨.bara (op 0 z (im 0) 7), id, fun _ x o => x.t.operand 6 o o.b 0 = 0⟩, ⟨.bara (op 0 z (im 2) 7), id, fun _ x o => x.cl.troupeCount < x.t.operand 6 o o.b 0⟩,
    ⟨.bara (op 0 z (im 1) 7), tags ⟨0, 1, [0], []⟩, fun _ x _ => (tag x).arv.contains 0 && !(tag x).done.contains 0⟩,
    ⟨.bara (op 0 z (im 1) 7), headMask 0xFF, fun _ x _ => x.t.active ≠ x.t.live⟩,
    ⟨.bara (op 0 z (im 1) 7), also two (tags ⟨1, 2, [1], []⟩), fun _ x o => (tag x).count ≠ 0 && x.t.operand 6 o o.b 0 ≠ (tag x).total⟩,
    ⟨.barw (op 0 z z 7), id, fun _ x _ => !(tag x).arv.contains 0⟩,
    ⟨.barw (op 0 z z 7), also (headMask 0xFF) (tags ⟨1, 2, [0], []⟩), fun _ x _ => (tag x).arv.contains 0 && x.t.active ≠ x.t.live⟩]

/-- BarrierTraps. -/
theorem witness_BarrierTraps : ∀ c ∈ barrierTrapCases, ∃ code s x o hdr, c.i.op? = some (code, o) ∧ Runs s x code o hdr
    ∧ c.more s x o = true := all_meet (by decide +kernel)

end Sys2Proof.Tests
end

