-- ==== Sys2Proof/Tests/Parts.lean ====
section
/-! SUPPORT. For each clause of a statement about values, fall-throughs that fail, faulting blocks, turns, acts, matrix operands and
copies, values or a state and a word that meet its hypotheses together. -/

namespace Sys2Proof.Tests

set_option Elab.async false

open Sys2Proof.Machine Sys2Proof.Claims Sys2Proof.Lab

/-! ## Values -/

/-- AtomicValues: the two signed and the two unsigned integer types. -/
theorem witness_AtomicValues : ∀ c ∈ [(5, 32), (6, 32), (7, 64), (8, 64)],
    ((c.1 = 5 ∨ c.1 = 6) ∧ c.2 = 32) ∨ ((c.1 = 7 ∨ c.1 = 8) ∧ c.2 = 64) := by decide

/-- One of a value, under no rounding of its own. -/
def ones (vs : List FVal) : List (FVal × Rnd) := vs.map (fun v => (v, Rnd.rne))

/-- BlockValues: a NaN, no value but zero, an infinity, a largest magnitude among others and alone at either end of the exponents;
scales that are NaN and that are not; elements that are NaN, infinite and finite; the maximum of lists with NaN, infinity and
neither. -/
theorem witness_BlockValues :
    (Fmt.e4m3.isMx = true ∧ Fmt.e5m2.isMx = true)
    ∧ (∃ v ∈ ones [.fin false 1 0, .nan], v.1.isNan = true)
    ∧ (∀ vs ∈ [ones [.fin true 0 5], ones [.fin false 1 0, .inf true], ones [.fin false 3 (-2), .fin true 7 (-1)], ones [.fin true 1 300],
        ones [.fin false 1 (-300)]], ∀ v ∈ vs, v.1.isNan = false)
    ∧ (∀ v ∈ ones [.fin true 0 5], v.1.isZero = true) ∧ (∃ v ∈ ones [.fin false 1 0, .inf true], v.1.isInf = true)
    ∧ (∀ c ∈ [((7, -1), ones [.fin false 3 (-2), .fin true 7 (-1)]), ((1, 300), ones [.fin true 1 300]), ((1, -300), ones [.fin false 1 (-300)])],
      c.1.1 ≠ 0 ∧ ((FVal.fin true c.1.1 c.1.2, Rnd.rne) ∈ c.2 ∨ (FVal.fin false c.1.1 c.1.2, Rnd.rne) ∈ c.2)
        ∧ ∀ v ∈ c.2, v.1.isInf = false ∧ decide (((⟨c.1.1, c.1.2⟩ : Dy).add v.1.abs.dy.neg).n < 0) = false)
    ∧ (isNanF .e4m3 0x7F = true ∧ isNanF .e4m3 0x7E = false ∧ (0x7F : Nat) < 2 ^ Fmt.e4m3.bits)
    ∧ (decodeF .e4m3 0x7F).isNan = true ∧ decodeF .e5m2 0x7C = .inf false ∧ (∃ m e, decodeF .e5m2 0x7B = .fin false m e)
    ∧ (∀ c ∈ [0xFF800001, 0x7F800000, 0xFF7FFFFF, 0x80000001], c < 2 ^ Fmt.fp32.bits)
    ∧ isNanF .fp32 0xFF800001 = true ∧ (∀ c ∈ [0x7F800000, 0xFF7FFFFF], isNanF .fp32 c = false) ∧ (decodeF .fp32 0x7F800000).isInf = true
    ∧ ∀ c ∈ [0xFF7FFFFF, 0x80000001], isNanF .fp32 c = false ∧ (decodeF .fp32 c).isInf = false := by
  refine ⟨by decide, by decide, by decide, by decide, by decide, by decide, by decide, by decide, by decide, ⟨7, 13, by decide⟩, by decide, by decide,
    by decide, by decide, by decide⟩

/-- DotValues: NaN scales; a NaN on each side; a NaN accumulator; an infinity by zero; infinite products of both signs and of one,
against an infinite accumulator too; none, with sums that are zero and that are not. -/
theorem witness_DotValues :
    let a (d : DotElem) : FVal := decodeF .e5m2 d.a
    let b (d : DotElem) : FVal := decodeF .e5m2 d.b
    let plain (es : List DotElem) : Bool := es.all (fun d => !(a d).isNan && !(b d).isNan)
    let clash (d : DotElem) : Bool := ((a d).isInf && (b d).isZero) || ((a d).isZero && (b d).isInf)
    let inf (s : Bool) (es : List DotElem) : Bool := es.any (fun d => ((a d).isInf || (b d).isInf) && Bool.xor (a d).isNeg (b d).isNeg == s)
    let free (es : List DotElem) : Bool := plain es && es.all (fun d => !clash d)
    let e (x y : Nat) : DotElem := ⟨x, y, 127⟩
    (0xFF ∈ [0x7F, 0xFF]) ∧ (a (e 0x7F 0)).isNan = true ∧ ((a (e 0 0x7F)).isNan = false ∧ (b (e 0 0x7F)).isNan = true)
      ∧ (decodeF .fp32 0x7F800001).isNan = true ∧ (plain [e 0x3C 0x3C] ∧ plain [e 0x7C 0] ∧ clash (e 0x7C 0) ∧ clash (e 0 0xFC))
      ∧ (free [e 0x7C 0x3C, e 0xFC 0x3C] ∧ inf true [e 0x7C 0x3C, e 0xFC 0x3C] ∧ inf false [e 0x7C 0x3C, e 0xFC 0x3C])
      ∧ (free [e 0x7C 0x3C] ∧ inf false [e 0x7C 0x3C] ∧ !inf true [e 0x7C 0x3C] ∧ decodeF .fp32 0xFF800000 = .inf true)
      ∧ (free [e 0x3C 0x3C, e 0x3C 0xBC] ∧ !inf true [e 0x3C 0x3C, e 0x3C 0xBC] ∧ !inf false [e 0x3C 0x3C, e 0x3C 0xBC]
        ∧ ((a (e 0x3C 0x3C)).dy.mul (b (e 0x3C 0x3C)).dy).n ≠ 0
        ∧ (((a (e 0x3C 0x3C)).dy.mul (b (e 0x3C 0x3C)).dy).add ((a (e 0x3C 0xBC)).dy.mul (b (e 0x3C 0xBC)).dy)).n = 0) := by
  decide +kernel

/-- CombinedValues: NaN after a number, infinities of one sign and of both, numbers that cancel and that do not. -/
theorem witness_CombinedValues :
    let v (x : Nat) : FVal := decodeF .fp32 x
    (∀ x ∈ [0x7FFFFFFF, 0x80000000, 0xFFFFFFFF, 0xFF800001, 0x7F800000, 0xFF800000, 0x3F800000, 0xBF800000], x < 2 ^ 32)
      ∧ (v 0x3F800000).isNan = false ∧ (v 0xFF800001).isNan = true ∧ v 0x7F800000 = .inf false ∧ v 0xFF800000 = .inf true
      ∧ (∀ x ∈ [0x3F800000, 0xBF800000, 0], (v x).isNan = false ∧ (v x).isInf = false)
      ∧ ((v 0x3F800000).dy.add (v 0xBF800000).dy).n = 0 ∧ (v 0x3F800000).dy.n ≠ 0 := by
  decide +kernel

/-- ComparedAndClampedValues: each kind of value on each side, numbers with and without a fraction, integers at the bound. -/
theorem witness_ComparedAndClampedValues :
    (∀ x ∈ [0x7FFFFFFF, 0x7F800000, 0xFF800000, 0x4B800000, 0xBF000000], x < 2 ^ 32)
    ∧ (decodeF .fp32 0x7FFFFFFF).isNan = true ∧ decodeF .fp32 0x7F800000 = .inf false ∧ decodeF .fp32 0xFF800000 = .inf true
    ∧ (∃ m i, decodeF .fp32 0x4B800000 = .fin false m i ∧ 0 ≤ i) ∧ (∃ m i, decodeF .fp32 0xBF000000 = .fin true m i ∧ i < 0)
    ∧ (-2147483648 : Int) ≤ 2147483647 ∧ ((2 ^ 24 - 1 : Int)).natAbs < 2 ^ 24 :=
  ⟨by decide, by decide, by decide, by decide, ⟨2 ^ 23, 1, by decide⟩, ⟨2 ^ 23, -24, by decide⟩, by decide, by decide⟩

/-- ConvertedValues: numbers, infinities and NaNs of the formats that have them, and the NaN of E4M3. -/
theorem witness_ConvertedValues :
    (∀ S ∈ [Fmt.fp32, Fmt.fp16, Fmt.bf16, Fmt.e5m2], S.hasInf = true ∧ ∃ c, c < 2 ^ S.bits ∧ decodeF S c = .inf false)
    ∧ (∀ c ∈ [(Fmt.fp32, 0xFFC00001), (.fp16, 0x7E01), (.bf16, 0xFFC1), (.e5m2, 0x7F), (.e4m3, 0xFF)],
      c.2 < 2 ^ c.1.bits ∧ (c.1.hasInf = true ∨ c.1 = .e4m3) ∧ (decodeF c.1 c.2).isNan = true)
    ∧ ∃ m e, decodeF .e4m3 0x7E = .fin false m e := by
  refine ⟨fun S hS => ?_, by decide, ⟨14, 5, by decide⟩⟩
  simp only [List.mem_cons, List.not_mem_nil, or_false] at hS
  rcases hS with rfl | rfl | rfl | rfl
  · exact ⟨rfl, 0x7F800000, by decide, by decide⟩
  · exact ⟨rfl, 0x7C00, by decide, by decide⟩
  · exact ⟨rfl, 0x7F80, by decide, by decide⟩
  · exact ⟨rfl, 0x7C, by decide, by decide⟩

/-- StepValues and RowValues: lists of one length, blocks of as many codes, a NaN accumulator, and a block of B for each block of a
span at the end of the list; codes below 2^32. -/
theorem witness_StepAndRowValues :
    (∃ as bs : List KBlock, as ≠ [] ∧ as.length = bs.length ∧ ∀ c ∈ as, ∀ d ∈ bs, c.codes.length = d.codes.length)
    ∧ isNanF .fp32 0xFFFFFFFF = true ∧ (∃ (kb g n : Nat) (bs : List KBlock), g / n = 2 ∧ (kb + 1) * (g / n) = bs.length)
    ∧ ∃ x : Nat → Nat, (∀ c, x c < 2 ^ 32) ∧ x 255 = 2 ^ 32 - 1 :=
  ⟨⟨[⟨[1, 2], 0x7F⟩], [⟨[3, 4], 0x7F⟩], by decide⟩, by decide,
    ⟨1, 8, 4, List.replicate 4 ⟨[1, 2], 0x7F⟩, by decide⟩, ⟨fun _ => 2 ^ 32 - 1, fun _ => Nat.sub_lt (by decide) (by decide), rfl⟩⟩

/-! ## Fall-throughs that fail -/

/-- What follows the word is no header. -/
def noHeader (s : State) : State := { store (codeAt + 16) 8 0 (store (codeAt + 8) 8 0 s) with frames := s.frames }

/-- The word falls through to what fails the check. -/
def fallsBad (c : Case) : Bool :=
  let s := c.change (noHeader (at_ (wd c.i)))
  match c.i.op? with
  | some (code, o) =>
    let x := envOf s
    o.wf code && decide (s.env? = some x) && decide (x.t.active ≠ 0) && decide (opTrap code o x = none) && decide (x.t.rm ≠ some 0)
      && (match s.fallCheck x (fallLanes code o x) with
        | .bad _ => true
        | _ => false)
      && c.more s x o
  | none => false

/-- A cross-lane op, an SFU op with an entry free, EXIT with lanes that fall through, YIELD, NOP, LD and ST whose body is done. -/
def fallCases : List Case :=
  let done (f : Op → Env → State → Res) (s : State) (x : Env) (o : Op) : Bool := match f o x s with
    | .done _ => true
    | _ => false
  [⟨.add (op 9 (v 10) (v 11) 0), id, fun _ _ _ => true⟩, ⟨.rcp (op 9 (v 10) z 0), id, fun _ x _ => x.t.sfuEntries < 8⟩,
    ⟨.exit (Op.p0 (op 0 z z 0)), preg 0 0x7FFF, fun _ x _ => x.t.frontier ≠ []⟩, ⟨.yieldRun (op 0 z z 0), id, fun _ _ _ => true⟩,
    ⟨.nop (op 0 z z 0), id, fun _ _ _ => true⟩, ⟨.ld (op 4 (r 2) (v 3) 0xC0), strided 4, done ldBody⟩,
    ⟨.st (op 4 (r 2) (v 3) 0xC0), strided 4, done stBody⟩]

/-- FallThroughsThatFail, and ExitEndsLanes of lanes that fall to such a place; and a pair word before one. -/
theorem witness_FallThroughsThatFail : fallCases.all fallsBad = true
    ∧ (let s := noHeader (pairIn true)
       let x := envOf s
       let p : Pair := ⟨false, ⟨.add, 1, 2, 3⟩, ⟨.fmul, 4, 5, 8⟩⟩
       s.env? = some x ∧ x.t.active ≠ 0 ∧ x.t.run.words + x.c.len ≤ 24 ∧ pairNeed p ≤ x.t.nregs
        ∧ (match s.fallCheck x x.t.active with
          | .bad _ => true
          | _ => false) = true) := by
  decide +kernel

/-! ## Faulting blocks -/

/-- LDB, LDSC and STB: a lead that is at no block of its line, in a page that nothing maps, in a plain page, and poisoned codes and
scales, one of the blocks being whole. -/
def blockFaultCases : List Case :=
  let T := fmtOf 13
  let reqs (x : Env) (o : Op) : List BlockReq := blockReqs o x.t (x.t.selected o.guard)
  let none_ (s : State) : Bool := s.l1.all (fun e => match e.2 with
    | .dirty _ => false
    | _ => true)
  let found (acc : Access) (s : State) (x : Env) (o : Op) : List BlockAt := (reqs x o).filterMap (fun q => match reachBlock o acc x s q with
    | .ok b => some b
    | _ => none)
  let room (acc : Access) (s : State) (x : Env) (o : Op) : Bool := fnType o.c = 12 && none_ s && (s.takeEntries x.core ((found acc s x o).map
    (fun b => (pointOf (opPolicy o) (opScope o) b.leaf, b.key, (fmtOf (blockType o)).blockBytes)))).isSome
  let odd (acc : Access) (s : State) (x : Env) (o : Op) : Bool := room acc s x o && (reqs x o).any (fun q =>
    q.va % 256 % T.blockBytes ≠ 0 || lineBlocks T ≤ q.va % 256 / T.blockBytes)
  let bad (acc : Access) (cause : Nat) (s : State) (x : Env) (o : Op) : Bool := room acc s x o && (reqs x o).any (fun q =>
    q.va % 256 % T.blockBytes = 0 && q.va % 256 / T.blockBytes < lineBlocks T
      && (match s.checkAccess x.core x.ctx acc (.typed (fmtOf (blockType o)).pageFmt) 1 q.va (pageChoice q.va) with
        | .error f => f.cause = cause
        | _ => false))
  let codes (s : State) (x : Env) (o : Op) : Bool := room .load s x o && (found .load s x o).length = 2
    && (found .load s x o).any (fun b => b.req.lanes.any (fun l => s.poisonAny x.core (atL1 (opPolicy o) (opScope o) b.leaf) (b.laneKey (blockType o) l) 4))
  let scale (s : State) (x : Env) (o : Op) : Bool := room .load s x o
    && (found .load s x o).any (fun b => s.scalePoison b.key 32 && s.poisonAny x.core (atL1 (opPolicy o) (opScope o) b.leaf) b.key 32)
  let two (a : Nat) : State → State := also (saddr 2 a) (vregs 3 (fun l => l / 8 * 64))
  let ldb := Instr.ldb (op 6 (r 2) (v 3) 0x180)
  let ldsc := Instr.ldsc (op 6 (r 2) (v 3) 0x180)
  let stb := Instr.stb (op 6 (r 2) (v 3) 0x180)
  [⟨ldb, two (typedAt + 8), odd .load⟩, ⟨ldb, two (hole - 64), bad .load 0x08⟩, ⟨ldb, two dataAt, bad .load 0x0B⟩,
    ⟨ldb, also (two typedAt) (poisoned (typedAt + 64)), codes⟩,
    ⟨ldsc, two (hole - 64), bad .load 0x08⟩,
    ⟨ldsc, also (two typedAt) (fun s => { (s.poisonSector typedAt) with sidePoison := sset false s.sidePoison (typedAt / 64) true }), scale⟩,
    ⟨stb, two (typedAt + 8), odd .store⟩, ⟨stb, two (hole - 64), bad .store 0x08⟩]

/-- BlockFaultsTrap. -/
theorem witness_BlockFaultsTrap : ∀ c ∈ blockFaultCases, ∃ code s x o hdr, c.i.op? = some (code, o) ∧ Runs s x code o hdr
    ∧ c.more s x o = true := all_meet (by decide +kernel)

/-! ## Turns that trap -/

/-- Reasons 16 to 19, the last of the regions for 18; a pending turn of these troupes with another mask, and one that shares a
troupe, at which the second troupe waits. -/
def turnTrapCases : List Case :=
  let two (us : List Turn) : State → State := inBlock (fun b => { b with
    turns := us, troupes := b.troupes ++ (b.troupes.map (fun t => { t with status := .waiting .turn (.turn (op 0 z z 0)) ⟨me, 0, 0, 0, 1, true⟩ })) })
  let checks (x : Env) (o : Op) : List (Bool × Nat) :=
    let g : BitVec 64 := x.t.rawPair o.a 0
    let m := x.t.operand 6 o o.b 0
    let m16 : BitVec 16 := BitVec.ofNat 16 m
    [(!g.getLsbD x.r.troupe, 16), (decide (2 ^ x.b.troupes.length ≤ g.toNat) || decide (2 ^ 16 ≤ m), 17)]
      ++ (List.range 16).map (fun r => (m16.getLsbD r && !(rgnV (x.b.region r) && rgnPlanar (x.b.region r)), 18))
      ++ [(decide (x.t.active ≠ x.t.launched &&& ~~~x.t.exited), 19)]
  let reason (n : Nat) (_ : State) (x : Env) (o : Op) : Bool := ((checks x o).find? (·.1)).map (·.2) = some n
  let clear (x : Env) (o : Op) : Bool := ((checks x o).find? (·.1)).isNone
  let other (_ : State) (x : Env) (o : Op) : Bool :=
    let g : BitVec 64 := x.t.rawPair o.a 0
    clear x o && (x.b.turns.find? (fun u => u.g = g && u.m ≠ BitVec.ofNat 16 (x.t.operand 6 o o.b 0))).any (fun u => u.arrived.getLsbD 1)
  let meets (_ : State) (x : Env) (o : Op) : Bool :=
    let g : BitVec 64 := x.t.rawPair o.a 0
    let m16 : BitVec 16 := BitVec.ofNat 16 (x.t.operand 6 o o.b 0)
    clear x o && x.b.turns.all (fun u => u.g ≠ g || u.m = m16)
      && x.b.turns.any (fun u => (u.g &&& g ≠ 0 || u.m &&& m16 ≠ 0) && u.arrived.getLsbD 1)
  let on (g m : Nat) (us : List Turn) : State → State :=
    also (two us) (also (saddr 2 g) (also (sregs [(5, m)]) (also (region 0 (planar 0 64 1 1)) (region 15 (planar 128 64 0 0)))))
  let word := Instr.turn (op 0 (r 2) (r 5) 0)
  [⟨word, on 2 1 [], reason 16⟩, ⟨word, on 5 1 [], reason 17⟩, ⟨word, on 3 0x10000 [], reason 17⟩, ⟨word, on 3 0x4001 [], reason 18⟩,
    ⟨word, also (on 3 0x8001 []) (headMask 0xFF), reason 19⟩, ⟨word, on 3 0x8001 [⟨3, 1, 2⟩], other⟩, ⟨word, on 1 0x8001 [⟨2, 1, 2⟩], meets⟩]

/-- TurnTraps. -/
theorem witness_TurnTraps : ∀ c ∈ turnTrapCases, ∃ code s x o hdr, c.i.op? = some (code, o) ∧ Runs s x code o hdr
    ∧ c.more s x o = true := all_meet (by decide +kernel)

/-! ## Acts -/

/-- A block whose troupes 0 and 1 have pending MCONVs, of the masks and tiles given. -/
def pendBlock (ps : List (Nat × Nat)) (acts : List MAct) : Block :=
  { startBlock 0 [] [] 0 0 0 with
    acts := acts
    pend := (ps.zip (List.range ps.length)).map (fun p => ⟨p.2, BitVec.ofNat 64 p.1.1, BitVec.ofNat 16 p.1.2, false, []⟩) }

/-- ActsForm: none that is whole; two that agree, with a tile of another act; two that differ. -/
theorem witness_ActsForm :
    let whole (b : Block) (t : Nat) : Bool := (b.pending? t).any (fun p => p.gmask.getLsbD t
      && (List.range 64).all (fun u => !p.gmask.getLsbD u || (b.pending? u).isSome))
    let none_ := pendBlock [(7, 3), (7, 3)] []
    let same := pendBlock [(3, 3), (3, 3)] [actOf2 [] []]
    let differ := pendBlock [(3, 3), (3, 1)] []
    (List.range 64).all (fun t => !whole none_ t) ∧ whole same 0 ∧ (∀ p ∈ same.pend, p.gmask = 3 ∧ p.tiles = 3 ∧ p.rows32 = false)
      ∧ whole differ 0 ∧ (differ.pending? 1).map (·.tiles) ≠ (differ.pending? 0).map (·.tiles) := by
  decide +kernel

/-- ActsAreLeft: a member of an act beside one with an unmatched instruction, one of an act that has stopped, and none; a pending
MCONV of another troupe that names it. -/
theorem witness_ActsAreLeft :
    let b := pendBlock [(3, 3), (3, 3)] [actOf2 [] [acczInsn]]
    let stopped := pendBlock [] [{ actOf2 [] [] with bad := some (1, 1) }]
    (∀ c ∈ [b, stopped], c.actOf 0 = some 0 ∧ ((c.acts[0]?).bind (fun a => a.member? 0)).isSome = true ∧ c.brokenTiles = 0)
      ∧ (pendBlock [] []).actOf 0 = none ∧ b.pend.any (fun p => p.gmask.getLsbD 0 && p.troupe ≠ 0) = true := by
  decide +kernel

/-! ## Matrix operands -/

/-- A misaligned A table, B panel and pattern; operand regions that are not there and that are too small; of the second step of an
MLOOP; index lanes beyond the region; ACCST to the arena and to memory; PATLD. -/
def matrixOperandCases : List Case :=
  let on (f : State → State) : State → State := also (member []) (also (region 0 (flat 0 8192)) (also (region 2 (flat 8192 8192)) f))
  let none_ (f : State → State) : State → State := also (member []) f
  let ahead (x : Env) : Bool := sget 0 x.b.since x.r.troupe < 64
  let step (code k : Nat) (al va ok : Bool) (_ : State) (x : Env) (o : Op) : Bool :=
    let rs := stepRanges code o x k
    stepShape code o x = none && ahead x && (stepAlign code o x k).isSome == al
      && (al || (rs.all (fun g => rgnV (x.b.region g.1)) == va && (!va || (rangeTrap x rs).isNone == ok)))
  let g (al va : Bool) (bad : Nat) (past : Bool) (_ : State) (x : Env) (o : Op) : Bool :=
    let c := stepCtl o
    stepShape 0x165 o x = none && ahead x && (stepAlign 0x165 o x 0).isSome == al
      && (al || ((rgnV (x.b.region c.ra) && rgnV (x.b.region c.rb)) == va && (!va || ((gOutside o x).length = bad
        && decide (rgnSize (x.b.region c.rb) < (x.t.readS o.b.num.toNat).toNat + panelBytes c.tb c.n (stepKbB 0x165 o)) == past))))
  let accst (glob : Bool) (k : State → Env → Op → Bool) (s : State) (x : Env) (o : Op) : Bool :=
    let w := accstWindow (x.t.readS o.b.num.toNat).toNat
    ahead x && notMember x = none && badTile x (o.dst.toNat % 16) = none && partialEntry x = none && w.row + w.rows ≤ 128
      && w.col + w.cols ≤ 256 && accstGlobal o = glob && k s x o
  let patld (k : State → Env → Op → Bool) (s : State) (x : Env) (o : Op) : Bool :=
    let n := (x.t.readS o.srcC.num.toNat).toNat
    ahead x && notMember x = none && partialEntry x = none && n ≠ 0 && (x.t.readS o.b.num.toNat).toNat + n ≤ x.b.patSize && k s x o
  let va (x : Env) (o : Op) : Nat := (x.t.rawPair o.a 0).toNat
  let mt := Instr.mma (op 15 (r 9) (r 10) 0x1800 ctl)
  let mv := Instr.mma (op 0 (v 64) (r 10) 0x1800 ctl)
  let sp := Instr.mmaSp (op 0 (v 64) (r 10) 0x1800 ctl)
  let mg := Instr.mmaG (op 0 (v 8) (r 10) 0x1800 ctl)
  let ml := Instr.mloop (op 0x10 (r 4) (r 6) 0x1800 ctl)
  let second : State → State := inTroupe (fun t => { t with rm := some 1, prog := 1 })
  let pat := Instr.patld (op 0 (r 2) (r 4) 0x828)
  [⟨mt, on (sregs [(9, 4)]), step 0x163 0 true true true⟩, ⟨mv, on (sregs [(10, 32)]), step 0x163 0 true true true⟩,
    ⟨sp, on (sregs [(11, 32)]), step 0x164 0 true true true⟩, ⟨mt, none_ id, step 0x163 0 false false true⟩,
    ⟨mt, also (on id) (region 2 (flat 8192 64)), step 0x163 0 false true false⟩, ⟨mv, on (sregs [(10, 8192)]), step 0x163 0 false true false⟩,
    ⟨ml, also (on second) (sregs [(4, 4)]), step 0x166 1 true true true⟩, ⟨ml, also (on second) (region 2 (flat 8192 64)), step 0x166 1 false true false⟩,
    ⟨mg, on (sregs [(11, 4)]), g true true 0 false⟩, ⟨mg, none_ id, g false false 0 false⟩,
    ⟨mg, on (vregs 8 (fun l => if l = 3 then 0x1000 else 0)), g false true 1 false⟩, ⟨mg, on (sregs [(10, 8192)]), g false true 0 true⟩,
    ⟨.accst (op 1 (r 2) (r 4) 0x1800 (some 0xB)), on (sregs [(2, 4)]), accst false (fun _ x _ => (x.t.readS 2).toNat % 8 ≠ 0)⟩,
    ⟨.accst (op 1 (r 2) (r 4) 0x1800 (some 0xB)), none_ id, accst false (fun _ x o => !rgnV (x.b.region (accstRegion o)))⟩,
    ⟨.accst (op 1 (r 2) (r 4) 0x1800 (some 0x20B)), on (saddr 2 (dataAt + 4)), accst true (fun _ x o => va x o % 8 ≠ 0)⟩,
    ⟨.accst (op 1 (r 2) (r 4) 0x1800 (some 0x20B)), on (saddr 2 hole), accst true (fun s x o => va x o % 8 = 0
      && !good (s.pagesFor x.core x.ctx .store .plain (accstRows (accstType o) (va x o) (accstWindow (x.t.readS o.b.num.toNat).toNat))))⟩,
    ⟨pat, on (also (saddr 2 dataAt) (sregs [(5, 32)])), patld (fun _ x _ => (x.t.readS 5).toNat % 64 ≠ 0)⟩,
    ⟨pat, on (also (saddr 2 hole) (sregs [(5, 64)])), patld (fun s x o => va x o % 64 = 0
      && !good (s.pagesFor x.core x.ctx .load .plain [(va x o, 64)]))⟩]

/-- MatrixOperandsTrap. -/
theorem witness_MatrixOperandsTrap : ∀ c ∈ matrixOperandCases, ∃ code s x o hdr, c.i.op? = some (code, o) ∧ Runs s x code o hdr
    ∧ c.more s x o = true := all_meet (by decide +kernel)

/-! ## Copies -/

/-- Each step of 13 R312 in turn: the descriptor's region, its place, its poison; a reason of COPY_DESC; alignment and bounds of the
operands; the index vector and its rows; the pages; the overlap; the barrier's units. -/
def copyTrapCases : List Case :=
  let room (s : State) (x : Env) : Bool := decide ((s.copies.filter (fun c => c.core = x.core)).length < 64)
  let early (k : DWord → Nat → Block → Bool) (s : State) (x : Env) (o : Op) : Bool :=
    room s x && k (x.b.region (o.dst.toNat % 16)) (x.t.readS o.a.num.toNat).toNat x.b
  let sound (kind : Nat) (k : State → Env → CopyDesc → List Word → Bool) (s : State) (x : Env) (o : Op) : Bool :=
    let s0 := s.flushCore x.core
    room s x && (match readDesc o x with
      | .ok (d, _) => copyReason x.b kind d = none && copyAligned x kind d = none && copyBounds x kind d = none
        && (match (if kind = 0 then .ok [] else readIndex x s0 d) with
          | .ok idx => k s0 x d idx
          | _ => false)
      | _ => false)
  let desc (k : Block → CopyDesc → Bool) (s : State) (x : Env) (o : Op) : Bool := room s x && (match readDesc o x with
    | .ok (d, _) => k x.b d
    | _ => false)
  let rows (kind : Nat) (k : State → Env → CopyDesc → List Word → Bool) : State → Env → Op → Bool := sound kind (fun s x d idx =>
    indexedRows x (srcSide kind d) idx = none && indexedRows x (dstSide kind d) idx = none && k s x d idx)
  let put (bits : Nat) : State → State := inBlock (fun b => b.wrArena 64 (bytesOf 64 bits) 0 .engine)
  let copy := Instr.copy (op 5 (r 10) z 0)
  let copyg := Instr.copyg (op 5 (r 10) z 0)
  let full (b : Barrier) : State → State := store (dataAt + 0x2000) 16 b.toNat
  let idx : Nat := (dataAt + 0x3000) * 2 ^ 192
  [⟨copy, id, early (fun g _ _ => !rgnV g)⟩, ⟨copy, also (copyIn 2 0) (sregs [(10, 32)]), early (fun g off _ => rgnV g && off % 64 ≠ 0)⟩,
    ⟨copy, also (copyIn 2 0) (sregs [(10, 128)]), early (fun g off _ => rgnV g && off % 64 = 0 && rgnSize g < off + 64)⟩,
    ⟨copy, also (region 5 (planar 0 128 0 0)) (sregs [(10, 64)]), early (fun g off _ => rgnPlanar g && off + 64 ≤ rgnSize g)⟩,
    ⟨copy, also (copyIn 2 0) (inBlock (fun b => { b with apoison := [(8, true)] })), early (fun g off b => !rgnPlanar g && b.arenaPoison (rgnBase g + off) 64)⟩,
    ⟨copy, also (copyIn 2 0) (put 0), desc (fun b d => (copyReason b 0 d).isSome)⟩,
    ⟨copy, also (copyIn 2 0) (put (copyBits 2 0 + 2 ^ 64)), fun s x o => desc (fun b d => copyReason b 0 d = none && (copyAligned x 0 d).isSome) s x o⟩,
    ⟨copy, also (copyIn 2 0) (put (copyBits 2 1 - (dataAt * 2 ^ 64) + 120 * 2 ^ 64)), fun s x o => desc (fun b d => copyReason b 0 d = none
      && copyAligned x 0 d = none && (copyBounds x 0 d).isSome) s x o⟩,
    ⟨copyg, copyIn 2 (hole * 2 ^ 192), fun s x o => desc (fun b d => copyReason b 1 d = none && copyAligned x 1 d = none && copyBounds x 1 d = none
      && !good (readIndex x (s.flushCore x.core) d)) s x o⟩,
    ⟨copyg, also (copyIn 2 (idx + 2 ^ 384)) (store (dataAt + 0x3000) 8 1), sound 1 (fun _ x d idx => ((srcSide 1 d).starts idx).any (fun a => !(srcSide 1 d).aligned a)
      && (indexedRows x (srcSide 1 d) idx).isSome)⟩,
    ⟨copy, also (copyIn 2 0) (put (copyBits 2 0 - (dataAt * 2 ^ 64) + hole * 2 ^ 64)), rows 0 (fun s x d idx => !good (copyPages x s 0 d idx))⟩,
    ⟨copy, also (copyIn 2 0) (also deterministic (put (copyBits 2 0 - ((dataAt + 0x1000) * 2 ^ 128) + dataAt * 2 ^ 128))), rows 0 (fun s x d idx =>
      x.t.det && (copyOverlap x.b 0 d idx).isSome && good (copyPages x s 0 d idx))⟩,
    ⟨copy, also (copyIn 2 0) (full ⟨0, 1, 2 ^ 32 - 2, 1, 0, 0⟩), rows 0 (fun s x d idx => !x.t.det && (match copyPages x s 0 d idx with
      | .ok (_, key) => 2 ^ 32 ≤ (s.readBarrier (copyBarrier x.r d key)).sec + d.units
      | _ => false))⟩]

/-- CopiesTrap. -/
theorem witness_CopiesTrap : ∀ c ∈ copyTrapCases, ∃ code s x o hdr, c.i.op? = some (code, o) ∧ Runs s x code o hdr
    ∧ c.more s x o = true := all_meet (by decide +kernel)

/-- EntriesMeetCopies: an ACCZ, and a step that has read words, with copies of its block in flight that write its tile, or words that
the step has read and are issued after it, with one that is complete, and with none; its batch there. -/
theorem witness_EntriesMeetCopies :
    let tileCopy (dk dst : Nat) : CopyReq := { queued with desc := bytesOf 64 (descOf 0 dk 11 11 0 16 1 dataAt dst 0), seq := 9 }
    let areaOk (q : CopyReq) : Bool := q.dstArea.all (fun x => x.row + x.rows ≤ 128 && x.col + x.cols ≤ 256)
    let fits (n : MInsn) (f : State → State) (k : Job → State → Bool) : Bool :=
      let s := performing n f
      (s.block? 0 0).any (fun b => (b.acts[0]?).isSome) && (s.job? act0).any (fun j => k j s)
    fits acczInsn id (fun j s => s.copies.isEmpty && j.b.landed.isEmpty) = true
      ∧ fits acczInsn (fun s => { s with copies := [tileCopy 2 (1 + 240 * 2 ^ 11)] }) (fun _ s => s.copies.all (fun q => q.dstArea.isSome && areaOk q)) = true
      ∧ fits acczInsn (inBlock (fun b => { b with landed := [⟨9, (tileCopy 2 1).dstArea, (0, 0), []⟩] }))
        (fun j _ => j.b.landed.any (fun c => !j.b.observed c.id j.issuers)) = true
      ∧ fits (insn (.mma (op 0 (v 64) (r 10) 0x1800 ctl)) [0]) (fun s => { s with copies := [tileCopy 1 (2 * 2 ^ 40)] })
        (fun j s => j.wordReads ≠ [] && s.copies.all (fun q => q.dstArea.isNone)) = true := by
  decide +kernel

end Sys2Proof.Tests
end

