-- ==== Sys2Proof/Tests/Slice0.lean ====
section
/-! SUPPORT. Tests of the model: ill-formed words, words of the manual decoded, and the manual's worked values. Each test names
the rule or the example of spec/ that its expected result comes from. -/

namespace Sys2Proof.Tests

set_option Elab.async false

open Sys2Proof.Machine Sys2Proof.Claims Sys2Proof.Lab

/-! ## Ill-formed words, one for each check -/

def illWords1 : List (Nat × Nat) :=
  -- an E bit on an op word with an extension word (R77)
  [ (0x020, two 0x2207_0481_4300_00A0 0x8000_0000_0000_0005)
  -- an extension word where no source is an immediate (R77)
  , (0x020, two 0x0207_0481_400B_00A0 0x8000_0000_0000_0005)
  -- an immediate in A without an extension word (R76)
  , (0x020, 0x0207_04E0_0C0B_00A0)
  -- a three-source form without its extension word (R78)
  , (0x025, 0x0257_0481_400B_0060)
  -- W of a control op (R110)
  , (0x000, 0x0007_8000_0300_2000)
  -- a destination of BRA (R110)
  , (0x000, 0x0007_0080_0300_2000)
  -- an offset of class 0b00 (R111)
  , (0x000, 0x0007_0000_0001_0000)
  -- mode 3 of BRC (R110)
  , (0x001, 0x0017_0000_2300_2003)
  -- an odd pair of BRX (R110)
  , (0x002, 0x0027_0000_0003_0000)
  -- an odd link of CALL (R110)
  , (0x003, 0x0037_0180_0300_2000)
  -- an immediate of RET (R110)
  , (0x004, 0x0047_0000_0300_2000)
  -- a nonzero field of EXIT (R110)
  , (0x005, 0x0057_0000_0000_0001)
  -- type code 9 of ADD (R123)
  , (0x020, 0x0207_0481_400B_0120)
  -- a rounding value of ADD (R79)
  , (0x020, 0x0207_0481_400B_04A0)
  -- a negated unsigned source (R121)
  , (0x020, 0x0207_0481_440B_00C0)
  -- an odd 64-bit destination (R120)
  , (0x020, 0x0207_0481_400C_00E0)
  -- a latch as a 64-bit source (R121)
  , (0x020, 0x0207_0440_000C_00E0)
  -- s register 64 (R73)
  , (0x020, 0x0207_0481_4140_00A0)
  -- latch 4 (R73)
  , (0x020, 0x0207_0481_4204_00A0)
  -- a source B of NEG (R123)
  , (0x02B, 0x02B7_0481_4001_00A0)
  -- an immediate of MOV (R128)
  , (0x02D, 0x02D7_04E0_0C00_00A0)
  -- a source A of MOVI (R128)
  , (0x02E, 0x02E7_0480_230C_80A0)
  -- source type 0 of I2I (R129)
  , (0x02F, 0x02F7_0180_8302_0040)
  -- a modifier of AND (R130)
  , (0x040, 0x0407_0481_480B_00A0)
  -- an odd predicate of CMP (R135)
  , (0x060, 0x0607_0080_2300_00A0)
  -- predicate 8 (R75)
  , (0x061, 0x0617_0081_0003_0000)
  -- an immediate above 1 of PMOV (R136)
  , (0x065, 0x0657_0080_0300_4000)
  -- rounding value 5 of FADD (R49)
  , (0x080, 0x0807_0481_400B_1560) ]

def illWords2 : List (Nat × Nat) :=
  -- E2M1 in FCVT (R148)
  [ (0x08B, 0x08B7_0481_4302_0180)
  -- FIT with a float pair (R148)
  , (0x08B, 0x08B7_0481_4305_6120)
  -- a group of BMAX that starts off its size (R150)
  , (0x0A0, 0x0A07_0300_A300_2160)
  -- FIT of BQUANT without AUTO (R154)
  , (0x0A2, 0x0A27_0400_8300_4180)
  -- a guard of AMAXRD (R158)
  , (0x0A8, 0x0A80_0180_0300_2000)
  -- a policy in the function field of FADD (R141)
  , (0x080, 0x0807_0481_400B_0168)
  -- SCAN with type code 0 (R166)
  , (0x0E3, 0x0E37_0200_A000_0000)
  -- a v register as the rotation of PERM (R171)
  , (0x0E7, 0x0E77_0200_A006_0000)
  -- a v pair of FBOPEN (R184)
  , (0x100, 0x1007_0080_4300_0000)
  -- FBNEXT with one register twice (R184)
  , (0x103, 0x1037_0200_2004_0001)
  -- a reserved scope of LD (R79)
  , (0x120, 0x1207_0220_4003_00C6)
  -- X4 of an 8-bit type (R247)
  , (0x120, 0x1207_0220_4003_1040)
  -- an odd group of LDG (R244)
  , (0x125, 0x1257_02A0_4003_04C0)
  -- a destination of RED (R244)
  , (0x128, 0x1287_00A0_4003_00A0)
  -- control 5 of CCTL (R244)
  , (0x12B, 0x12B7_0000_0000_1400)
  -- a region above 15 (R233)
  , (0x140, 0x1407_0200_6300_00D0)
  -- an odd destination of RGQ (R233)
  , (0x146, 0x1467_0280_0000_0000)
  -- tile 16 of MMA (R283)
  , (0x163, two 0x1637_0808_010A_1800 0x8000_0000_0008_01CC)
  -- type code 11 of MMA (R284)
  , (0x163, two 0x1637_0008_010A_1800 0x8000_0000_0008_01CB)
  -- a missing control word (R283)
  , (0x163, 0x1637_0008_010A_1800)
  -- a guard of COPY (R311)
  , (0x180, 0x1800_02A1_4000_0000)
  -- MWAIT 8 (R328)
  , (0x184, 0x1847_0000_0301_0000)
  -- an odd destination of TCLAIM (R341)
  , (0x185, 0x1857_0A80_0300_2004)
  -- a region beside a global barrier (R361)
  , (0x1A0, 0x1A07_0020_4300_2001)
  -- SEC of TBINIT (R361)
  , (0x1A0, 0x1A07_0020_4300_2020)
  -- special register 0x0B (R102)
  , (0x1C3, 0x1C37_0520_0000_000B)
  -- SREAD of LANE into an s register (R404)
  , (0x1C3, 0x1C37_0520_0000_0007)
  -- SWRITE of AMAX (R104)
  , (0x1C4, 0x1C47_0020_0000_0012) ]

/-- Whether the fields of a word's instruction are well formed. -/
def wellFormed (p : Nat × Nat) : Bool :=
  (opOf (BitVec.ofNat 64 p.2) (if p.2 < 2 ^ 64 then none else some (extOf (BitVec.ofNat 64 (p.2 / 2 ^ 64))))).wf p.1

theorem test_ill_formed_1 : illWords1.all (fun p => !wellFormed p) = true := by decide +kernel
theorem test_ill_formed_2 : illWords2.all (fun p => !wellFormed p) = true := by decide +kernel

/-- The decoder gives no instruction of two words, or none at all, for an ill-formed word. -/
theorem test_ill_words_rejected :
    (illWords1 ++ illWords2).all (fun p => match decodeBytes (bytesOf 16 p.2) with
      | some (.instr i n) => n = 1 && 2 ^ 64 ≤ p.2 && i.wf
      | _ => true) = true := by decide +kernel

/-- Pair words: one destination twice, a bank clash, two multipliers, MOV with a source b (03 R84). -/
theorem test_ill_pairs :
    [(⟨false, ⟨.add, 1, 2, 3⟩, ⟨.fmul, 1, 5, 8⟩⟩ : Pair), ⟨false, ⟨.add, 1, 2, 3⟩, ⟨.fmul, 4, 5, 6⟩⟩,
      ⟨false, ⟨.mul, 1, 2, 3⟩, ⟨.fmul, 4, 5, 8⟩⟩, ⟨false, ⟨.mov, 1, 2, 3⟩, ⟨.fmul, 4, 5, 8⟩⟩].all
      (fun p => !(Instr.pairWord p).wf) = true := by decide

/-- The manual's pair word, whose sources lie in four banks, is well formed (03, the pair word). -/
theorem test_pair_well_formed : (Instr.pairWord ⟨false, ⟨.add, 1, 2, 3⟩, ⟨.fmul, 4, 5, 8⟩⟩).wf = true := by decide

/-- A reserved slot of the opcode map, a reserved bit of a pair word, a stray extension word, and a header inside a block are
rejected by name, with TVAL (03 R67, R77, R84, R89, R91). -/
theorem test_rejected_by_name :
    decode 0x0087_0000_0000_0000 none = .illegal ⟨.reservedOpcode, 0x00870000, none⟩
    ∧ decode 0x5000_4080_D204_0508 none = .illegal ⟨.pairField, 0x50004080, none⟩
    ∧ decode 0x8000_0000_0000_0180 none = .illegal ⟨.strayExtension, 0x80000000, none⟩
    ∧ decode 0xC032_80B0_0000_0000 none = .illegal ⟨.headerInBody, 0xC03280B0, none⟩ := by decide

/-! ## Words of the manual -/

/-- 05, a loop and its frontier: CMP.i32 p0, v1, 0. -/
theorem test_decode_cmp : decode 0x0607_0000_2300_00A0 none
    = .instr (.cmp ⟨false, ⟨false, 7⟩, false, 0, ⟨.v, 1, .none⟩, ⟨.imm, 0, .none⟩, 0x00A0, none⟩) 1 := by decide

/-- 05, a loop and its frontier: BRC !p1, LOOP, with offset -4. -/
theorem test_decode_brc : decode 0x2017_0000_27FF_8000 none
    = .instr (.brc ⟨true, ⟨false, 7⟩, false, 0, ⟨.v, 1, .neg⟩, ⟨.imm, 0xFF, .lo⟩, 0, none⟩) 1 := by decide

/-- 03, a worked block: FMUL (v5), v4, v6 with W = 1. -/
theorem test_decode_fmul : decode 0x0827_8280_8006_1D60 none
    = .instr (.fmul ⟨false, ⟨false, 7⟩, true, 5, ⟨.v, 4, .none⟩, ⟨.v, 6, .none⟩, 0x1D60, none⟩) 1 := by decide

/-- 03, a worked block: FADD v7, bl0, v8. -/
theorem test_decode_fadd : decode 0x0807_03C0_0008_1D60 none
    = .instr (.fadd ⟨false, ⟨false, 7⟩, false, 7, ⟨.latch, 0, .none⟩, ⟨.v, 8, .none⟩, 0x1D60, none⟩) 1 := by decide

/-- 03, a worked block: ADD.i32 v9, v10, -3, which ends the run. -/
theorem test_decode_add : decode 0x2207_0481_43FF_A0A0 none
    = .instr (.add ⟨true, ⟨false, 7⟩, false, 9, ⟨.v, 10, .none⟩, ⟨.imm, 0xFF, .hi⟩, 0x00A0, none⟩) 1 := by decide

/-- 03, the pair word: ADD v1, v2, v3 beside FMUL v4, v5, v8. -/
theorem test_decode_pair : decode 0x4000_4080_D204_0508 none
    = .instr (.pairWord ⟨false, ⟨.add, 1, 2, 3⟩, ⟨.fmul, 4, 5, 8⟩⟩) 1 := by decide

/-- 06 R157: DOT4.e4m3 v6, v2, v3, v4, with its extension word. -/
theorem test_decode_dot4 : decode 0x0A57_0300_4003_0020 (some 0xA000_0000_0000_0180)
    = .instr (.dot4 ⟨false, ⟨false, 7⟩, false, 6, ⟨.v, 2, .none⟩, ⟨.v, 3, .none⟩, 0x0020, some ⟨true, 0x180⟩⟩) 2 := by decide

/-- 07, example: p0? SHFL.up v5, v4, 1. -/
theorem test_decode_shfl : decode 0x0E00_0280_8300_2001 none
    = .instr (.shfl ⟨false, ⟨false, 0⟩, false, 5, ⟨.v, 4, .none⟩, ⟨.imm, 0, .neg⟩, 0x0001, none⟩) 1 := by decide

/-- 08, worked example: FBNEXT v2, fb2, v4, p1. -/
theorem test_decode_fbnext : decode 0x1037_0100_4004_0001 none
    = .instr (.fbnext ⟨false, ⟨false, 7⟩, false, 2, ⟨.v, 2, .none⟩, ⟨.v, 4, .none⟩, 0x0001, none⟩) 1 := by decide

/-- 10, encodings: STA.f32 rgn1[v4 + 8], v6. -/
theorem test_decode_sta : decode 0x1417_0300_8301_0161 none
    = .instr (.sta ⟨false, ⟨false, 7⟩, false, 6, ⟨.v, 4, .none⟩, ⟨.imm, 1, .none⟩, 0x0161, none⟩) 1 := by decide

/-- 10, worked turn: TURN s8, 0x6. -/
theorem test_decode_turn : decode 0x3457_0021_0300_C000 none
    = .instr (.turn ⟨true, ⟨false, 7⟩, false, 0, ⟨.s, 8, .none⟩, ⟨.imm, 0, .swp⟩, 0, none⟩) 1 := by decide

/-- 11, encodings: LD.n32.cg.d.acq v4, [s8 + 0x40]. -/
theorem test_decode_ld : decode 0x1207_0221_0308_04CB none
    = .instr (.ld ⟨false, ⟨false, 7⟩, false, 4, ⟨.s, 8, .none⟩, ⟨.imm, 8, .none⟩, 0x04CB, none⟩) 1 := by decide

/-- 12, worked step: MMA at0, v64, s10 with its control word. -/
theorem test_decode_mma : decode 0x1637_0002_010A_1800 (some 0x8000_0000_0008_01CC)
    = .instr (.mma ⟨false, ⟨false, 7⟩, false, 0, ⟨.v, 16, .none⟩, ⟨.s, 10, .none⟩, 0x1800, some ⟨false, 0x801CC⟩⟩) 2 := by
  decide

/-- 19, the words of the second program: MLOOP with count 3. -/
theorem test_decode_mloop : decode 0x1667_1022_0110_1800 (some 0x8000_0000_008D_A529)
    = .instr (.mloop ⟨false, ⟨false, 7⟩, false, 0x20, ⟨.s, 16, .none⟩, ⟨.s, 16, .none⟩, 0x1800, some ⟨false, 0x8DA529⟩⟩) 2 := by
  decide

/-- 13, encodings: COPY rgn5[s3]. -/
theorem test_decode_copy : decode 0x1807_02A0_6000_0000 none
    = .instr (.copy ⟨false, ⟨false, 7⟩, false, 5, ⟨.s, 3, .none⟩, ⟨.v, 0, .none⟩, 0, none⟩) 1 := by decide

/-- 14 R326, R328, R341: MCOMMIT, MWAIT 1 and TCLAIM s20, cq4, 1. -/
theorem test_decode_queues :
    decode 0x1837_0000_0000_0000 none = .instr (.mcommit ⟨false, ⟨false, 7⟩, false, 0, ⟨.v, 0, .none⟩, ⟨.v, 0, .none⟩, 0, none⟩) 1
    ∧ decode 0x3847_0000_0300_2000 none
      = .instr (.mwait ⟨true, ⟨false, 7⟩, false, 0, ⟨.v, 0, .none⟩, ⟨.imm, 0, .neg⟩, 0, none⟩) 1
    ∧ decode 0x1857_0A00_0300_2004 none
      = .instr (.tclaim ⟨false, ⟨false, 7⟩, false, 20, ⟨.v, 0, .none⟩, ⟨.imm, 0, .neg⟩, 4, none⟩) 1 := by decide

/-- 16, worked wait: TBWAIT rgn3[s5], s5-like fields of 0x3A37_0020_A106_0013. -/
theorem test_decode_tbwait : decode 0x3A37_0020_A106_0013 none
    = .instr (.tbwait ⟨true, ⟨false, 7⟩, false, 0, ⟨.s, 5, .none⟩, ⟨.s, 6, .none⟩, 0x0013, none⟩) 1 := by decide

/-- 18 R402 to R405: TRAP 5, RETT, SREAD s10, TCAUSE and SWRITE TMASK, 0. -/
theorem test_decode_system :
    decode 0x3C07_0000_0300_A000 none = .instr (.trap ⟨true, ⟨false, 7⟩, false, 0, ⟨.v, 0, .none⟩, ⟨.imm, 0, .hi⟩, 0, none⟩) 1
    ∧ decode 0x3C17_0000_0000_0000 none = .instr (.rett ⟨true, ⟨false, 7⟩, false, 0, ⟨.v, 0, .none⟩, ⟨.v, 0, .none⟩, 0, none⟩) 1
    ∧ decode 0x1C37_0520_0000_0018 none
      = .instr (.sread ⟨false, ⟨false, 7⟩, false, 10, ⟨.s, 0, .none⟩, ⟨.v, 0, .none⟩, 0x18, none⟩) 1
    ∧ decode 0x1C47_0060_0000_001B (some 0x8000_0000_0000_0000)
      = .instr (.swrite ⟨false, ⟨false, 7⟩, false, 0, ⟨.imm, 0, .none⟩, ⟨.v, 0, .none⟩, 0x1B, some ⟨false, 0⟩⟩) 2 := by decide

/-- 05: the header of LOOP has length 4, priority 0x32 and live value 4 (03 R68). -/
theorem test_header :
    hdrLength 0xC043_2040_0000_0000 = 4 ∧ hdrPrio 0xC043_2040_0000_0000 = 0x32 ∧ hdrLive 0xC043_2040_0000_0000 = 4
    ∧ hdrC 0xC043_2040_0000_0000 = false ∧ hdrX 0xC043_2040_0000_0000 = false := by decide

/-! ## What a step runs -/

/-- Right after reset with a word in place, one step runs it: MOVI v9, 100 writes 100 to every lane (05 R128). -/
theorem test_step_runs_movi :
    (match step (State.reset.withFetchWord 64 0x02E7_0480_030C_80A0) with
      | .next s => (s.troupe? me).map (fun t => (t.readV 9 0, t.readV 9 15))
      | _ => none) = some (100, 100) := by decide +kernel

/-! ## Worked values -/

/-- The state after the word `w` in the state `f` of the laboratory. -/
def after (w : Nat) (f : State → State) : State :=
  match decodeTableWord 128 w with
  | some i => match exec i (f (at_ w)) with
    | .next s => s
    | _ => State.reset
  | none => State.reset

def vOf (s : State) (r l : Nat) : Nat := ((s.troupe? me).map (fun t => (t.readV r l).toNat)).getD 0
def sOf (s : State) (r : Nat) : Nat := ((s.troupe? me).map (fun t => (t.readS r).toNat)).getD 0
def pOf (s : State) (q : Nat) : Nat := ((s.troupe? me).map (fun t => (t.readP q).toNat)).getD 0

/-- 02 R52: the check values of hash64. -/
theorem test_hash64 : hash64 0 0 = 0 ∧ hash64 0 1 = 0xE220_A839_7B1D_CDAF := by decide

/-- 05 R125: IDIV.i32 of -7 and 2 is -3, and IREM.i32 is -1. -/
theorem test_idiv : vOf (after 0x0267_0481_400B_00A0 (fun s => vreg 11 2 (vreg 10 0xFFFFFFF9 s))) 9 0 = 0xFFFFFFFD := by
  decide +kernel
theorem test_irem : vOf (after 0x0277_0481_400B_00A0 (fun s => vreg 11 2 (vreg 10 0xFFFFFFF9 s))) 9 0 = 0xFFFFFFFF := by
  decide +kernel

/-- 05 R125: IDIV.n8 of 200 and 0 is 255. -/
theorem test_idiv_zero : vOf (after 0x0267_0481_400B_0040 (vreg 10 200)) 9 0 % 256 = 255 := by decide +kernel

/-- 05 R129: I2I.n8 v3, v4, 0x15 of -100 is 0, and of 300 is 0xFF. -/
theorem test_i2i : vOf (after 0x02F7_0180_8302_A040 (vregs 4 (fun l => if l = 0 then 0xFFFFFF9C else 300))) 3 0 = 0
    ∧ vOf (after 0x02F7_0180_8302_A040 (vregs 4 (fun l => if l = 0 then 0xFFFFFF9C else 300))) 3 1 = 0xFF := by decide +kernel

/-- 05 R120: SUB does not saturate, and ABS of the most negative value returns it. -/
theorem test_wraps : vOf (after 0x0217_0481_400B_00A0 (fun s => vreg 11 1 (vreg 10 0 s))) 9 3 = 0xFFFFFFFF
    ∧ vOf (after 0x02A7_0481_4000_00A0 (vreg 10 0x80000000)) 9 0 = 0x80000000 := by decide +kernel

/-- 05 R133: an 8-bit CLZ of element 0x01 gives 7. -/
theorem test_clz : vOf (after 0x0487_0481_4000_0040 (vreg 10 1)) 9 0 % 256 = 7 := by decide +kernel

/-- 05 R133: a 16-bit ROT by 17 rotates by 1. -/
theorem test_rot : vOf (after 0x0477_0481_400B_0080 (fun s => vreg 11 17 (vreg 10 0x8001 s))) 9 0 % 2 ^ 16 = 3 := by
  decide +kernel

/-- 06 R157: the DOT4 example gives 3.5, and with element 3 of b a NaN code the result is nanc(1). -/
def dotState (b : Nat) (s : State) : State :=
  inTroupe (fun t => { t with sc := sset 0x7F (sset 0x7F t.sc (2 * 32) 0x80) (3 * 32) 0x7E })
    (vreg 4 0x3F800000 (vreg 3 b (vreg 2 0x00B04038 s)))

theorem test_dot4 :
    vOf (after (two 0x0A57_0300_4003_0020 0x8000_0000_0000_0180) (dotState 0x48383040)) 6 0 = 0x40600000 := by decide +kernel
theorem test_dot4_nan :
    vOf (after (two 0x0A57_0300_4003_0020 0x8000_0000_0000_0180) (dotState 0x7F383040)) 6 0 = 0x7FC00001 := by decide +kernel

/-- 06 R161, R162: SQT of 2^-148 is 2^-74, and EXB of 1.5, 4.5 and 1.0 is 0.125. -/
theorem test_sqt : vOf (after 0x0C47_0481_4000_0160 (vreg 10 2)) 9 0 = 0x1A800000 := by decide +kernel
theorem test_exb : vOf (after (two 0x0C07_0481_400B_0060 0x8000_0000_0000_0160)
    (fun s => vreg 12 0x3F800000 (vreg 11 0x40900000 (vreg 10 0x3FC00000 s)))) 9 0 = 0x3E000000 := by decide +kernel

/-- 02 R57: the E5M2 code 0xFD converted to FP32 gives 0xFFC0_0006. -/
theorem test_nan_conversion : (convF .e5m2 .fp32 Rnd.rne 0xFD).1 = 0xFFC00006 := by decide +kernel

/-- 07, example: the lanes of v5, v10 and v11 after SHFL.up and CONFL under p0. -/
def laneState : State → State :=
  fun s => inTroupe (fun t => { t with
    p := sset 0 t.p 0 0xFFF7, frontier := t.frontier.map (fun e => { e with mask := 0xFF }) })
    (vregs 4 (fun l => [3, 3, 7, 7, 7, 2, 3, 9].getD l 0) s)

theorem test_shfl : (List.range 8).map (vOf (after 0x0E00_0280_8300_2001 laneState) 5) = [3, 3, 3, 0, 7, 7, 2, 3] := by
  decide +kernel
theorem test_confl : (List.range 8).map (fun l => (vOf (after 0x0E50_0500_8000_0000 laneState) 10 l,
      vOf (after 0x0E50_0500_8000_0000 laneState) 11 l)) = [(0, 0), (0, 1), (2, 0), (0, 0), (2, 1), (5, 0), (0, 2), (7, 0)] := by
  decide +kernel

/-- 05 R135: CMP.i32 p2, v1, 0 with v1 = lane - 1: less in lane 0, equal in lane 1. -/
theorem test_cmp : pOf (after 0x0607_0100_2300_00A0 (vregs 1 (fun l => (l + 2 ^ 32 - 1) % 2 ^ 32))) 2 = 1
    ∧ pOf (after 0x0607_0100_2300_00A0 (vregs 1 (fun l => (l + 2 ^ 32 - 1) % 2 ^ 32))) 3 = 2 := by decide +kernel

/-- 18 R397, R403: TRAP 5 with no handler ends the launch with UNHANDLED, TCAUSE TRAP_INSN and TVAL 5. -/
theorem test_trap : ((after 0x3C07_0000_0300_A000 id).launch? 0).map (fun la => la.traps.map (fun r => (r.status, r.tcause, r.tval)))
    = some [(8, 0x39, 5)] := by decide +kernel

/-- 18 R399: RETT outside a handler traps PRIV. -/
theorem test_rett : ((after 0x3C17_0000_0000_0000 id).launch? 0).map (fun la => la.traps.map (fun r => (r.status, r.tcause)))
    = some [(8, 0x06)] := by decide +kernel

/-- 10 R237 and its worked turn: RGQ of rgn1 gives the descriptor as it stands. -/
theorem test_rgq : sOf (after 0x1467_0200_0000_0001 (inBlock (fun b => { b with rgn := b.rgn.set 1 0x0000_0080_0000_008F }))) 4
      = 0x8F
    ∧ sOf (after 0x1467_0200_0000_0001 (inBlock (fun b => { b with rgn := b.rgn.set 1 0x0000_0080_0000_008F }))) 5 = 0x80 := by
  decide +kernel

/-- 14 R341: TCLAIM s20, cq4, 1 of an owned queue takes its next index; of another queue it finds none. -/
theorem test_tclaim : sOf (after 0x1857_0A00_0300_2004 (fun s => { s with claims := s.claims.set 4 ⟨7, 9, [0]⟩ })) 20 = 7
    ∧ sOf (after 0x1857_0A00_0300_2004 id) 20 = 0xFFFFFFFF := by decide +kernel

/-- 16, worked wait: TBINIT with n = 1 writes 0x0100_0000_0000_0010, and its fields are those of R359. -/
theorem test_barrier : (⟨0, 1, 0, 1, 0, 0⟩ : Barrier).toNat = 0x0100_0000_0000_0010
    ∧ Barrier.ofNat 0x0100_0000_0500_0010 = ⟨0, 1, 5, 1, 0, 0⟩
    ∧ (⟨0, 0, 1, 1, 0, 0⟩ : Barrier).settleUnit = ⟨1, 1, 0, 1, 0, 0⟩ := by decide

/-- 09, worked translation: the level-3 entry's leaf (R214). -/
theorem test_leaf : leafOf 0x0000_0045_6780_0047 18
    = ⟨18, true, false, false, 1, 0, 0, 0x45_6780_0000, false⟩ := by decide

/-- 22: SHA-384 of "abc" (FIPS 180-4, log entry 36). -/
theorem test_sha384 : ofBytes ((Sha.sha384 [0x61, 0x62, 0x63]).take 8).reverse = 0xCB00753F45A35E8B := by decide +kernel

end Sys2Proof.Tests
end

