-- ==== Sys2Proof/Tests/Words.lean ====
section
/-! SUPPORT. One word of every opcode, written out from the encodings of the manual, decodes and takes effect in a small state:
the statements about words speak of something. -/

namespace Sys2Proof.Tests

set_option Elab.async false

open Sys2Proof.Machine Sys2Proof.Claims Sys2Proof.Lab

/-- Words of ControlTransfers, ExitYieldAndNop. -/
def controlWords : List (Nat × Nat) :=
  [(0x000, 0x0007_0000_0300_2000),
    (0x001, 0x0017_0000_2300_2000),
    (0x002, 0x0027_0000_0002_0000),
    (0x003, 0x0037_0100_0300_2000),
    (0x004, 0x0047_0000_0002_0000),
    (0x005, 0x0057_0000_0000_0000),
    (0x006, 0x0067_0000_0000_0000),
    (0x007, 0x0077_0000_0000_0000)]

theorem witness_control_words : ∀ p ∈ controlWords, ∃ s x o hdr, Runs s x p.1 o hdr := all_run (by decide +kernel)

/-- Words of IntegerAndDivisionResults. -/
def integerWords : List (Nat × Nat) :=
  [(0x020, 0x0207_0481_400B_00A0),
    (0x021, 0x0217_0481_400B_00A0),
    (0x022, 0x0227_0481_400B_00C0),
    (0x023, 0x0237_0481_400B_00A0),
    (0x024, 0x0247_0481_400B_00A0),
    (0x025, two 0x0257_0481_400B_0060 0x8000_0000_0000_00A0),
    (0x026, 0x0267_0481_400B_00A0),
    (0x027, 0x0277_0481_400B_00A0),
    (0x028, 0x0287_0481_400B_00A0),
    (0x029, 0x0297_0481_400B_00A0),
    (0x02A, 0x02A7_0481_4000_00A0),
    (0x02B, 0x02B7_0481_4000_00A0)]

theorem witness_integer_words : ∀ p ∈ integerWords, ∃ s x o hdr, Runs s x p.1 o hdr := all_run (by decide +kernel)

/-- Words of AddressesMovesAndConversions. -/
def movesWords : List (Nat × Nat) :=
  [(0x02C, two 0x02C7_0200_C003_0028 0x8000_0000_0000_00C0),
    (0x02D, 0x02D7_0481_4000_00A0),
    (0x02E, 0x02E7_0480_030C_80A0),
    (0x02F, 0x02F7_0180_8302_A040)]

theorem witness_moves_words : ∀ p ∈ movesWords, ∃ s x o hdr, Runs s x p.1 o hdr := all_run (by decide +kernel)

/-- Words of BitwiseAndShiftResults. -/
def bitwiseWords : List (Nat × Nat) :=
  [(0x040, 0x0407_0481_400B_00C0),
    (0x041, 0x0417_0481_400B_00C0),
    (0x042, 0x0427_0481_400B_00C0),
    (0x043, 0x0437_0481_4000_00C0),
    (0x044, 0x0447_0481_400B_00C0),
    (0x045, 0x0457_0481_400B_00C0),
    (0x046, 0x0467_0481_400B_00C0),
    (0x047, 0x0477_0481_400B_00C0)]

theorem witness_bitwise_words : ∀ p ∈ bitwiseWords, ∃ s x o hdr, Runs s x p.1 o hdr := all_run (by decide +kernel)

/-- Words of BitCountAndFieldResults. -/
def bitsWords : List (Nat × Nat) :=
  [(0x048, 0x0487_0481_4000_00C0),
    (0x049, 0x0497_0481_4000_00C0),
    (0x04A, 0x04A7_0481_4000_00C0),
    (0x04B, 0x04B7_0481_400B_00C0),
    (0x04C, two 0x04C7_0481_400B_0060 0x8000_0000_0000_00C0),
    (0x04D, two 0x04D7_0481_400B_0008 0x8000_0000_0000_0000)]

theorem witness_bits_words : ∀ p ∈ bitsWords, ∃ s x o hdr, Runs s x p.1 o hdr := all_run (by decide +kernel)

/-- Words of ComparesAndPredicates. -/
def predsWords : List (Nat × Nat) :=
  [(0x060, 0x0607_0100_2300_00A0),
    (0x061, 0x0617_0080_4003_0000),
    (0x062, 0x0627_0080_4003_0000),
    (0x063, 0x0637_0080_4003_0000),
    (0x064, 0x0647_0080_4000_0000),
    (0x065, 0x0657_0080_4000_0000)]

theorem witness_preds_words : ∀ p ∈ predsWords, ∃ s x o hdr, Runs s x p.1 o hdr := all_run (by decide +kernel)

/-- Words of FloatArithmeticAndSelection. -/
def floatWords : List (Nat × Nat) :=
  [(0x080, 0x0807_0481_400B_1D60),
    (0x081, 0x0817_0481_400B_1D60),
    (0x082, 0x0827_0481_400B_1D60),
    (0x083, two 0x0837_0481_400B_0060 0x8000_0000_0000_1D60),
    (0x084, 0x0847_0481_400B_1D60),
    (0x085, 0x0857_0481_400B_1D60),
    (0x086, 0x0867_0481_4000_1D60),
    (0x087, 0x0877_0481_4000_1D60),
    (0x089, 0x0897_0481_4000_1D60),
    (0x08A, 0x08A7_0481_4000_1D60),
    (0x08E, two 0x08E7_0481_400B_0060 0x8000_0000_0000_1D20),
    (0x08F, 0x08F7_0481_400B_1D20),
    (0x090, two 0x0907_0481_400B_0060 0x8000_0000_0000_1D40)]

theorem witness_float_words : ∀ p ∈ floatWords, ∃ s x o hdr, Runs s x p.1 o hdr := all_run (by decide +kernel)

/-- Words of FloatComparesAndConversions. -/
def convertWords : List (Nat × Nat) :=
  [(0x088, 0x0887_0101_400B_0160),
    (0x08C, 0x08C7_0481_4000_04A0),
    (0x08D, 0x08D7_0481_4000_00A0),
    (0x08B, 0x08B7_0481_4301_6120),
    (0x08B, 0x08B7_0481_4301_81A0)]

theorem witness_convert_words : ∀ p ∈ convertWords, ∃ s x o hdr, Runs s x p.1 o hdr := all_run (by decide +kernel)

/-- Words of BlockScaledResults. -/
def blockWords : List (Nat × Nat) :=
  [(0x0A0, 0x0A07_0300_8300_0160),
    (0x0A1, 0x0A17_0300_8300_0180),
    (0x0A2, 0x0A27_0400_8300_2180),
    (0x0A3, 0x0A37_0400_8000_0180),
    (0x0A4, 0x0A47_0400_8300_2180),
    (0x0A5, two 0x0A57_0300_4003_0020 0x8000_0000_0000_0180),
    (0x0A6, two 0x0A67_0300_4003_0020 0x8000_0000_0000_0200),
    (0x0A7, two 0x0A77_0300_4003_0020 0x8000_0000_0000_0120),
    (0x0A8, 0x0A87_0180_0300_2000),
    (0x0A9, 0x0A97_0000_0000_0000)]

theorem witness_block_words : ∀ p ∈ blockWords, ∃ s x o hdr, Runs s x p.1 o hdr := all_run (by decide +kernel)

/-- Words of SpecialFunctionResults. -/
def sfuWords : List (Nat × Nat) :=
  [(0x0C0, two 0x0C07_0481_400B_0060 0x8000_0000_0000_0160),
    (0x0C1, 0x0C17_0481_4000_0160),
    (0x0C2, 0x0C27_0481_4000_0160),
    (0x0C3, 0x0C37_0481_4000_0160),
    (0x0C4, 0x0C47_0481_4000_0160),
    (0x0C5, 0x0C57_0481_4000_0160),
    (0x0C6, 0x0C67_0481_4000_0160),
    (0x0C7, 0x0C77_0481_4000_0160)]

theorem witness_sfu_words : ∀ p ∈ sfuWords, ∃ s x o hdr, Runs s x p.1 o hdr := all_run (by decide +kernel)

/-- Words of CrossLaneResults. -/
def lanesWords : List (Nat × Nat) :=
  [(0x0E0, 0x0E07_0280_8300_2001),
    (0x0E1, 0x0E17_0080_4000_0000),
    (0x0E2, 0x0E27_0200_2000_0000),
    (0x0E3, 0x0E37_0200_A000_00A0),
    (0x0E4, 0x0E47_0200_A000_00A0),
    (0x0E5, 0x0E57_0200_A000_0000),
    (0x0E6, 0x0E67_0200_A000_0000),
    (0x0E6, 0x0E67_0080_A000_0001),
    (0x0E7, 0x0E77_0200_A300_2000)]

theorem witness_lanes_words : ∀ p ∈ lanesWords, ∃ s x o hdr, Runs s x p.1 o hdr := all_run (by decide +kernel)

/-- Words of the statements on fibres. -/
def fibreWords : List (Nat × Nat) :=
  [(0x100, 0x1007_00A0_4300_0000),
    (0x101, 0x1017_0100_0001_0000),
    (0x102, 0x1027_0100_0001_0000),
    (0x103, 0x1037_0100_2004_0001),
    (0x104, 0x1047_0080_0300_A000),
    (0x105, 0x1057_0200_2000_0006),
    (0x106, 0x1067_0080_2000_0000),
    (0x107, 0x1077_0080_0000_0000),
    (0x108, 0x1087_00A0_4308_0000),
    (0x109, 0x1097_00A0_4308_0000)]

theorem witness_fibre_words : ∀ p ∈ fibreWords, ∃ s x o hdr, Runs s x p.1 o hdr := all_run (by decide +kernel)

/-- Words of the statements on global memory. -/
def memoryWords : List (Nat × Nat) :=
  [(0x120, 0x1207_0220_4003_00C0),
    (0x121, 0x1217_0220_4003_00C0),
    (0x122, 0x1227_0320_4003_0180),
    (0x123, 0x1237_0320_4003_0180),
    (0x124, 0x1247_0320_4003_0180),
    (0x125, 0x1257_0220_4003_00C0),
    (0x126, 0x1267_0220_4003_00C0),
    (0x127, 0x1277_0320_4003_00A0),
    (0x128, 0x1287_0020_4003_00A0),
    (0x129, 0x1297_0000_0000_0003),
    (0x12A, 0x12A7_0020_4003_0000),
    (0x12B, 0x12B7_0000_0000_0000)]

theorem witness_memory_words : ∀ p ∈ memoryWords, ∃ s x o hdr, Runs s x p.1 o hdr := all_run (by decide +kernel)

/-- Words of the statements on the arena. -/
def arenaWords : List (Nat × Nat) :=
  [(0x140, 0x1407_0200_6300_00C0),
    (0x141, 0x1417_0200_6300_00C0),
    (0x142, 0x1427_0200_6005_0180),
    (0x143, 0x1437_0200_6005_0180),
    (0x144, 0x1447_0200_6005_00A0),
    (0x145, 0x1457_0020_4300_2000),
    (0x146, 0x1467_0200_0000_0000)]

theorem witness_arena_words : ∀ p ∈ arenaWords, ∃ s x o hdr, Runs s x p.1 o hdr := all_run (by decide +kernel)

/-- Words of the statements on the matrix instructions. -/
def matrixWords : List (Nat × Nat) :=
  [(0x160, 0x1607_0020_4300_2000),
    (0x161, 0x1617_0000_0000_0000),
    (0x162, 0x1627_0000_0000_0000),
    (0x163, two 0x1637_0008_010A_1800 0x8000_0000_0008_01CC),
    (0x164, two 0x1647_0008_010A_1800 0x8000_0000_0008_01CC),
    (0x165, two 0x1657_0001_010A_1800 0x8000_0000_0008_01CC),
    (0x166, two 0x1667_0820_8106_1800 0x8000_0000_0008_01CC),
    (0x167, 0x1677_0080_0000_0000),
    (0x168, 0x1687_0420_6000_0161),
    (0x169, two 0x1697_00A0_4104_1800 0x8000_0000_0000_000B),
    (0x16A, 0x16A7_0020_4104_0828)]

theorem witness_matrix_words : ∀ p ∈ matrixWords, ∃ s x o hdr, Runs s x p.1 o hdr := all_run (by decide +kernel)

/-- Words of the statements on copies and queues. -/
def queuesWords : List (Nat × Nat) :=
  [(0x180, 0x1807_02A1_4000_0000),
    (0x181, 0x1817_02A1_4000_0000),
    (0x182, 0x1827_02A1_4000_0000),
    (0x183, 0x1837_0000_0000_0000),
    (0x184, 0x1847_0000_0300_2000),
    (0x185, 0x1857_0A00_0300_2004),
    (0x186, 0x1867_0220_4000_0000),
    (0x187, 0x1877_0000_030C_8000)]

theorem witness_queues_words : ∀ p ∈ queuesWords, ∃ s x o hdr, Runs s x p.1 o hdr := all_run (by decide +kernel)

/-- Words of the statements on barriers and counters. -/
def countersWords : List (Nat × Nat) :=
  [(0x1A0, 0x1A07_0020_4300_2000),
    (0x1A1, 0x1A17_0020_4300_2000),
    (0x1A2, 0x1A27_0220_4300_2000),
    (0x1A3, 0x1A37_0020_4300_2000),
    (0x1A4, 0x1A47_00A0_4300_2000),
    (0x1A5, 0x1A57_0000_0300_2000),
    (0x1A6, 0x1A67_0000_0000_0000),
    (0x1A7, 0x1A77_0200_0300_0000)]

theorem witness_counters_words : ∀ p ∈ countersWords, ∃ s x o hdr, Runs s x p.1 o hdr := all_run (by decide +kernel)

/-- Words of the statements on traps and special registers. -/
def systemWords : List (Nat × Nat) :=
  [(0x1C0, 0x1C07_0000_0300_A000),
    (0x1C1, 0x1C17_0000_0000_0000),
    (0x1C2, 0x1C27_0000_0300_A000),
    (0x1C3, 0x1C37_0520_0000_0018),
    (0x1C4, 0x1C47_0020_0000_0010)]

theorem witness_system_words : ∀ p ∈ systemWords, ∃ s x o hdr, Runs s x p.1 o hdr := all_run (by decide +kernel)

end Sys2Proof.Tests
end

section
/-! SUPPORT. The results of the lane-local ops (03 R80, R81, R86; 05 R110): what writing a result makes of the troupe, in the
terms of the claims. -/

namespace Sys2Proof.Claims
open Sys2Proof.Machine

/-! ## Counts of writes -/

theorem sget_foldl_incr (rs : List Nat) (hn : rs.Nodup) (m : Sparse Nat) (r : Nat) :
    sget 0 (rs.foldl (fun m r => sset 0 m r (sget 0 m r + 1)) m) r = sget 0 m r + bit (rs.contains r) := by
  induction rs generalizing m with
  | nil => simp [bit]
  | cons q qs ih =>
    obtain ⟨hq, hqs⟩ := List.nodup_cons.mp hn
    rw [List.foldl_cons, ih hqs, sget_sset]
    by_cases h : r = q
    · subst h; simp [hq, bit]
    · simp [h, bit]

theorem nodup_written (d n : Nat) (sel : Lanes) (tag : List (Nat × Byte)) : (Troupe.written d n sel tag).Nodup := by
  unfold Troupe.written
  split
  · exact List.nodup_nil
  · exact List.pairwise_map.mpr (List.Pairwise.imp (fun hne h => hne (Nat.add_left_cancel h)) List.nodup_range)

theorem contains_written (d n : Nat) (sel : Lanes) (tag : List (Nat × Byte)) (r : Nat) :
    (Troupe.written d n sel tag).contains r = (decide (d ≤ r) && decide (r < d + n) && (decide (sel ≠ 0) || !tag.isEmpty)) := by
  unfold Troupe.written
  by_cases h : (decide (sel = 0) && tag.isEmpty) = true
  · rw [if_pos h]
    simp only [Bool.and_eq_true, decide_eq_true_eq] at h
    simp [h.1, h.2]
  · rw [if_neg h]
    have hsel : (decide (sel ≠ 0) || !tag.isEmpty) = true := by
      cases ht : tag.isEmpty <;> simp_all
    rw [hsel, Bool.and_true, Bool.eq_iff_iff]
    simp only [List.contains_iff_mem, List.mem_map, List.mem_range, Bool.and_eq_true, decide_eq_true_eq]
    exact ⟨fun ⟨i, hi, he⟩ => by omega, fun ⟨h1, h2⟩ => ⟨r - d, by omega, by omega⟩⟩

/-- Writing a group of registers counts once for each of them (04 R101). -/
theorem wrote_noteV (t : Troupe) (d n : Nat) (sel : Lanes) (tag : List (Nat × Byte)) (r : Nat) :
    sget 0 (t.noteV (Troupe.written d n sel tag)).wrote r
      = sget 0 t.wrote r + bit (decide (d ≤ r) && decide (r < d + n) && (decide (sel ≠ 0) || !tag.isEmpty)) := by
  rw [← contains_written]
  exact sget_foldl_incr _ (nodup_written d n sel tag) _ _

theorem wrote_produceV (t : Troupe) (w : Bool) (d : Nat) (sel : Lanes) (fs : List (Nat → Word)) (tag : List (Nat × Byte))
    (r : Nat) : sget 0 (t.produceV w d sel fs tag).wrote r
      = sget 0 t.wrote r
        + bit (!w && decide (d ≤ r) && decide (r < d + fs.length) && (decide (sel ≠ 0) || !tag.isEmpty)) := by
  cases w
  · exact wrote_noteV _ d fs.length sel tag r
  · simp [Troupe.produceV, Troupe.pushLatch, bit]

/-! ## What writing a result leaves unchanged -/

/-- v results change v cells and tags, the results pending on them, the run and the counts of writes. -/
theorem produceV_frame (t : Troupe) (w : Bool) (d : Nat) (sel : Lanes) (fs : List (Nat → Word)) (tag : List (Nat × Byte)) :
    t.produceV w d sel fs tag = { t with
      v := (t.produceV w d sel fs tag).v, sc := (t.produceV w d sel fs tag).sc, late := (t.produceV w d sel fs tag).late
      wrote := (t.produceV w d sel fs tag).wrote
      run := runWith t.run (some ⟨t.mergedV d sel (fs.headD (fun _ => 0)), t.mergedTag d tag, false⟩) } := by
  cases w <;> rfl

theorem writeS_fold_frame (n : Nat) (t : Troupe) (d : Nat) (f : Nat → Word) :
    (List.range n).foldl (fun t i => t.writeS (d + i) (f i)) t
      = { t with
          s := ((List.range n).foldl (fun t i => t.writeS (d + i) (f i)) t).s
          late := ((List.range n).foldl (fun t i => t.writeS (d + i) (f i)) t).late } := by
  induction n with
  | zero => rfl
  | succ n ih =>
    rw [List.range_succ, List.foldl_append, List.foldl_cons, List.foldl_nil, ih]
    rfl

/-- s results change s registers, the results pending on them, and the run. -/
theorem produceS_frame (t : Troupe) (u w : Bool) (d : Nat) (xs : List Word) :
    t.produceS u w true d xs = { t with
      s := (t.produceS u w true d xs).s, late := (t.produceS u w true d xs).late
      run := runWith t.run (some (t.latchS u (xs.headD 0))) } := by
  cases w
  · unfold Troupe.produceS
    simp only [Bool.not_true, Bool.or_false, Bool.false_eq_true, if_false, if_true]
    rw [writeS_fold_frame]
    rfl
  · rfl

/-! ## A single op with a result -/

section
variable {s : State} {x : Env} {code : Nat} {o : Op} {hdr : DWord} {i : Instr} {body : Env → State → Res}

/-- An op whose own effect is a v result without tag bytes. -/
theorem completes_produceV (h : Runs s x code o hdr) (hx : exec i s = issueOp code i o body s) (w : Bool) (d : Nat)
    (sel : Lanes) (fs : List (Nat → Word)) (hb : body x s = .done (s.setTroupe x.r (x.t.produceV w d sel fs []))) :
    Completes i s x (ends code o x) 1 hdr ((Effect.none x.t).toV x.t w d sel fs []) := by
  have hf := produceV_frame x.t w d sel fs []
  refine completes_of h hx _ _ hb (by rw [hf]; rfl) ?_ ?_ ?_ ?_ ?_
  · intro r l hl
    rw [Troupe.readV_produceV _ _ _ _ _ _ _ _ hl]
    cases w <;> simp [Effect.toV, hasLane, and_assoc]
  · intro r; exact Troupe.readS_produceV ..
  · exact readP_congr (by rw [hf]) (by rw [hf])
  · intro r b _
    rw [Troupe.readTag_produceV_ne _ _ _ _ _ _ _ _ (by simp)]
    simp [Effect.toV]
  · intro r; exact wrote_produceV ..

/-- An op whose own effect is an s result. -/
theorem completes_produceS (h : Runs s x code o hdr) (hx : exec i s = issueOp code i o body s) (u w : Bool) (d : Nat)
    (xs : List Word) (hb : body x s = .done (s.setTroupe x.r (x.t.produceS u w true d xs))) :
    Completes i s x (ends code o x) 1 hdr ((Effect.none x.t).toS x.t u w d xs) := by
  have hf := produceS_frame x.t u w d xs
  refine completes_of h hx _ _ hb (by rw [hf]; rfl) ?_ ?_ ?_ ?_ ?_
  · intro r l _; exact Troupe.readV_produceS ..
  · intro r
    rw [Troupe.readS_produceS]
    cases w <;> simp [Effect.toS]
  · exact readP_congr (by rw [hf]) (by rw [hf])
  · intro r b _; exact Troupe.readTag_produceS ..
  · intro r; rw [hf]; rfl

/-! ## The registers of a result -/

/-- Word `k` of the result `val` of a lane (05 R110). -/
def resultWord (val : Nat → Nat) (k l : Nat) : Word := BitVec.ofNat 32 (val l / 2 ^ (32 * k))

/-- The registers that a result takes. -/
def regCount (wide : Bool) : Nat := if wide then 2 else 1

theorem resultRegs_eq (wide : Bool) (f : Nat → Nat) : resultRegs wide f = (List.range (regCount wide)).map (resultWord f) := by
  cases wide
  · simp [resultRegs, regCount, List.range_succ]
    funext l; simp [resultWord]
  · simp [resultRegs, regCount, List.range_succ]
    constructor <;> funext l <;> simp [resultWord]

/-- The words of a result depend on the result modulo 2^32, or 2^64 for a pair. -/
theorem resultWord_congr {wide : Bool} {f val : Nat → Nat} {k l : Nat} (hk : k < regCount wide)
    (h : f l % 2 ^ (32 * regCount wide) = val l % 2 ^ (32 * regCount wide)) : resultWord f k l = resultWord val k l := by
  apply BitVec.eq_of_toNat_eq
  simp only [resultWord, BitVec.toNat_ofNat]
  cases wide
  · obtain rfl : k = 0 := by simpa [regCount] using hk
    simpa [regCount] using h
  · simp only [regCount, if_true] at hk h
    obtain rfl | rfl : k = 0 ∨ k = 1 := by omega
    · simp only [Nat.reduceMul, Nat.reducePow] at h ⊢; omega
    · simp only [Nat.reduceMul, Nat.reducePow] at h ⊢; omega

theorem tabulate_of_lt {w l : Nat} (f : Nat → Nat) (hl : l < w) : tabulate w f l = f l := by
  simp [tabulate, hl]

/-- The effect of v results depends on their values in the lanes of the troupe. -/
theorem toV_congr (e : Effect) (t : Troupe) (w : Bool) (d : Nat) (sel : Lanes) (n : Nat) (f g : Nat → Nat → Word)
    (tag : List (Nat × Byte)) (h : ∀ k l, k < n → l < t.width → f k l = g k l) :
    e.toV t w d sel ((List.range n).map f) tag = e.toV t w d sel ((List.range n).map g) tag := by
  have hget : ∀ k l, l < t.width →
      ((List.range n).map f).getD k (fun _ => 0) l = ((List.range n).map g).getD k (fun _ => 0) l := by
    intro k l hl
    by_cases hk : k < n
    · simp [List.getD_eq_getElem?_getD, hk, h k l hk hl]
    · simp [List.getD_eq_getElem?_getD, hk]
  unfold Effect.toV
  congr 1
  · funext r l
    simp only [List.length_map, List.length_range]
    by_cases hl : l < t.width
    · rw [hget _ l hl]
    · simp [hl]
  · congr 2
    apply List.map_congr_left
    intro l hl
    have := hget 0 l (List.mem_range.mp hl)
    simp only [List.getD_eq_getElem?_getD, ← List.head?_eq_getElem?, ← List.headD_eq_head?_getD] at this
    rw [this]
  · simp only [List.length_map, List.length_range]

/-- An op of classes 0x1 to 0x6 whose own effect is the result `f` completes with the result `val`, when the two agree in every
bit that its registers hold. -/
theorem completes_result (h : Runs s x code o hdr) (hx : exec i s = issueOp code i o body s) (u wide : Bool)
    (f val : Nat → Nat) (hb : body x s = .done (s.setTroupe x.r (x.t.result u wide o f)))
    (hv : ∀ l, f l % 2 ^ (32 * regCount wide) = val l % 2 ^ (32 * regCount wide)) :
    Completes i s x (ends code o x) 1 hdr (resultEffect x.t u wide o val) := by
  cases u
  · have := completes_produceV h hx o.w o.dst.toNat (x.t.selected o.guard) _ hb
    rw [resultRegs_eq, toV_congr _ _ _ _ _ _ _ (resultWord val)] at this
    · exact this
    · intro k l hk hl
      refine resultWord_congr hk ?_
      rw [tabulate_of_lt f hl, hv]
  · have := completes_produceS h hx true o.w o.dst.toNat _ hb
    rw [resultRegs_eq] at this
    have hw : ((List.range (regCount wide)).map (resultWord fun _ => f 0)).map (fun g => g 0)
        = ((List.range (regCount wide)).map (resultWord val)).map (fun g => g 0) := by
      simp only [List.map_map]
      apply List.map_congr_left
      intro k hk
      exact resultWord_congr (List.mem_range.mp hk) (hv 0)
    rw [hw] at this
    exact this
end

end Sys2Proof.Claims
end

section
/-! SUPPORT. Elements of the integer and logical ops (02 R45; 05 R120, R123, R130): the types that a well-formed op has, and an
op whose result is formed element by element. -/

namespace Sys2Proof.Claims
open Sys2Proof.Machine

/-! ## Types -/

/-- A function field that the encoding rules accept names a type of its opcode. -/
theorem typeOk_of_fnOk {code : Nat} {f : BitVec 13} (hc : code < 0x60) (h : fnOk code f = true) :
    typeOk code (fnType f) = true := by
  unfold fnOk at h
  rw [if_neg (by simp; omega)] at h
  simp only [Bool.and_eq_true] at h
  exact h.1.1

theorem opType_mem {code n : Nat} (hc : code < 0x60) (hd : (opTypes code).2 ∈ (opTypes code).1)
    (h : typeOk code n = true) : opType code n ∈ (opTypes code).1 := by
  unfold typeOk at h
  rw [if_neg (by simp; omega)] at h
  unfold opType
  split
  · exact hd
  · next hn => simpa [hn] using h

/-- What the encoding rules say of a well-formed op of classes 0x1 and 0x2. -/
theorem classes17_of_wf {code : Nat} {o : Op} (hc : code / 32 = 1 ∨ code / 32 = 2) (h : o.wf code = true) :
    extShape code o = true ∧ classes17 code o = true ∧ o.wfExt code = true := by
  unfold Op.wf Op.wfWord at h
  rcases hc with hc | hc <;> simpa only [hc, Bool.and_eq_true, and_assoc] using h

/-- The type of a well-formed op of classes 0x1 and 0x2 is one that its opcode accepts (03 R78, R79; 05 R123, R130). -/
theorem tyOf_mem {code : Nat} {o : Op} (hc : code / 32 = 1 ∨ code / 32 = 2) (hd : (opTypes code).2 ∈ (opTypes code).1)
    (h : o.wf code = true) : tyOf code o ∈ (opTypes code).1 := by
  obtain ⟨hext, h17, hwe⟩ := classes17_of_wf hc h
  have hlt : code < 0x60 := by omega
  refine opType_mem hlt hd ?_
  by_cases hin : fnInExt code o = true
  · obtain ⟨h3, hni⟩ : threeSource code = true ∧ hasImm code o = false := by simpa [fnInExt] using hin
    cases he : o.ext with
    | none => simp [extShape, he, h3, hni] at hext
    | some y =>
      have hfn : fnOk code (y.value.extractLsb' 0 13) = true := by
        simp only [Op.wfExt, he, hin, Bool.not_true, Bool.false_or, Bool.and_eq_true] at hwe
        exact hwe.1.1.2
      simpa [fnField, h3, hni, he] using typeOk_of_fnOk hlt hfn
  · have hfn : fnOk code (fnField code o) = true := by
      simp only [classes17, hin, Bool.false_or, Bool.and_eq_true] at h17
      simp [h17]
    exact typeOk_of_fnOk hlt hfn

/-- An integer type fills its place in a register. -/
theorem slotBits_int {ty : Nat} (h : ty ∈ intTypes) : slotBits ty = typeBits ty ∧ 8 ≤ slotBits ty := by
  simp only [intTypes, List.mem_cons, List.not_mem_nil, or_false] at h
  rcases h with rfl | rfl | rfl | rfl | rfl | rfl | rfl | rfl <;> decide

/-! ## Values of elements -/

theorem toSigned_toNat {w : Nat} (hw : 0 < w) (a : BitVec w) : toSigned w a.toNat = a.toInt := by
  obtain ⟨n, rfl⟩ : ∃ n, w = n + 1 := ⟨w - 1, by omega⟩
  have hpow : 2 ^ (n + 1) = 2 ^ n * 2 := Nat.pow_succ 2 n
  simp only [toSigned, BitVec.toInt_eq_toNat_cond, Nat.add_sub_cancel]
  by_cases h : a.toNat < 2 ^ n
  · rw [if_pos h, if_pos (by omega)]
  · rw [if_neg h, if_neg (by omega), Int.natCast_pow]
    rfl

/-- An element read in its type. -/
theorem ev_toNat {ty : Nat} (h : ty ∈ intTypes) (a : BitVec (slotBits ty)) :
    ev ty a.toNat = if typeSigned ty then a.toInt else a.toNat := by
  obtain ⟨hs, hw⟩ := slotBits_int h
  simp only [ev, intVal, ← hs, toSigned_toNat (by omega : 0 < slotBits ty)]

theorem wrap_eq_ofInt (w : Nat) (v : Int) : wrap w v = (BitVec.ofInt w v).toNat := by
  simp [wrap, BitVec.toNat_ofInt]

theorem elemOf_lt (w v j : Nat) : elemOf w v j < 2 ^ w := Nat.mod_lt _ (Nat.two_pow_pos w)

theorem toNat_elemOf (w v j : Nat) : (BitVec.ofNat w (elemOf w v j)).toNat = elemOf w v j := by
  simp [elemOf]

/-! ## Ops that act on each element -/

/-- `g`, on the numbers that elements are, is `F` on the elements, for every type that an opcode accepts. -/
def Computes (code : Nat) (g : Nat → Nat → Nat → Nat → Nat → Nat)
    (F : Bool → (w : Nat) → BitVec w → BitVec w → BitVec w → BitVec w) : Prop :=
  ∀ ty ∈ (opTypes code).1, ∀ a b c : BitVec (slotBits ty),
    g ty (slotBits ty) a.toNat b.toNat (if threeSource code then c.toNat else 0) % 2 ^ slotBits ty
      = (F (typeSigned ty) (slotBits ty) a b c).toNat

/-- An op that forms its result element by element (05 R124). -/
theorem elementsOf_of {i : Op → Instr} {code : Nat} {g : Nat → Nat → Nat → Nat → Nat → Nat}
    {F : Bool → (w : Nat) → BitVec w → BitVec w → BitVec w → BitVec w} (hc : code / 32 = 1 ∨ code / 32 = 2)
    (hd : (opTypes code).2 ∈ (opTypes code).1) (hx : ∀ o s, exec (i o) s = issueOp code (i o) o (elemOp code o g) s)
    (hg : Computes code g F) : ElementsOf i code F := by
  intro s x o hdr h
  refine completes_result h (hx o s) _ _ _ _ rfl fun l => congrArg (· % _) ?_
  have hty := tyOf_mem hc hd h.form
  simp only [elementwise, elements]
  congr 1
  apply List.map_congr_left
  intro j _
  rw [← hg _ hty]
  simp only [toNat_elemOf]
  split
  · rfl
  · simp [elemOf]

end Sys2Proof.Claims
end

section
/-! SUPPORT. The integer ops on each element (05 R123, R125). -/

namespace Sys2Proof.Claims
open Sys2Proof.Machine

theorem computes_add : Computes 0x020 (fun _ _ a b _ => a + b) (fun _ _ a b _ => a + b) :=
  fun _ _ a b _ => (BitVec.toNat_add a b).symm

theorem computes_sub : Computes 0x021 (fun _ w a b _ => a + 2 ^ w - b) (fun _ _ a b _ => a - b) := by
  intro ty _ a b _
  have := b.isLt
  rw [BitVec.toNat_sub', ← Nat.add_sub_assoc (Nat.le_of_lt this)]

theorem computes_addc : Computes 0x022 (fun _ w a b _ => if 2 ^ w ≤ a + b then 1 else 0)
    (fun _ w a b _ => BitVec.ofNat w (if 2 ^ w ≤ a.toNat + b.toNat then 1 else 0)) :=
  fun _ _ _ _ _ => (BitVec.toNat_ofNat ..).symm

theorem computes_mul : Computes 0x023 (fun _ _ a b _ => a * b) (fun _ _ a b _ => a * b) :=
  fun _ _ a b _ => (BitVec.toNat_mul a b).symm

theorem computes_mad : Computes 0x025 (fun _ _ a b c => a * b + c) (fun _ _ a b c => a * b + c) := by
  intro ty _ a b c
  simp [threeSource]

theorem computes_mulh : Computes 0x024 (fun ty w a b _ => mulhElem ty w a b)
    (fun signed w a b _ =>
      if signed then BitVec.ofInt w ((a.toInt * b.toInt) / 2 ^ w) else BitVec.ofNat w (a.toNat * b.toNat / 2 ^ w)) := by
  intro ty hty a b _
  have hpos : (0 : Int) ≤ 2 ^ slotBits ty := Int.pow_nonneg (by decide)
  simp only [mulhElem, ev_toNat hty, Int.fdiv_eq_ediv_of_nonneg _ hpos, wrap_eq_ofInt, BitVec.toNat_mod_cancel]
  cases typeSigned ty
  · simp only [Bool.false_eq_true, if_false]
    rw [← BitVec.ofInt_natCast]
    push_cast
    rfl
  · rfl

/-- The order of two elements in their type. -/
theorem ev_lt_ev {ty : Nat} (h : ty ∈ intTypes) (a b : BitVec (slotBits ty)) :
    ev ty a.toNat < ev ty b.toNat ↔ (if typeSigned ty then a.slt b else a.ult b) = true := by
  simp only [ev_toNat h]
  cases typeSigned ty
  · simp [BitVec.ult]
  · simp [BitVec.slt]

theorem toNat_ite_mod {w : Nat} {p : Prop} [Decidable p] (a b : BitVec w) :
    (if p then a.toNat else b.toNat) % 2 ^ w = (if p then a else b).toNat := by
  split <;> exact BitVec.toNat_mod_cancel _

theorem computes_min : Computes 0x028 (fun ty _ a b _ => minElem ty a b)
    (fun signed _ a b _ => if (if signed then b.slt a else b.ult a) then b else a) := by
  intro ty hty a b _
  simp only [minElem, ev_lt_ev hty]
  exact toNat_ite_mod b a

theorem computes_max : Computes 0x029 (fun ty _ a b _ => maxElem ty a b)
    (fun signed _ a b _ => if (if signed then a.slt b else a.ult b) then b else a) := by
  intro ty hty a b _
  simp only [maxElem, ev_lt_ev hty]
  exact toNat_ite_mod b a

theorem computes_abs : Computes 0x02A (fun ty w a _ _ => absElem ty w a) (fun _ _ a _ _ => if a.msb then -a else a) := by
  intro ty hty a _ _
  have hs : typeSigned ty = true ∧ ty ∈ intTypes := by
    simp [opTypes] at hty
    rcases hty with rfl | rfl | rfl | rfl <;> decide
  simp only [absElem, ev_toNat hs.2, hs.1, if_true, wrap_eq_ofInt, BitVec.toNat_mod_cancel, BitVec.msb_eq_toInt, decide_eq_true_eq]
  congr 1
  split
  · next h => rw [Int.ofNat_natAbs_of_nonpos (Int.le_of_lt h), BitVec.ofInt_neg, BitVec.ofInt_toInt]
  · next h => rw [Int.natAbs_of_nonneg (by omega), BitVec.ofInt_toInt]

theorem computes_neg : Computes 0x02B (fun _ w a _ _ => 2 ^ w - a) (fun _ _ a _ _ => -a) :=
  fun _ _ a _ _ => (BitVec.toNat_neg a).symm

theorem toInt_allOnes_of_pos {w : Nat} (hw : 0 < w) : (BitVec.allOnes w).toInt = -1 := by
  rw [BitVec.toInt_allOnes, if_pos hw]

/-- The quotient that overflows (05 R125) is the one that the division rounds to, modulo 2^w. -/
theorem ofInt_tdiv_intMin {w : Nat} (hw : 0 < w) :
    BitVec.ofInt w (Int.tdiv (BitVec.intMin w).toInt (BitVec.allOnes w).toInt) = BitVec.intMin w := by
  rw [toInt_allOnes_of_pos hw, Int.tdiv_neg, Int.tdiv_one, BitVec.ofInt_neg, BitVec.ofInt_toInt, BitVec.neg_intMin]

theorem ofInt_tmod_intMin {w : Nat} (hw : 0 < w) :
    BitVec.ofInt w (Int.tmod (BitVec.intMin w).toInt (BitVec.allOnes w).toInt) = 0 := by
  rw [toInt_allOnes_of_pos hw, Int.tmod_neg, Int.tmod_one]
  simp

/-- A division of elements (05 R125) with its exceptional cases: `zero` for a zero divisor, `corner` for the most negative
dividend and the divisor -1, which is what the signed operation `op` gives there modulo 2^w. -/
theorem toNat_divided {ty : Nat} (hty : ty ∈ intTypes) (a b zero corner : BitVec (slotBits ty)) (op : Int → Int → Int) (n : Nat)
    (hcorner : BitVec.ofInt (slotBits ty) (op (BitVec.intMin (slotBits ty)).toInt (BitVec.allOnes (slotBits ty)).toInt) = corner) :
    (if b.toNat = 0 then zero.toNat
      else if typeSigned ty then wrap (slotBits ty) (op (ev ty a.toNat) (ev ty b.toNat)) else n) % 2 ^ slotBits ty
    = (if b = 0 then zero
      else if typeSigned ty && a = BitVec.intMin _ && b = BitVec.allOnes _ then corner
      else if typeSigned ty then BitVec.ofInt _ (op a.toInt b.toInt) else BitVec.ofNat _ n).toNat := by
  simp only [ev_toNat hty]
  by_cases hb : b = 0
  · rw [if_pos hb, if_pos (by simp [hb]), BitVec.toNat_mod_cancel]
  · rw [if_neg hb, if_neg (fun h : b.toNat = 0 => hb (BitVec.eq_of_toNat_eq h))]
    cases typeSigned ty
    · simp
    · simp only [if_true, wrap_eq_ofInt, BitVec.toNat_mod_cancel, Bool.true_and, Bool.and_eq_true, decide_eq_true_eq]
      split
      · next h => rw [h.1, h.2, hcorner]
      · rfl

theorem computes_idiv : Computes 0x026 (fun ty w a b _ => divElem ty w a b)
    (fun signed w a b _ =>
      if b = 0 then BitVec.allOnes w
      else if signed && a = BitVec.intMin w && b = BitVec.allOnes w then BitVec.intMin w
      else if signed then BitVec.ofInt w (Int.tdiv a.toInt b.toInt) else BitVec.ofNat w (a.toNat / b.toNat)) := by
  intro ty hty a b _
  have hw := (slotBits_int hty).2
  refine Eq.trans ?_ (toNat_divided hty a b _ _ Int.tdiv _ (ofInt_tdiv_intMin (by omega)))
  rw [BitVec.toNat_allOnes]
  rfl

theorem computes_irem : Computes 0x027 (fun ty w a b _ => remElem ty w a b)
    (fun signed w a b _ =>
      if b = 0 then a
      else if signed && a = BitVec.intMin w && b = BitVec.allOnes w then 0
      else if signed then BitVec.ofInt w (Int.tmod a.toInt b.toInt) else BitVec.ofNat w (a.toNat % b.toNat)) := by
  intro ty hty a b _
  have hw := (slotBits_int hty).2
  exact toNat_divided hty a b _ _ Int.tmod _ (ofInt_tmod_intMin (by omega))

/-! ## The statement -/

theorem integerResults : IntegerResults :=
  ⟨elementsOf_of (.inl rfl) (by decide) (fun _ _ => rfl) computes_add,
    elementsOf_of (.inl rfl) (by decide) (fun _ _ => rfl) computes_sub,
    elementsOf_of (.inl rfl) (by decide) (fun _ _ => rfl) computes_addc,
    elementsOf_of (.inl rfl) (by decide) (fun _ _ => rfl) computes_mul,
    elementsOf_of (.inl rfl) (by decide) (fun _ _ => rfl) computes_mulh,
    elementsOf_of (.inl rfl) (by decide) (fun _ _ => rfl) computes_mad,
    elementsOf_of (.inl rfl) (by decide) (fun _ _ => rfl) computes_min,
    elementsOf_of (.inl rfl) (by decide) (fun _ _ => rfl) computes_max,
    elementsOf_of (.inl rfl) (by decide) (fun _ _ => rfl) computes_abs,
    elementsOf_of (.inl rfl) (by decide) (fun _ _ => rfl) computes_neg⟩

theorem divisionResults : DivisionResults :=
  ⟨elementsOf_of (.inl rfl) (by decide) (fun _ _ => rfl) computes_idiv,
    elementsOf_of (.inl rfl) (by decide) (fun _ _ => rfl) computes_irem⟩

/-- Settles O8: each op is one function of its elements, and the number that the model forms is that function's value modulo
2^w. -/
theorem integerAndDivisionResults : Obligations.IntegerAndDivisionResults := ⟨integerResults, divisionResults⟩

end Sys2Proof.Claims
end

section
/-! SUPPORT. The logical and bit-field ops on each element (05 R130 to R134). -/

namespace Sys2Proof.Claims
open Sys2Proof.Machine

/-! ## Bitwise ops and shifts (R130, R131) -/

theorem computes_and : Computes 0x040 (fun _ _ a b _ => a &&& b) (fun _ _ a b _ => a &&& b) :=
  fun _ _ a b _ => BitVec.toNat_mod_cancel (a &&& b)

theorem computes_or : Computes 0x041 (fun _ _ a b _ => a ||| b) (fun _ _ a b _ => a ||| b) :=
  fun _ _ a b _ => BitVec.toNat_mod_cancel (a ||| b)

theorem computes_xor : Computes 0x042 (fun _ _ a b _ => a ^^^ b) (fun _ _ a b _ => a ^^^ b) :=
  fun _ _ a b _ => BitVec.toNat_mod_cancel (a ^^^ b)

theorem computes_not : Computes 0x043 (fun _ w a _ _ => 2 ^ w - 1 - a) (fun _ _ a _ _ => ~~~a) := by
  intro ty _ a _ _
  rw [← BitVec.toNat_mod_cancel (~~~a), BitVec.toNat_not]

theorem computes_shl : Computes 0x044 (fun _ w a b _ => if w ≤ b then 0 else a * 2 ^ b)
    (fun _ w a b _ => if w ≤ b.toNat then 0 else a <<< b.toNat) := by
  intro ty _ a b _
  dsimp only
  split
  · simp
  · rw [BitVec.toNat_shiftLeft, Nat.shiftLeft_eq]

theorem computes_shr : Computes 0x045 (fun _ w a b _ => if w ≤ b then 0 else a / 2 ^ b)
    (fun _ w a b _ => if w ≤ b.toNat then 0 else a >>> b.toNat) := by
  intro ty _ a b _
  dsimp only
  split
  · simp
  · rw [← Nat.shiftRight_eq_div_pow, ← BitVec.toNat_ushiftRight, BitVec.toNat_mod_cancel]

/-- The top bit of an element. -/
theorem msb_iff_div {w : Nat} (a : BitVec w) : a.toNat / 2 ^ (w - 1) % 2 = 1 ↔ a.msb = true := by
  rw [BitVec.msb_eq_getLsbD_last, BitVec.getLsbD, Nat.testBit_eq_decide_div_mod_eq, decide_eq_true_eq]

/-- A negative element shifted right: copies of the top bit come in from the left. -/
theorem toNat_sshiftRight_of_msb {w : Nat} (a : BitVec w) (n : Nat) (hn : n < w) (h : a.msb = true) :
    (a.sshiftRight n).toNat = a.toNat / 2 ^ n + (2 ^ w - 2 ^ (w - n)) := by
  have hpow : 2 ^ w = 2 ^ n * 2 ^ (w - n) := by rw [← Nat.pow_add]; congr 1; omega
  have ha : a.toNat < 2 ^ n * 2 ^ (w - n) := hpow ▸ a.isLt
  have hq : a.toNat / 2 ^ n < 2 ^ (w - n) := Nat.div_lt_of_lt_mul ha
  have hm : 2 ^ (w - n) ≤ 2 ^ w := Nat.pow_le_pow_right Nat.two_pos (by omega)
  have hsub : 2 ^ w - 1 - a.toNat = 2 ^ n * 2 ^ (w - n) - (a.toNat + 1) := by rw [hpow]; omega
  have hdiv := Nat.mul_sub_div _ _ _ ha
  rw [BitVec.toNat_sshiftRight_of_msb_true h, Nat.shiftRight_eq_div_pow, hsub, hdiv]
  generalize a.toNat / 2 ^ n = q at hq ⊢
  omega

theorem computes_sar : Computes 0x046 (fun _ w a b _ => sarElem w a b)
    (fun _ w a b _ => if w ≤ b.toNat then (if a.msb then BitVec.allOnes w else 0) else a.sshiftRight b.toNat) := by
  intro ty _ a b _
  simp only [sarElem, msb_iff_div]
  split
  · split
    · rw [← BitVec.toNat_allOnes, BitVec.toNat_mod_cancel]
    · simp
  · next hb =>
    rw [← BitVec.toNat_mod_cancel (a.sshiftRight b.toNat)]
    congr 1
    split
    · next h => rw [toNat_sshiftRight_of_msb a _ (by omega) h]
    · next h =>
      rw [BitVec.sshiftRight_eq_of_msb_false (by simpa using h), BitVec.toNat_ushiftRight, Nat.shiftRight_eq_div_pow,
        Nat.add_zero]

/-- A rotation as a sum: the bits shifted out at the left fill the places that the shift leaves. -/
theorem toNat_rotateLeft_eq_add {w n : Nat} (a : BitVec w) (hn : n < w) :
    (a.rotateLeft n).toNat = a.toNat * 2 ^ n % 2 ^ w + a.toNat / 2 ^ (w - n) := by
  have hpow : 2 ^ w = 2 ^ n * 2 ^ (w - n) := by rw [← Nat.pow_add]; congr 1; omega
  have hlow : a.toNat / 2 ^ (w - n) < 2 ^ n := Nat.div_lt_of_lt_mul (by rw [Nat.mul_comm, ← hpow]; exact a.isLt)
  have hhigh : a.toNat * 2 ^ n % 2 ^ w = 2 ^ n * (a.toNat % 2 ^ (w - n)) := by
    rw [hpow, Nat.mul_comm a.toNat, Nat.mul_mod_mul_left]
  rw [BitVec.toNat_rotateLeft, Nat.mod_eq_of_lt hn, Nat.shiftLeft_eq, Nat.shiftRight_eq_div_pow, hhigh,
    Nat.two_pow_add_eq_or_of_lt hlow]

theorem computes_rot : Computes 0x047 (fun _ w a b _ => rotElem w a b) (fun _ w a b _ => a.rotateLeft (b.toNat % w)) := by
  intro ty hty a b _
  have hw := (slotBits_int hty).2
  rw [← BitVec.toNat_mod_cancel (a.rotateLeft _), toNat_rotateLeft_eq_add a (Nat.mod_lt _ (by omega))]
  rfl

/-! ## Counts and reversal (R130, R133) -/

theorem find?_topBit {w : Nat} (a : BitVec w) (ha : a.toNat ≠ 0) :
    (List.range w).find? (fun i => a.getLsbD (w - 1 - i)) = some (w - 1 - a.toNat.log2) := by
  have hlog : a.toNat.log2 < w := (Nat.log2_lt ha).mpr a.isLt
  rw [List.find?_range_eq_some]
  refine ⟨?_, by simp; omega, fun j hj => ?_⟩
  · have : w - 1 - (w - 1 - a.toNat.log2) = a.toNat.log2 := by omega
    rw [this]
    exact Nat.testBit_log2 ha
  · have : a.toNat < 2 ^ (w - 1 - j) :=
      Nat.lt_of_lt_of_le Nat.lt_log2_self (Nat.pow_le_pow_right Nat.two_pos (by omega))
    simp [BitVec.getLsbD, Nat.testBit_lt_two_pow this]

theorem computes_clz : Computes 0x048 (fun _ w a _ _ => clzElem w a)
    (fun _ w a _ _ => BitVec.ofNat w (((List.range w).find? (fun i => a.getLsbD (w - 1 - i))).getD w)) := by
  intro ty _ a _ _
  rw [BitVec.toNat_ofNat]
  congr 1
  by_cases ha : a.toNat = 0
  · have : a = 0 := BitVec.eq_of_toNat_eq ha
    have hnone : (List.range (slotBits ty)).find? (fun i => a.getLsbD (slotBits ty - 1 - i)) = none := by simp [this]
    rw [hnone, Option.getD_none]
    exact if_pos ha
  · simp [clzElem, ha, find?_topBit a ha]

theorem popElem_eq (w n : Nat) : popElem w n = ((List.range w).filter n.testBit).length := by
  induction w generalizing n with
  | zero => rfl
  | succ w ih =>
    rw [popElem, ih, List.range_succ_eq_map, List.filter_cons, List.filter_map, Nat.testBit_zero]
    have : n.testBit ∘ Nat.succ = (n / 2).testBit := by funext i; simp [Nat.testBit_succ]
    rw [this]
    rcases Nat.mod_two_eq_zero_or_one n with h | h <;> simp [h, Nat.add_comm]

theorem computes_popc : Computes 0x049 (fun _ w a _ _ => popElem w a)
    (fun _ w a _ _ => BitVec.ofNat w ((List.range w).filter a.getLsbD).length) := by
  intro ty _ a _ _
  rw [BitVec.toNat_ofNat]
  exact congrArg (· % _) (popElem_eq _ _)

theorem brevElem_lt (w n : Nat) : brevElem w n < 2 ^ w := by
  induction w generalizing n with
  | zero => simp [brevElem]
  | succ w ih =>
    have hlow := ih (n / 2)
    rw [brevElem, Nat.pow_succ]
    rcases Nat.mod_two_eq_zero_or_one n with h | h <;> rw [h] <;> omega

theorem testBit_brevElem (w n i : Nat) (hi : i < w) : (brevElem w n).testBit i = n.testBit (w - 1 - i) := by
  induction w generalizing n i with
  | zero => omega
  | succ w ih =>
    rw [brevElem, Nat.mul_comm, Nat.testBit_two_pow_mul_add _ (brevElem_lt w _)]
    split
    · next h =>
      rw [ih _ _ h, ← Nat.testBit_succ]
      congr 1; omega
    · obtain rfl : i = w := by omega
      simp

theorem computes_brev : Computes 0x04A (fun _ w a _ _ => brevElem w a) (fun _ _ a _ _ => a.reverse) := by
  intro ty _ a _ _
  refine (Nat.mod_eq_of_lt (brevElem_lt _ _)).trans (Nat.eq_of_testBit_eq fun i => ?_)
  by_cases hi : i < slotBits ty
  · rw [testBit_brevElem _ _ _ hi]
    exact (BitVec.getLsbD_reverse.trans (by simp [BitVec.getMsbD, hi, BitVec.getLsbD])).symm
  · rw [Nat.testBit_lt_two_pow (Nat.lt_of_lt_of_le (brevElem_lt _ _) (Nat.pow_le_pow_right Nat.two_pos (by omega))),
      Nat.testBit_lt_two_pow (Nat.lt_of_lt_of_le a.reverse.isLt (Nat.pow_le_pow_right Nat.two_pos (by omega)))]

/-! ## Bit fields (R132) -/

theorem toNat_extractLsb'_ofNat {w pos len : Nat} (n : Nat) (h : pos + len ≤ w) :
    ((BitVec.ofNat w n).extractLsb' pos len).toNat = n / 2 ^ pos % 2 ^ len := by
  rw [BitVec.extractLsb'_toNat, BitVec.toNat_ofNat, Nat.shiftRight_eq_div_pow]
  apply Nat.eq_of_testBit_eq
  intro i
  simp only [Nat.testBit_mod_two_pow, Nat.testBit_div_two_pow]
  by_cases hi : i < len <;> simp [hi]
  omega

/-- BFX takes the field out. -/
theorem bfxElem_eq (ty w n c : Nat) : bfxElem ty w n c =
    (let pos := c % 256
     let len := min (c / 256 % 256) (w - pos)
     let a : BitVec w := BitVec.ofNat w n
     if c / 256 % 256 = 0 || w ≤ pos then 0
     else if typeSigned ty then ((a.extractLsb' pos len).signExtend w).toNat else (a.extractLsb' pos len).toNat) := by
  by_cases h : (decide (c / 256 % 256 = 0) || decide (w ≤ c % 256)) = true
  · exact (if_pos h).trans (if_pos h).symm
  · refine (if_neg h).trans (Eq.trans ?_ (if_neg h).symm)
    simp only [bfLen, bfPos]
    simp only [Bool.or_eq_true, decide_eq_true_eq, not_or] at h
    obtain ⟨hlen, hpos⟩ := h
    generalize c % 256 = pos at hpos ⊢
    generalize hl : min (c / 256 % 256) (w - pos) = len
    rw [← toNat_extractLsb'_ofNat (w := w) n (by omega), toSigned_toNat (by omega), wrap_eq_ofInt]
    rfl

/-- BFI as a number: the bits below the field, the field, and the bits above it. -/
theorem testBit_bfi (a b pos len i : Nat) :
    (a % 2 ^ pos + b % 2 ^ len * 2 ^ pos + a / (2 ^ pos * 2 ^ len) * (2 ^ pos * 2 ^ len)).testBit i
      = if pos ≤ i ∧ i < pos + len then b.testBit (i - pos) else a.testBit i := by
  have hsum : a % 2 ^ pos + b % 2 ^ len * 2 ^ pos + a / (2 ^ pos * 2 ^ len) * (2 ^ pos * 2 ^ len)
      = 2 ^ pos * (2 ^ len * (a / 2 ^ (pos + len)) + b % 2 ^ len) + a % 2 ^ pos := by
    rw [Nat.pow_add, Nat.mul_add, Nat.mul_comm (b % 2 ^ len), Nat.mul_comm (a / _), Nat.mul_assoc]
    omega
  rw [hsum, Nat.testBit_two_pow_mul_add _ (Nat.mod_lt _ (Nat.two_pow_pos _)),
    Nat.testBit_two_pow_mul_add _ (Nat.mod_lt _ (Nat.two_pow_pos _)), Nat.testBit_mod_two_pow, Nat.testBit_mod_two_pow,
    Nat.testBit_div_two_pow]
  by_cases h1 : i < pos
  · simp [h1, show ¬pos ≤ i by omega]
  · by_cases h2 : i < pos + len
    · simp [h1, h2, show pos ≤ i by omega, show i - pos < len by omega]
    · simp [h1, h2, show ¬i - pos < len by omega, show i - pos - len + (pos + len) = i by omega]

/-- The ones of a field of `len` bits at `pos`. -/
theorem getLsbD_fieldMask (w pos len i : Nat) :
    (((BitVec.allOnes len).setWidth w) <<< pos).getLsbD i = (decide (i < w) && decide (pos ≤ i ∧ i < pos + len)) := by
  simp only [BitVec.getLsbD_shiftLeft, BitVec.getLsbD_setWidth, BitVec.getLsbD_allOnes]
  by_cases h1 : i < pos
  · simp [h1, show ¬pos ≤ i by omega]
  · by_cases h2 : i < w
    · simp [h1, h2, show pos ≤ i by omega, show i - pos < w by omega, Nat.sub_lt_iff_lt_add' (show pos ≤ i by omega)]
    · simp [h2]

theorem toNat_insertField (w a b pos len : Nat) :
    (a % 2 ^ pos + b % 2 ^ len * 2 ^ pos + a / (2 ^ pos * 2 ^ len) * (2 ^ pos * 2 ^ len)) % 2 ^ w
      = (let mask : BitVec w := ((BitVec.allOnes len).setWidth w) <<< pos
         ((BitVec.ofNat w a &&& ~~~mask) ||| ((BitVec.ofNat w b <<< pos) &&& mask)).toNat) := by
  apply Nat.eq_of_testBit_eq
  intro i
  change _ = BitVec.getLsbD _ i
  rw [Nat.testBit_mod_two_pow, testBit_bfi]
  have hmask := getLsbD_fieldMask w pos len i
  generalize (BitVec.setWidth w (BitVec.allOnes len)) <<< pos = mask at hmask ⊢
  simp only [BitVec.getLsbD_or, BitVec.getLsbD_and, BitVec.getLsbD_not, BitVec.getLsbD_shiftLeft, BitVec.getLsbD_ofNat, hmask]
  by_cases hi : i < w
  · by_cases hin : pos ≤ i ∧ i < pos + len
    · simp [hi, hin, show ¬i < pos by omega, show i - pos < w by omega]
    · simp [hi, hin]
  · simp [hi]

/-- BFI puts the field in. -/
theorem bfiElem_eq (w a b c : Nat) : bfiElem w a b c % 2 ^ w =
    (let pos := c % 256
     let len := min (c / 256 % 256) (w - pos)
     let mask : BitVec w := ((BitVec.allOnes len).setWidth w) <<< pos
     if c / 256 % 256 = 0 || w ≤ pos then (BitVec.ofNat w a).toNat
     else ((BitVec.ofNat w a &&& ~~~mask) ||| ((BitVec.ofNat w b <<< pos) &&& mask)).toNat) % 2 ^ w := by
  by_cases h : (decide (c / 256 % 256 = 0) || decide (w ≤ c % 256)) = true
  · refine (congrArg (· % 2 ^ w) (if_pos h)).trans (Eq.trans ?_ (congrArg (· % 2 ^ w) (if_pos h)).symm)
    simp only [BitVec.toNat_ofNat, Nat.mod_mod]
  · refine (congrArg (· % 2 ^ w) (if_neg h)).trans (Eq.trans ?_ (congrArg (· % 2 ^ w) (if_neg h)).symm)
    exact (toNat_insertField w a b _ _).trans (BitVec.toNat_mod_cancel _).symm

/-- The control of a well-formed BFI is a 32-bit word without a sign modifier. -/
theorem controlForm_of_wf {o : Op} (h : o.wf 0x04C = true) :
    formOk (.word false) (fieldType 0x04C (fnField 0x04C o)) false o.ext.isSome o.srcC = true := by
  obtain ⟨-, h17, -⟩ := classes17_of_wf (code := 0x04C) (.inr rfl) h
  simp only [classes17, Bool.and_eq_true, Bool.or_eq_true] at h17
  obtain ⟨⟨⟨-, h3⟩, -⟩, -⟩ := h17
  simpa [opForm, threeSource] using h3

/-- The 32-bit control of BFI reads alike for every type, since the encoding rules refuse it a sign modifier and an immediate
without extension word (03 R74, R76; 05 R132). -/
theorem bfControl_eq {o : Op} {y : Src} {t t' : Nat} (hf : formOk (.word false) t' false o.ext.isSome y = true) (u : Troupe)
    (l : Nat) : bfControl t o y u l = u.operand 6 o y l := by
  unfold bfControl Troupe.operand
  by_cases hi : y.isImm = true
  · cases he : o.ext with
    | none => simp [formOk, hi, immOk, he] at hf
    | some e =>
      rw [if_pos hi, if_pos hi]
      cases typeSigned t <;> simp [immValue, he]
  · rw [if_neg hi, if_neg hi]
    cases typeSigned t
    · rfl
    · cases hm : y.mod <;> simp_all [formOk, modOk, Modifier.isSign, applyMod, type64]

/-! ## The statements -/

theorem bitwiseResults : BitwiseResults :=
  ⟨elementsOf_of (.inr rfl) (by decide) (fun _ _ => rfl) computes_and,
    elementsOf_of (.inr rfl) (by decide) (fun _ _ => rfl) computes_or,
    elementsOf_of (.inr rfl) (by decide) (fun _ _ => rfl) computes_xor,
    elementsOf_of (.inr rfl) (by decide) (fun _ _ => rfl) computes_not⟩

theorem shiftResults : ShiftResults :=
  ⟨elementsOf_of (.inr rfl) (by decide) (fun _ _ => rfl) computes_shl,
    elementsOf_of (.inr rfl) (by decide) (fun _ _ => rfl) computes_shr,
    elementsOf_of (.inr rfl) (by decide) (fun _ _ => rfl) computes_sar,
    elementsOf_of (.inr rfl) (by decide) (fun _ _ => rfl) computes_rot⟩

theorem bitCountResults : BitCountResults :=
  ⟨elementsOf_of (.inr rfl) (by decide) (fun _ _ => rfl) computes_clz,
    elementsOf_of (.inr rfl) (by decide) (fun _ _ => rfl) computes_popc,
    elementsOf_of (.inr rfl) (by decide) (fun _ _ => rfl) computes_brev⟩

/-- A result of the types that BFX and BFI take fills the registers that it is written to. -/
theorem regCount_bits {ty : Nat} (h : ty ∈ [5, 6, 7, 8]) : 32 * regCount (type64 ty) = typeBits ty := by
  simp only [List.mem_cons, List.not_mem_nil, or_false] at h
  rcases h with rfl | rfl | rfl | rfl <;> rfl

theorem bitFieldAndSelectResults : BitFieldAndSelectResults := by
  intro s x o hdr
  refine ⟨fun h => ?_, fun h => ?_, fun h => ?_⟩
  · refine completes_result h rfl _ _ _ _ rfl fun l => congrArg (· % _) ?_
    exact bfxElem_eq _ _ _ _
  · refine completes_result h rfl _ _ _ _ rfl fun l => ?_
    have hty := tyOf_mem (.inr rfl) (by decide) h.form
    rw [regCount_bits hty]
    have hform := controlForm_of_wf h.form
    rw [← bfControl_eq (t := tyOf 0x04C o) hform x.t l]
    exact bfiElem_eq _ _ _ _
  · exact completes_result h rfl _ _ _ _ rfl fun l => rfl

/-- Settles O10, element by element as for the integer ops. -/
theorem bitwiseAndShiftResults : Obligations.BitwiseAndShiftResults := ⟨bitwiseResults, shiftResults⟩

/-- Settles O11: the counts and BREV element by element, BFX and BFI bit by bit in the registers that hold them. -/
theorem bitCountAndFieldResults : Obligations.BitCountAndFieldResults := ⟨bitCountResults, bitFieldAndSelectResults⟩

end Sys2Proof.Claims
end

section
/-! SUPPORT. Lane masks, the lanes that a transfer sends, and the trap of those that it cannot send (01 R15; 03 R90; 05 R113). -/

namespace Sys2Proof.Machine

/-! ## Lanes of masks -/

theorem hasLane_lt {m : Lanes} {l : Nat} (h : hasLane m l = true) : l < 128 := Troupe.lane_lt h

@[simp] theorem hasLane_zero (l : Nat) : hasLane 0#128 l = false := by simp [hasLane]
@[simp] theorem hasLane_or (a b : Lanes) (l : Nat) : hasLane (a ||| b) l = (hasLane a l || hasLane b l) := by simp [hasLane]
@[simp] theorem hasLane_and (a b : Lanes) (l : Nat) : hasLane (a &&& b) l = (hasLane a l && hasLane b l) := by simp [hasLane]

theorem lanes_ext {a b : Lanes} (h : ∀ l, hasLane a l = hasLane b l) : a = b := BitVec.eq_of_getLsbD_eq fun i _ => h i

theorem exists_lane {m : Lanes} (h : m ≠ 0) : ∃ l, hasLane m l = true := by
  refine Classical.byContradiction fun hn => h (lanes_ext fun l => ?_)
  cases hl : hasLane m l
  · exact (hasLane_zero l).symm
  · exact absurd ⟨l, hl⟩ hn

/-- The lanes of a union of masks. -/
theorem hasLane_foldl_or {α : Type} (f : α → Lanes) (xs : List α) (m : Lanes) (l : Nat) :
    hasLane (xs.foldl (fun m y => m ||| f y) m) l = (hasLane m l || xs.any (fun y => hasLane (f y) l)) := by
  induction xs generalizing m with
  | nil => simp
  | cons y ys ih => rw [List.foldl_cons, ih, hasLane_or, List.any_cons, Bool.or_assoc]

theorem hasLane_union {α : Type} (f : α → Lanes) (xs : List α) (l : Nat) :
    hasLane (xs.foldl (fun m y => m ||| f y) 0) l = xs.any (fun y => hasLane (f y) l) := by
  simp [hasLane_foldl_or]

theorem hasLane_ofNat_pow (k l : Nat) : hasLane (BitVec.ofNat 128 (2 ^ k)) l = (decide (l < 128) && decide (k = l)) := by
  rw [hasLane, BitVec.getLsbD_ofNat, Nat.testBit_two_pow]

theorem hasLane_maskWhere (w : Nat) (f : Nat → Bool) (l : Nat) :
    hasLane (maskWhere w f) l = (decide (l < 128) && decide (l < w) && f l) := by
  unfold maskWhere maskOf
  rw [hasLane_foldl_or, Bool.eq_iff_iff]
  simp only [hasLane_ofNat_pow, Bool.or_eq_true, List.any_eq_true, List.mem_filter, List.mem_range, Bool.and_eq_true,
    decide_eq_true_eq]
  constructor
  · rintro (h | ⟨k, ⟨hk, hf⟩, hl, rfl⟩)
    · cases (hasLane_zero l).symm.trans h
    · exact ⟨⟨hl, hk⟩, hf⟩
  · rintro ⟨⟨hl, hk⟩, hf⟩
    exact .inr ⟨l, ⟨hk, hf⟩, hl, rfl⟩

/-- A selected lane is a lane of the troupe (03 R81). -/
theorem lt_width_of_selected {t : Troupe} {g : Guard} {l : Nat} (h : hasLane (t.selected g) l = true) : l < t.width := by
  simp only [Troupe.selected, hasLane_and, Bool.and_eq_true] at h
  obtain ⟨⟨⟨-, hw⟩, -⟩, -⟩ := h
  have hbit : (2 ^ t.width - 1).testBit l = true := by
    simp only [hasLane, lanesBelow, BitVec.getLsbD_ofNat, Bool.and_eq_true] at hw
    exact hw.2
  simpa [Nat.testBit_two_pow_sub_one] using hbit

theorem mem_uniq {α : Type} [DecidableEq α] {xs : List α} {a : α} : a ∈ uniq xs ↔ a ∈ xs := by
  induction xs with
  | nil => simp [uniq]
  | cons x xs ih =>
    by_cases h : a = x
    · simp [uniq, h]
    · simp [uniq, h, ih]

/-! ## The lowest lane -/

theorem hasLane_lowestLane {m : Lanes} (h : m ≠ 0) : hasLane m (lowestLane m) = true := by
  obtain ⟨l, hl⟩ := exists_lane h
  unfold lowestLane
  cases hf : (List.range 128).find? (fun l => m.getLsbD l) with
  | none =>
    have := List.find?_eq_none.mp hf l (List.mem_range.mpr (hasLane_lt hl))
    exact absurd hl this
  | some k => exact (List.find?_range_eq_some.mp hf).1

theorem lowestLane_le {m : Lanes} {l : Nat} (h : hasLane m l = true) : lowestLane m ≤ l := by
  unfold lowestLane
  cases hf : (List.range 128).find? (fun l => m.getLsbD l) with
  | none => simp
  | some k =>
    refine Nat.le_of_not_lt fun hlt => ?_
    have := (List.find?_range_eq_some.mp hf).2.2 l (by simpa using hlt)
    simp [hasLane] at h
    simp [h] at this

/-! ## The trap that is reported (R90) -/

/-- The trap of lowest lane, in the comparison of `worstMove`. -/
theorem foldl_lowest (rest : List TrapX) (y : TrapX) :
    let best := rest.foldl (fun b z => if lowestLane z.mask < lowestLane b.mask then z else b) y
    best ∈ y :: rest ∧ ∀ z ∈ y :: rest, lowestLane best.mask ≤ lowestLane z.mask := by
  induction rest generalizing y with
  | nil => simp
  | cons z zs ih =>
    intro best
    obtain ⟨hmem, hle⟩ := ih (if lowestLane z.mask < lowestLane y.mask then z else y)
    have hstart : lowestLane best.mask
        ≤ lowestLane (if lowestLane z.mask < lowestLane y.mask then z else y).mask := hle _ List.mem_cons_self
    refine ⟨?_, fun u hu => ?_⟩
    · rcases List.mem_cons.mp hmem with h | h
      · have hb : best = if lowestLane z.mask < lowestLane y.mask then z else y := h
        rw [hb]; split <;> simp
      · exact List.mem_cons_of_mem _ (List.mem_cons_of_mem _ h)
    · rcases List.mem_cons.mp hu with rfl | hu
      · split at hstart <;> omega
      · rcases List.mem_cons.mp hu with rfl | hu
        · split at hstart <;> omega
        · exact hle u (List.mem_cons_of_mem _ hu)

/-- The trap reported of several failing moves: what the lowest failing lane met, with the lanes of all of them. -/
theorem worstMove_spec {bad : List TrapX} (hne : bad ≠ []) (hm : ∀ tr ∈ bad, tr.mask ≠ 0) :
    let all : Lanes := bad.foldl (fun m tr => m ||| tr.mask) 0
    ∃ tr ∈ bad, hasLane tr.mask (lowestLane all) = true ∧ worstMove bad = some { tr with mask := all } := by
  intro all
  obtain ⟨y, rest, rfl⟩ := List.exists_cons_of_ne_nil hne
  obtain ⟨hmem, hle⟩ := foldl_lowest rest y
  generalize hb : rest.foldl (fun b z => if lowestLane z.mask < lowestLane b.mask then z else b) y = best at hmem hle
  have hall : ∀ l, hasLane all l = (y :: rest).any (fun tr => hasLane tr.mask l) := hasLane_union _ _
  have hbest : hasLane best.mask (lowestLane best.mask) = true := hasLane_lowestLane (hm _ hmem)
  have h1 : lowestLane all ≤ lowestLane best.mask :=
    lowestLane_le (by rw [hall]; exact List.any_eq_true.mpr ⟨best, hmem, hbest⟩)
  have h2 : lowestLane best.mask ≤ lowestLane all := by
    have hne : all ≠ 0 := fun h0 => by
      have := (hall (lowestLane best.mask)).trans (List.any_eq_true.mpr ⟨best, hmem, hbest⟩)
      rw [h0] at this
      cases (hasLane_zero _).symm.trans this
    have hl := hasLane_lowestLane hne
    rw [hall] at hl
    obtain ⟨z, hz, hzl⟩ := List.any_eq_true.mp hl
    exact Nat.le_trans (hle z hz) (lowestLane_le hzl)
  refine ⟨best, hmem, by rw [Nat.le_antisymm h1 h2]; exact hbest, ?_⟩
  have hmask : all = rest.foldl (fun m tr => m ||| tr.mask) y.mask := by
    simp only [all, List.foldl_cons]
    congr 1
    exact BitVec.zero_or
  rw [hmask, ← hb]
  rfl

/-! ## The checks of a transfer (R90) -/

/-- The moves that have lanes, each with what R90 finds at its target. -/
def checkedMoves (s : State) (x : Env) (moves : List Move) : List (Move × Target) :=
  (moves.filter (fun m => m.mask ≠ 0)).map (fun m => (m, s.checkTarget x.core x.ctx m))

theorem checkTarget_bad_mask {s : State} {core ctx : Nat} {m : Move} {tr : TrapX} (h : s.checkTarget core ctx m = .bad tr) :
    tr.mask = m.mask := by
  unfold State.checkTarget at h
  split at h
  · cases h; rfl
  · split at h
    · cases h; rfl
    · cases h
    · split at h
      · cases h
      · cases h; rfl

/-- A move that fails has lanes. -/
theorem mask_of_bad {s : State} {x : Env} {moves : List Move} : ∀ tr ∈ badMoves (checkedMoves s x moves), tr.mask ≠ 0 := by
  intro tr htr
  obtain ⟨c, hc, hcb⟩ := List.mem_filterMap.mp htr
  obtain ⟨m, hm, rfl⟩ := List.mem_map.mp hc
  split at hcb
  · next tr' heq =>
    cases hcb
    rw [checkTarget_bad_mask heq]
    simpa using (List.mem_filter.mp hm).2
  · cases hcb

/-- The lanes of the moves of a list. -/
def sentLanes (ok : List (Move × DWord)) : Lanes := ok.foldl (fun g m => g ||| m.1.mask) 0

/-- A troupe whose lanes have been sent to their targets. -/
def Troupe.sendLanes (t : Troupe) (ok : List (Move × DWord)) : Troupe :=
  { t with frontier := moveLanes t.frontier ok }.countSpills t.frontier.length

/-- A transfer with no target that waits for its code: the accepted lanes go, and the others trap. -/
theorem transfer_eq {s : State} {x : Env} {moves : List Move} (pre : Lanes → Troupe → Troupe)
    (hp : ∀ c ∈ checkedMoves s x moves, ∀ va, c.2 ≠ .pending va) :
    transfer x s pre moves =
      (let ok := goodMoves (checkedMoves s x moves)
       let s1 := s.setTroupe x.r ((pre (sentLanes ok) x.t).sendLanes ok)
       (worstMove (badMoves (checkedMoves s x moves))).elim (.moved s1) (.trap s1)) := by
  unfold transfer
  extract_lets cs
  split
  · next va h =>
    obtain ⟨c, hc, hva⟩ := List.exists_of_findSome?_eq_some h
    split at hva
    · next hpend => exact absurd hpend (hp c hc _)
    · cases hva
  · show (match worstMove (badMoves (checkedMoves s x moves)) with
      | none => _
      | some tr => _) = _
    cases worstMove (badMoves (checkedMoves s x moves)) <;> rfl

/-- With every target accepted, all the moves are good and none is bad. -/
theorem moves_of_accepted {s : State} {x : Env} {moves : List Move} {ok : List (Move × DWord)}
    (h : Claims.Accepted s x moves ok) :
    goodMoves (checkedMoves s x moves) = ok ∧ badMoves (checkedMoves s x moves) = []
      ∧ ∀ c ∈ checkedMoves s x moves, ∀ va, c.2 ≠ .pending va := by
  have hc : checkedMoves s x moves = ok.map (fun c => (c.1, .ok c.2)) := h
  rw [hc]
  refine ⟨?_, ?_, ?_⟩
  · rw [goodMoves, List.filterMap_map]
    exact List.filterMap_some
  · simp [badMoves, List.filterMap_map]
  · intro c hm va
    obtain ⟨d, _, rfl⟩ := List.mem_map.mp hm
    simp

/-- The lanes that accepted moves send are those of the moves asked for. -/
theorem hasLane_sentLanes {s : State} {x : Env} {moves : List Move} {ok : List (Move × DWord)}
    (h : Claims.Accepted s x moves ok) (l : Nat) : hasLane (sentLanes ok) l = moves.any (fun m => hasLane m.mask l) := by
  have hm : (moves.filter (fun m => m.mask ≠ 0)) = ok.map (·.1) := by
    have := congrArg (List.map Prod.fst) h
    simpa [Function.comp_def] using this
  have hany : ok.any (fun c => hasLane c.1.mask l) = (ok.map (·.1)).any (fun m => hasLane m.mask l) := by
    rw [List.any_map]; rfl
  rw [sentLanes, hasLane_union, hany, ← hm, List.any_filter]
  congr 1
  funext m
  by_cases h0 : m.mask = 0#128
  · simp [h0]
  · simp [h0]

end Sys2Proof.Machine
end

section
/-! SUPPORT. BRA, BRC, BRX, CALL and RET in the terms of the claims (05 R111 to R116; 03 R90). -/

namespace Sys2Proof.Claims
open Sys2Proof.Machine

/-! ## What happens in the troupe before its lanes go -/

/-- The troupe `u` is the troupe `t` after writes to v registers that have the effect `e`. -/
structure Prepares (t u : Troupe) (e : Effect) : Prop where
  effect : e = { Effect.none t with v := e.v, wrote := e.wrote }
  v      : ∀ r l, l < 128 → u.readV r l = e.v r l
  s      : ∀ r, u.readS r = t.readS r
  tag    : ∀ r b, u.readTag r b = t.readTag r b
  wrote  : ∀ r, sget 0 u.wrote r = e.wrote r
  rest   : u = { t with v := u.v, late := u.late, wrote := u.wrote }

/-- An op that writes no register. -/
theorem prepares_self (t : Troupe) : Prepares t t (Effect.none t) :=
  ⟨rfl, fun _ _ _ => rfl, fun _ => rfl, fun _ _ => rfl, fun _ => rfl, rfl⟩

/-- The frontier and the spills after a transfer (01 R25). -/
theorem sendLanes_eq (t : Troupe) (ok : List (Move × DWord)) :
    t.sendLanes ok = { t with
      frontier := moveLanes t.frontier ok
      counters := { t.counters with
        spills := (t.counters.spills + (spilled (moveLanes t.frontier ok).length - spilled t.frontier.length)) % 2 ^ 64 } } :=
  rfl

/-- When nothing but the troupe and its slot has changed. -/
theorem Answers.goes {i : Instr} {s : State} {x : Env} {isLast : Bool} {n : Nat} {front : List FEntry} {e : Effect}
    (h : Answers i s x isLast n front e s) : Goes i s x isLast n front e := by
  refine ⟨h, ?_⟩
  obtain ⟨t', -, hex⟩ := h
  refine ⟨_, hex, ?_, fun q hq => State.troupe?_setTroupe_ne _ hq, t', rfl⟩
  intro k
  simp [State.rdByte]

/-! ## The two ends of a transfer -/

section
variable {s : State} {x : Env} {code : Nat} {o : Op} {hdr : DWord} {i : Instr} {body : Env → State → Res}
  {moves : List Move} {pre : Lanes → Troupe → Troupe}

/-- An op that sends lanes, all of whose targets are accepted. -/
theorem transfers_of {e : Effect} (h : Runs s x code o hdr) (hx : exec i s = issueOp code i o body s)
    (hb : body x s = transfer x s pre moves)
    (hp : ∀ ok, Accepted s x moves ok → Prepares x.t (pre (sentLanes ok) x.t) e) : Transfers i s x moves e := by
  intro ok hok
  obtain ⟨hgood, hbad, hpend⟩ := moves_of_accepted hok
  have ht0 := State.env?_troupe h.env
  obtain ⟨heff, hv, hs, htag, hwrote, hrest⟩ := hp ok hok
  generalize hu : pre (sentLanes ok) x.t = u at hv hs htag hwrote hrest
  have hfront : u.frontier = x.t.frontier := by rw [hrest]
  have hres : body x s = .moved (s.setTroupe x.r (u.sendLanes ok)) := by
    rw [hb, transfer_eq pre hpend, hgood, hbad, ← hu]
    rfl
  refine Answers.goes ⟨((u.sendLanes ok).retire 1 x.c.len).restRun, ?_, ?_⟩
  · constructor
    · exact hv
    · intro r
      have : e.s r = x.t.readS r := by rw [heff]; rfl
      rw [this]; exact hs r
    · intro q
      have : e.p q = x.t.readP q := by rw [heff]; rfl
      rw [this]
      exact readP_congr (by rw [hrest]; rfl) (by rw [hrest]; rfl) q
    · intro r b _
      have : e.tag r b = x.t.readTag r b := by rw [heff]; rfl
      rw [this]; exact htag r b
    · exact hwrote
    · rw [sendLanes_eq, hfront]
      rw [hrest, heff]
      simp [Troupe.retire, Troupe.restRun, Troupe.freshRun, runAfter, Effect.none]
  · rw [hx, issueOp_ok h.env h.checks h.whole, hres]
    simp only [settle]
    rw [State.modTroupe_setTroupe ht0, State.endRun_setTroupe ht0]
    simp [State.freeSlot, slotsAfter]

/-- An op that sends lanes, some of whose targets fail. -/
theorem staysAtBadTargets_of {e : Lanes → Effect} (h : Runs s x code o hdr) (hx : exec i s = issueOp code i o body s)
    (hb : body x s = transfer x s pre moves) (hp : ∀ went, Prepares x.t (pre went x.t) (e went)) :
    StaysAtBadTargets i s x moves e := by
  intro hpend hne
  let ok := goodMoves (checkedMoves s x moves)
  let bad := badMoves (checkedMoves s x moves)
  let all : Lanes := bad.foldl (fun m tr => m ||| tr.mask) 0
  obtain ⟨tr, htr, hlane, hworst⟩ := worstMove_spec (bad := bad) hne mask_of_bad
  obtain ⟨-, hv, hs, htag, hwrote, hrest⟩ := hp (sentLanes ok)
  have hres : body x s
      = .trap (s.setTroupe x.r ((pre (sentLanes ok) x.t).sendLanes ok)) { tr with mask := all } := by
    rw [hb, transfer_eq pre hpend, hworst]
    rfl
  refine ⟨(pre (sentLanes ok) x.t).sendLanes ok, tr, htr, hlane, hv, hs, htag, hwrote, ?_, ?_⟩
  · rw [sendLanes_eq, hrest]
    rfl
  · rw [hx, issueOp_ok h.env h.checks h.whole, hres]
    rfl
end

/-! ## The moves of each op -/

theorem relTarget_eq (x : Env) (o : Op) : relTarget x o = ahead x o := by
  unfold relTarget ahead
  cases o.ext <;> simp only <;> rw [BitVec.mul_comm]

theorem registerMoves_eq (x : Env) (b : Src) (g : Lanes) (need : Need) : registerMoves x.t b g need = byAddress x b g need := by
  unfold registerMoves byAddress
  cases b.cls <;> rfl

/-- The lanes that BRC sends, in the words of the claim. -/
theorem brcTaken_eq (mode : Nat) (g c : Lanes) : brcTaken mode g c = (match mode with
    | 0 => g &&& c
    | 1 => if g &&& c = 0 then 0 else g
    | _ => if g &&& ~~~c = 0 then g else 0) := by
  unfold brcTaken
  match mode with
  | 0 => rfl
  | 1 => by_cases h : g &&& c = 0 <;> simp [h]
  | n + 2 =>
    by_cases hg : g = 0#128 <;> simp [hg]

section
variable (o : Op) (x : Env) (s : State)

theorem braBody_eq : braBody o x s = transfer x s (fun _ t => t) (movesOf 0x000 o x) := by
  rw [braBody, relTarget_eq]
  rfl

theorem brcBody_eq : brcBody o x s = transfer x s (fun _ t => t) (movesOf 0x001 o x) := by
  rw [brcBody, relTarget_eq, brcTaken_eq]
  rfl

theorem brxBody_eq : brxBody o x s = transfer x s (fun _ t => t) (movesOf 0x002 o x) := by
  rw [brxBody, registerMoves_eq]
  rfl

theorem retBody_eq : retBody o x s = transfer x s (fun _ t => t) (movesOf 0x004 o x) := rfl

/-! ## The link of CALL (R115) -/

/-- The link, written for those of the lanes that went that the guard selects. -/
def writeLink (went : Lanes) (t : Troupe) : Troupe :=
  let on := went &&& x.t.selected o.guard
  (t.writeV (t.cellsV o.dst.toNat on (fun _ => x.c.next.extractLsb' 0 32)
    ++ t.cellsV (o.dst.toNat + 1) on (fun _ => x.c.next.extractLsb' 32 32))).noteV (Troupe.written o.dst.toNat 2 on [])

theorem callBody_eq : callBody o x s = transfer x s (writeLink o x) (movesOf 0x003 o x) := by
  rw [callBody, relTarget_eq, registerMoves_eq]
  rfl

theorem prepares_link (went : Lanes) :
    Prepares x.t (writeLink o x went x.t) (link x o (went &&& x.t.selected o.guard)) := by
  have hcells : ∀ (on : Lanes) (f g : Nat → Word),
      x.t.cellsV o.dst.toNat on f ++ x.t.cellsV (o.dst.toNat + 1) on g = x.t.groupCells o.dst.toNat on [f, g] := by
    intro on f g
    simp [Troupe.groupCells, List.range_succ]
  unfold writeLink
  simp only [hcells]
  refine ⟨?_, ?_, ?_, ?_, ?_, rfl⟩
  · simp [link, Effect.toV, Effect.none]
  · intro r l hl
    rw [Troupe.readV_noteV, Troupe.readV_group _ _ _ _ _ _ hl]
    simp [link, Effect.toV, hasLane, and_assoc]
  · intro r; simp
  · intro r b; simp
  · intro r
    rw [wrote_noteV]
    rfl

/-- Every lane that is grouped by its address is in one of the groups. -/
theorem perLane_covers {b : Src} {g : Lanes} {need : Need} {l : Nat} (hl : hasLane g l = true) (hw : l < x.t.width) :
    (perLane x b g need).any (fun m => hasLane m.mask l) = true := by
  refine List.any_eq_true.mpr ⟨_, List.mem_map_of_mem (a := x.t.rawPair b l) (mem_uniq.mpr ?_), ?_⟩
  · exact List.mem_map_of_mem (Troupe.mem_lanesOf.mpr ⟨hw, hl⟩)
  · simp [hasLane_maskWhere, hasLane_lt hl, hw, hl]

theorem byAddress_covers {b : Src} {g : Lanes} {need : Need} {l : Nat} (hl : hasLane g l = true) (hw : l < x.t.width) :
    (byAddress x b g need).any (fun m => hasLane m.mask l) = true := by
  unfold byAddress
  split
  · simp [hl]
  · exact perLane_covers x hl hw

/-- CALL asks for a move of every selected lane. -/
theorem call_covers {l : Nat} (hl : hasLane (x.t.selected o.guard) l = true) :
    (movesOf 0x003 o x).any (fun m => hasLane m.mask l) = true := by
  simp only [movesOf, List.any_append, Bool.or_eq_true]
  left
  split
  · simp [hl]
  · exact byAddress_covers x hl (lt_width_of_selected hl)
end

/-- When every target of CALL is accepted, its link goes to every selected lane. -/
theorem sent_and_selected {s : State} {x : Env} {o : Op} {ok : List (Move × DWord)} (h : Accepted s x (movesOf 0x003 o x) ok) :
    sentLanes ok &&& x.t.selected o.guard = x.t.selected o.guard := by
  refine lanes_ext fun l => ?_
  rw [hasLane_and, hasLane_sentLanes h]
  cases hl : hasLane (x.t.selected o.guard) l
  · simp
  · simp [call_covers o x hl]

/-! ## The statement -/

theorem controlTransfers : ControlTransfers := fun _ x o _ =>
  ⟨fun h => transfers_of h rfl (braBody_eq o x _) fun _ _ => prepares_self _,
    fun h => transfers_of h rfl (brcBody_eq o x _) fun _ _ => prepares_self _,
    fun h => transfers_of h rfl (brxBody_eq o x _) fun _ _ => prepares_self _,
    fun h => transfers_of h rfl (callBody_eq o x _) fun ok hok => sent_and_selected hok ▸ prepares_link o x (sentLanes ok),
    fun h => transfers_of h rfl (retBody_eq o x _) fun _ _ => prepares_self _⟩

/-- The trap of a target that is no header, or not the header that the transfer needs (03 R90). -/
theorem badTarget_eq (m : Move) : Target.bad (trapAt causeBadTarget (BitVec.ofNat 64 (m.target.toNat % 2 ^ 32)) m.mask)
    = .bad ⟨0x03, (m.target.extractLsb' 0 32).setWidth 64, m.mask, none⟩ := by
  have : BitVec.ofNat 64 (m.target.toNat % 2 ^ 32) = (m.target.extractLsb' 0 32).setWidth 64 := by
    apply BitVec.eq_of_toNat_eq
    simp
  rw [this]
  rfl

/-- What R90 finds where a word stands at an aligned target. -/
theorem checkTarget_word {s : State} {core ctx : Nat} {m : Move} {w : DWord} (h8 : m.target.toNat % 8 = 0)
    (hf : s.fetch core ctx m.target = .word w) : s.checkTarget core ctx m =
      if kindOf w = 3 ∧ m.need.ok w = true then .ok w
      else .bad ⟨0x03, (m.target.extractLsb' 0 32).setWidth 64, m.mask, none⟩ := by
  unfold State.checkTarget
  rw [if_neg (fun hn => hn h8), hf, ← badTarget_eq]
  simp only [Bool.and_eq_true, decide_eq_true_eq]

/-- What R90 finds where the fetch of an aligned target faults. -/
theorem checkTarget_fault {s : State} {core ctx : Nat} {m : Move} {f : MemFault} (h8 : m.target.toNat % 8 = 0)
    (hf : s.fetch core ctx m.target = .fault f) : s.checkTarget core ctx m = .bad (trapMem f .fetch m.mask) := by
  unfold State.checkTarget
  rw [if_neg (fun hn => hn h8), hf]

theorem badTargetTraps : BadTargetTraps := by
  refine ⟨fun _ x o _ => ⟨fun h => staysAtBadTargets_of h rfl (braBody_eq o x _) fun _ => prepares_self _,
    fun h => staysAtBadTargets_of h rfl (brcBody_eq o x _) fun _ => prepares_self _,
    fun h => staysAtBadTargets_of h rfl (brxBody_eq o x _) fun _ => prepares_self _,
    fun h => staysAtBadTargets_of h rfl (callBody_eq o x _) (prepares_link o x),
    fun h => staysAtBadTargets_of h rfl (retBody_eq o x _) fun _ => prepares_self _⟩, ?_⟩
  intro s core ctx m w f bad flagged
  have hflag : flagged = m.need.ok w := by cases hn : m.need <;> simp only [flagged, hn] <;> rfl
  refine ⟨fun h8 => (if_pos h8).trans (badTarget_eq m), fun h8 hf => checkTarget_fault h8 hf, fun h8 hf hk hn => ?_,
    fun h8 hf hk => ?_⟩
  · rw [checkTarget_word h8 hf, if_pos ⟨hk, hflag ▸ hn⟩]
  · rw [checkTarget_word h8 hf, if_neg]
    rintro ⟨h3, hn⟩
    rcases hk with hk | hk
    · exact hk h3
    · rw [hflag, hn] at hk; cases hk

/-- Settles O19: each op is one transfer, whose moves are those of the claim; what a transfer does is proved once. -/
theorem controlTransfersAndBadTargets : Obligations.ControlTransfersAndBadTargets := ⟨controlTransfers, badTargetTraps⟩

end Sys2Proof.Claims
end

section
/-! SUPPORT. YIELD and the entry that issues next (01 R24, R27; 05 R118; log entry 69), and NOP (R119). -/

namespace Sys2Proof.Machine

/-! ## Issue order (R24) -/

theorem ranksBefore_iff {a b : FEntry} :
    ranksBefore a b = true ↔ b.prio < a.prio ∨ (a.prio = b.prio ∧ a.pc.toNat ≤ b.pc.toNat) := by
  simp [ranksBefore]

theorem ranksBefore_refl (a : FEntry) : ranksBefore a a = true := ranksBefore_iff.mpr (.inr ⟨rfl, Nat.le_refl _⟩)

theorem ranksBefore_of_not {a b : FEntry} (h : ¬ranksBefore a b = true) : ranksBefore b a = true := by
  rw [ranksBefore_iff] at *
  omega

theorem ranksBefore_trans {a b c : FEntry} (h1 : ranksBefore a b = true) (h2 : ranksBefore b c = true) :
    ranksBefore a c = true := by
  rw [ranksBefore_iff] at *
  omega

theorem mem_insertEntry {e f : FEntry} {es : List FEntry} : f ∈ insertEntry e es ↔ f = e ∨ f ∈ es := by
  induction es with
  | nil => simp [insertEntry]
  | cons g gs ih =>
    rw [insertEntry]
    split
    · simp
    · rw [List.mem_cons, ih, List.mem_cons, or_left_comm]

theorem mem_sortEntries {f : FEntry} {es : List FEntry} : f ∈ sortEntries es ↔ f ∈ es := by
  induction es with
  | nil => simp [sortEntries]
  | cons e es ih => rw [sortEntries, mem_insertEntry, ih, List.mem_cons]

/-- Inserting by rank keeps the issue order. -/
theorem pairwise_insertEntry {e : FEntry} {es : List FEntry} (h : es.Pairwise (fun a b => ranksBefore a b = true)) :
    (insertEntry e es).Pairwise (fun a b => ranksBefore a b = true) := by
  induction es with
  | nil => simp [insertEntry]
  | cons g gs ih =>
    obtain ⟨hg, hgs⟩ := List.pairwise_cons.mp h
    rw [insertEntry]
    split
    · next he =>
      refine List.pairwise_cons.mpr ⟨fun f hf => ?_, h⟩
      rcases List.mem_cons.mp hf with rfl | hf
      · exact he
      · exact ranksBefore_trans he (hg f hf)
    · next he =>
      refine List.pairwise_cons.mpr ⟨fun f hf => ?_, ih hgs⟩
      rcases mem_insertEntry.mp hf with rfl | hf
      · exact ranksBefore_of_not he
      · exact hg f hf

theorem pairwise_sortEntries (es : List FEntry) : (sortEntries es).Pairwise (fun a b => ranksBefore a b = true) := by
  induction es with
  | nil => exact .nil
  | cons e es ih => exact pairwise_insertEntry ih

/-! ## Who waits (R27; log entry 69) -/

theorem waitsBehind_iff {es : List FEntry} {f : FEntry} :
    waitsBehind es f = true ↔ ∃ g ∈ es, g.pc ≠ f.pc ∧ g.owes ≠ 0 ∧ g.owes ≤ f.yielded := by
  simp [waitsBehind, and_assoc]

/-- Who waits does not depend on the order of the frontier. -/
theorem waitsBehind_sortEntries (es : List FEntry) (f : FEntry) : waitsBehind (sortEntries es) f = waitsBehind es f := by
  rw [Bool.eq_iff_iff, waitsBehind_iff, waitsBehind_iff]
  simp only [mem_sortEntries]

/-- Of a frontier in issue order, the entry that issues next waits only if all do, and it ranks before all that do as it does. -/
theorem nextEntry_spec {es : List FEntry} (hs : es.Pairwise (fun a b => ranksBefore a b = true)) (hne : es ≠ []) :
    ∃ f ∈ es, nextEntry es = some f ∧ ((∃ g ∈ es, waitsBehind es g = false) → waitsBehind es f = false)
      ∧ ∀ g ∈ es, waitsBehind es g = waitsBehind es f → ranksBefore f g = true := by
  cases hf : es.find? (fun e => !waitsBehind es e) with
  | some f =>
    obtain ⟨hw, as, bs, hes, has⟩ := List.find?_eq_some_iff_append.mp hf
    have hwf : waitsBehind es f = false := by simpa using hw
    have hmem : f ∈ es := List.mem_of_find?_eq_some hf
    refine ⟨f, hmem, by simp [nextEntry, hf], fun _ => hwf, fun g hg hgw => ?_⟩
    rw [hes] at hg hs
    rcases List.mem_append.mp hg with hg | hg
    · have := has g hg
      rw [hgw, hwf] at this
      cases this
    · rcases List.mem_cons.mp hg with rfl | hg
      · exact ranksBefore_refl g
      · exact (List.pairwise_cons.mp (List.pairwise_append.mp hs).2.1).1 g hg
  | none =>
    have hall : ∀ g ∈ es, waitsBehind es g = true := by simpa using List.find?_eq_none.mp hf
    obtain ⟨f, fs, rfl⟩ := List.exists_cons_of_ne_nil hne
    refine ⟨f, List.mem_cons_self, by simp [nextEntry, hf], fun ⟨g, hg, hgw⟩ => ?_, fun g hg _ => ?_⟩
    · rw [hall g hg] at hgw; cases hgw
    · rcases List.mem_cons.mp hg with rfl | hg
      · exact ranksBefore_refl g
      · exact (List.pairwise_cons.mp hs).1 g hg

/-- An entry that waits does so behind one that owes to an earlier YIELD, so the one that owes to the earliest does not wait. -/
theorem exists_not_waiting_of_owes {es : List FEntry} (h : ∀ f ∈ es, f.owes = 0 ∨ f.yielded < f.owes) (n : Nat) :
    ∀ f ∈ es, f.owes = n → f.owes ≠ 0 → ∃ g ∈ es, waitsBehind es g = false := by
  induction n using Nat.strongRecOn with
  | ind n ih =>
    intro f hf hn h0
    by_cases hw : waitsBehind es f = true
    · obtain ⟨g, hg, -, hgo, hle⟩ := waitsBehind_iff.mp hw
      have := (h f hf).resolve_left h0
      exact ih g.owes (by omega) g hg rfl hgo
    · exact ⟨f, hf, by simpa using hw⟩

/-- While no entry owes a run to a YIELD of its own or an earlier one, some entry waits behind no other. -/
theorem exists_not_waiting {es : List FEntry} (hne : es ≠ []) (h : ∀ f ∈ es, f.owes = 0 ∨ f.yielded < f.owes) :
    ∃ g ∈ es, waitsBehind es g = false := by
  by_cases ho : ∃ f ∈ es, f.owes ≠ 0
  · obtain ⟨f, hf, h0⟩ := ho
    exact exists_not_waiting_of_owes h _ f hf rfl h0
  · obtain ⟨f, fs, rfl⟩ := List.exists_cons_of_ne_nil hne
    refine ⟨f, List.mem_cons_self, ?_⟩
    rw [Bool.eq_false_iff, ne_eq, waitsBehind_iff]
    rintro ⟨g, hg, -, hgo, -⟩
    exact ho ⟨g, hg, hgo⟩

/-! ## The number of a YIELD -/

theorem le_foldl_max (es : List FEntry) (n : Nat) :
    n ≤ es.foldl (fun n e => max n (max e.owes e.yielded)) n
      ∧ ∀ f ∈ es, max f.owes f.yielded ≤ es.foldl (fun n e => max n (max e.owes e.yielded)) n := by
  induction es generalizing n with
  | nil => simp
  | cons e es ih =>
    obtain ⟨h1, h2⟩ := ih (max n (max e.owes e.yielded))
    rw [List.foldl_cons]
    refine ⟨by omega, fun f hf => ?_⟩
    rcases List.mem_cons.mp hf with rfl | hf
    · omega
    · exact h2 f hf

/-- The number of a YIELD lies above those of the earlier ones. -/
theorem lt_nextYield {es : List FEntry} : ∀ f ∈ es, f.owes < nextYield es ∧ f.yielded < nextYield es := by
  intro f hf
  have := (le_foldl_max es 0).2 f hf
  unfold nextYield
  omega

end Sys2Proof.Machine

namespace Sys2Proof.Claims
open Sys2Proof.Machine

/-! ## YIELD and NOP -/

section
variable {s : State} {x : Env} {code : Nat} {o : Op} {hdr : DWord} {i : Instr} {body : Env → State → Res}

/-- An op that ends its run and has changed nothing but the frontier, whose issuing entry keeps lanes. -/
theorem goes_of_frontier (h : Runs s x code o hdr) (hx : exec i s = issueOp code i o body s) {t : Troupe} {f : FEntry}
    {fs : List FEntry} (ht : t = { x.t with frontier := f :: fs }) (hm : f.mask ≠ 0)
    (hb : body x s = .done (s.setTroupe x.r t)) (hends : (o.endsRun || endsOwn code x.det) = true) :
    Goes i s x true 1 (goesTo x hdr (f :: fs)) (Effect.none x.t) := by
  have ht0 := State.env?_troupe h.env
  have hf : t.frontier = f :: fs := by rw [ht]
  have hh : t.held = x.t.held := by rw [ht]
  refine Answers.goes ⟨(t.goOn 1 x hdr).restRun, ?_, ?_⟩
  · rw [goOn_eq 1 x hdr t f fs hf hm, hf, ht]
    refine ⟨fun _ _ _ => rfl, fun _ => rfl, fun _ => rfl, fun _ _ _ => rfl, fun _ => rfl, ?_⟩
    simp [Troupe.retire, Troupe.restRun, Troupe.freshRun, runAfter, Effect.none]
  · rw [hx, issueOp_ok h.env h.checks h.whole, hb, h.falls, hends]
    simp only [settle]
    rw [complete_setTroupe ht0 _ _ _ f fs hf hm hh]
    simp [Troupe.wordEnd, State.freeSlot, slotsAfter]
end

/-- The entry that issues has lanes. -/
theorem Runs.head_mask {s : State} {x : Env} {code : Nat} {o : Op} {hdr : DWord} {e : FEntry} {es : List FEntry}
    (h : Runs s x code o hdr) (hfr : x.t.frontier = e :: es) : e.mask ≠ 0 := by
  have := h.lanes
  rwa [Troupe.active, hfr] at this

theorem yields {s : State} {x : Env} {o : Op} {hdr : DWord} {e : FEntry} {es : List FEntry} (h : Runs s x 0x006 o hdr)
    (hfr : x.t.frontier = e :: es) : Goes (.yieldRun o) s x true 1
      (goesTo x hdr (if x.t.selected o.guard = 0 then e :: es
        else { e with yielded := nextYield (e :: es), owes := 0 }
          :: es.map (fun f => if f.owes = 0 then { f with owes := nextYield (e :: es) } else f)))
      (Effect.none x.t) := by
  have hm := h.head_mask hfr
  have hends : (o.endsRun || endsOwn 0x006 x.det) = true := by simp [endsOwn]
  split
  · next h0 =>
    have hself : x.t = { x.t with frontier := e :: es } := by rw [← hfr]
    refine goes_of_frontier h rfl hself hm ?_ hends
    rw [State.setTroupe_self (State.env?_troupe h.env)]
    exact congrArg Res.done (if_pos h0)
  · next h0 =>
    have hyield : x.t.yieldEntry = { x.t with
        frontier := { e with yielded := nextYield (e :: es), owes := 0 }
          :: es.map (fun f => if f.owes = 0 then { f with owes := nextYield (e :: es) } else f) } := by
      rw [Troupe.yieldEntry, hfr]
    exact goes_of_frontier h rfl hyield hm (congrArg Res.done (if_neg h0)) hends

/-- NOP changes nothing of its troupe. -/
theorem nop_completes {s : State} {x : Env} {o : Op} {hdr : DWord} (h : Runs s x 0x007 o hdr) :
    Completes (.nop o) s x (ends 0x007 o x) 1 hdr (Effect.none x.t) := by
  refine completes_of h rfl (Effect.none x.t) x.t ?_ rfl (fun _ _ _ => rfl) (fun _ => rfl) (fun _ => rfl) (fun _ _ _ => rfl)
    (fun _ => rfl)
  rw [State.setTroupe_self (State.env?_troupe h.env)]
  rfl

/-- The entry that issues next (01 R24, R27). -/
theorem chooseEntry_spec {es : List FEntry} (hne : es.filter (fun f => f.mask ≠ 0) ≠ []) :
    let live := es.filter (fun f => f.mask ≠ 0)
    ∃ f ∈ live, ∃ fs, chooseEntry es = { f with owes := 0, yielded := 0 } :: fs
      ∧ ((∃ g ∈ live, waitsBehind live g = false) → waitsBehind live f = false)
      ∧ ∀ g ∈ live, waitsBehind live g = waitsBehind live f →
        g.prio < f.prio ∨ (g.prio = f.prio ∧ f.pc.toNat ≤ g.pc.toNat) := by
  intro live
  have hsne : sortEntries live ≠ [] := by
    obtain ⟨f, hf⟩ := List.exists_mem_of_ne_nil _ hne
    exact List.ne_nil_of_mem (mem_sortEntries.mpr hf)
  obtain ⟨f, hf, hnext, hwait, hrank⟩ := nextEntry_spec (pairwise_sortEntries live) hsne
  simp only [mem_sortEntries, waitsBehind_sortEntries] at hf hwait hrank
  refine ⟨f, hf, (sortEntries live).filter (fun g => g ≠ f), ?_, hwait, fun g hg hgw => ?_⟩
  · show (match nextEntry (sortEntries live) with
      | some e => _
      | none => _) = _
    rw [hnext]
  · rcases ranksBefore_iff.mp (hrank g hg hgw) with h | ⟨h, h'⟩
    · exact .inl h
    · exact .inr ⟨h.symm, h'⟩

theorem yieldAndNop : YieldAndNop := by
  refine ⟨fun s x o hdr e es hfr => ⟨fun h => ⟨nextYield (e :: es), lt_nextYield, yields h hfr⟩, nop_completes⟩,
    fun es => ⟨chooseEntry_spec, exists_not_waiting⟩, fun e es n hes hlive => ?_, fun _ _ => rfl⟩
  obtain ⟨f, hf, hm⟩ := hlive
  obtain ⟨hpc, howes, hle⟩ := hes f hf hm
  exact waitsBehind_iff.mpr ⟨f, List.mem_filter.mpr ⟨hf, by simpa using hm⟩, hpc, howes, hle⟩

end Sys2Proof.Claims
end

section
/-! SUPPORT. EXIT (05 R117; 01 R30; 12 R274; 18 R399, R400): the lanes that end, the troupe that goes on, retires or returns from
its handler, and the act that it leaves. -/

namespace Sys2Proof.Machine

/-! ## The lanes that end -/

theorem pendingV_dropExited (g : Lanes) (late : List Late) (k : Nat) (h : hasLane g (k % 128) = false) :
    Troupe.pendingV (dropExited g late) k = Troupe.pendingV late k := by
  induction late with
  | nil => rfl
  | cons p ps ih =>
    have hp : (if (!p.load) = true then p else { p with v := p.v.filter (fun c => !hasLane g (c.1 % 128)) }).v.lookup k
        = p.v.lookup k := by
      split
      · rfl
      · exact (Troupe.lookup_filter_ne p.v (fun c => hasLane g (c % 128)) k).trans (by simp [h])
    simp only [dropExited, List.map_cons, Troupe.pendingV] at ih ⊢
    rw [ih, hp]

theorem pendingS_dropExited (g : Lanes) (late : List Late) (k : Nat) :
    Troupe.pendingS (dropExited g late) k = Troupe.pendingS late k := by
  induction late with
  | nil => rfl
  | cons p ps ih =>
    simp only [dropExited, List.map_cons, Troupe.pendingS] at ih ⊢
    rw [ih]
    cases p.load <;> rfl

theorem pendingSc_dropExited (g : Lanes) (late : List Late) (k : Nat) :
    Troupe.pendingSc (dropExited g late) k = Troupe.pendingSc late k := by
  induction late with
  | nil => rfl
  | cons p ps ih =>
    simp only [dropExited, List.map_cons, Troupe.pendingSc] at ih ⊢
    rw [ih]
    cases p.load <;> rfl

theorem readV_exitLanes (t : Troupe) (g : Lanes) (r l : Nat) (hl : l < 128) (h : hasLane g l = false) :
    (t.exitLanes g).readV r l = t.readV r l := by
  have hk : (r * 128 + l) % 128 = l := by omega
  simp only [Troupe.readV, Troupe.exitLanes]
  rw [pendingV_dropExited g t.late _ (by rw [hk]; exact h)]

theorem readS_exitLanes (t : Troupe) (g : Lanes) (r : Nat) : (t.exitLanes g).readS r = t.readS r := by
  simp only [Troupe.readS, Troupe.exitLanes, pendingS_dropExited]

theorem readTag_exitLanes (t : Troupe) (g : Lanes) (r b : Nat) : (t.exitLanes g).readTag r b = t.readTag r b := by
  simp only [Troupe.readTag, Troupe.exitLanes, pendingSc_dropExited]

/-- What EXIT makes of a troupe whose entry at the head is `e`. -/
theorem exitLanes_eq {t : Troupe} {e : FEntry} {es : List FEntry} (h : t.frontier = e :: es) (g : Lanes) :
    t.exitLanes g = { t with
      exited := t.exited ||| g
      late := t.late.map (fun p => if p.load then { p with v := p.v.filter (fun c => !hasLane g (c.1 % 128)) } else p)
      frontier := { e with mask := e.mask &&& ~~~g } :: es } := by
  have hdrop : dropExited g t.late
      = t.late.map (fun p => if p.load then { p with v := p.v.filter (fun c => !hasLane g (c.1 % 128)) } else p) := by
    unfold dropExited
    congr 1
    funext p
    cases p.load <;> rfl
  rw [Troupe.exitLanes, h, hdrop]

/-! ## Leaving the act (12 R274) -/

namespace Block

variable {b : Block} {ts : List Troupe}

/-- The block with other troupes. -/
def withTroupes (b : Block) (ts : List Troupe) : Block := { b with troupes := ts }

/-- Two lists of troupes with the same counts of writes. -/
def SameCounts (ts us : List Troupe) : Prop := ∀ k : Nat, ts[k]?.map Troupe.wrote = us[k]?.map Troupe.wrote

theorem sameCounts_set {us : List Troupe} {k : Nat} {t t0 : Troupe} (h0 : us[k]? = some t0) (hw : t.wrote = t0.wrote) :
    SameCounts (us.set k t) us := by
  intro j
  obtain ⟨hlt, -⟩ := List.getElem?_eq_some_iff.mp h0
  by_cases hj : k = j
  · subst hj
    rw [List.getElem?_set_self hlt, h0]
    simp [hw]
  · rw [List.getElem?_set_ne hj]

theorem broken_withTroupes (h : SameCounts ts b.troupes) (g : GroupRead) : (b.withTroupes ts).broken g = b.broken g := by
  have := h g.troupe
  unfold broken withTroupes
  dsimp only
  cases h1 : ts[g.troupe]? <;> cases h2 : b.troupes[g.troupe]? <;> simp only [h1, h2, Option.map, reduceCtorEq] at this
  · rfl
  · next u w =>
    have hcounts : ∀ a n, groupCounts u a n = groupCounts w a n := by
      simp only [Option.some.injEq] at this
      simp [groupCounts, this]
    simp only [hcounts]

theorem noteBroken_withTroupes (h : SameCounts ts b.troupes) :
    (b.withTroupes ts).noteBroken = b.noteBroken.withTroupes ts := by
  have hb : (b.withTroupes ts).brokenTiles = b.brokenTiles := by
    simp only [brokenTiles, broken_withTroupes h]
    rfl
  rw [noteBroken, noteBroken, hb]
  unfold spoil
  split <;> rfl

theorem modAct_withTroupes (k : Nat) (f : MAct → MAct) : (b.withTroupes ts).modAct k f = (b.modAct k f).withTroupes ts := by
  unfold modAct withTroupes
  dsimp only
  cases b.acts[k]? <;> rfl

theorem troupes_modAct (k : Nat) (f : MAct → MAct) : (b.modAct k f).troupes = b.troupes := by
  unfold modAct
  cases b.acts[k]? <;> rfl

theorem leaveAct_withTroupes (h : SameCounts ts b.troupes) (t : Nat) :
    (b.withTroupes ts).leaveAct t = (b.leaveAct t).withTroupes ts := by
  have hact : (b.withTroupes ts).actOf t = b.actOf t := rfl
  unfold leaveAct
  rw [hact]
  cases b.actOf t with
  | none => rfl
  | some k =>
    dsimp only
    rw [modAct_withTroupes, prune, noteBroken_withTroupes (by rw [troupes_modAct]; exact h)]
    rfl

/-- The block without what is pending of a troupe that exits. -/
def withdrawn (b : Block) (t : Nat) : Block :=
  let b1 := b.failConv (((b.pend.filter (fun p => p.gmask.getLsbD t)).map (·.troupe)).filter (fun u => u ≠ t))
  { b1 with pend := b1.pend.filter (fun p => p.troupe ≠ t), actErr := b1.actErr.filter (fun e => e.1 ≠ t) }

theorem troupeExits_eq (b : Block) (t : Nat) : b.troupeExits t = (b.withdrawn t).leaveAct t := rfl

/-- Leaving an act reads of the troupes their counts of writes alone (04 R101), and changes none. -/
theorem troupeExits_withTroupes (h : SameCounts ts b.troupes) (t : Nat) :
    (b.withTroupes ts).troupeExits t = (b.troupeExits t).withTroupes ts := by
  have hw : (b.withTroupes ts).withdrawn t = (b.withdrawn t).withTroupes ts := rfl
  rw [troupeExits_eq, hw, leaveAct_withTroupes (b := b.withdrawn t) h, troupeExits_eq]

theorem troupes_troupeExits (b : Block) (t : Nat) : (b.troupeExits t).troupes = b.troupes := by
  have h : b.troupeExits t = (b.troupeExits t).withTroupes b.troupes :=
    troupeExits_withTroupes (b := b) (ts := b.troupes) (fun _ => rfl) t
  rw [h]
  rfl

end Block

namespace State

theorem modBlock_eq {s : State} {c k : Nat} {cl : Cluster} {b : Block} (hc : s.cluster? c = some cl)
    (hb : cl.blocks[k]? = some b) (f : Block → Block) :
    s.modBlock c k f = s.setCluster c { cl with blocks := cl.blocks.set k (f b) } := by
  simp [modBlock, block?, hc, hb, setBlock]

theorem setCluster_setCluster (s : State) (c : Nat) (cl cl' : Cluster) :
    (s.setCluster c cl).setCluster c cl' = s.setCluster c cl' := by
  simp [setCluster]

/-- A change of its block after a troupe has been replaced, when the change does not look at what the replacement changes. -/
theorem modBlock_setTroupe {s : State} {r : TRef} {cl : Cluster} {b : Block} (hc : s.cluster? r.cluster = some cl)
    (hb : cl.blocks[r.block]? = some b) (t : Troupe) (f : Block → Block)
    (hf : f (b.withTroupes (b.troupes.set r.troupe t)) = (f b).withTroupes (b.troupes.set r.troupe t))
    (hfb : (f b).troupes = b.troupes) :
    (s.setTroupe r t).modBlock r.cluster r.block f = (s.modBlock r.cluster r.block f).setTroupe r t := by
  obtain ⟨hlt, -⟩ := List.getElem?_eq_some_iff.mp hb
  have hc1 : (s.setTroupe r t).cluster? r.cluster
      = some { cl with blocks := cl.blocks.set r.block (b.withTroupes (b.troupes.set r.troupe t)) } := by
    rw [setTroupe_eq hc hb]
    simp [cluster?_setCluster, hc, Block.withTroupes]
  have hc2 : (s.modBlock r.cluster r.block f).cluster? r.cluster
      = some { cl with blocks := cl.blocks.set r.block (f b) } := by
    rw [modBlock_eq hc hb]
    simp [cluster?_setCluster, hc]
  rw [modBlock_eq hc1 (List.getElem?_set_self hlt) f, setTroupe_eq hc2 (List.getElem?_set_self hlt), setTroupe_eq hc hb,
    modBlock_eq hc hb, setCluster_setCluster, setCluster_setCluster, hf, hfb]
  simp only [List.set_set]
  rfl

end State

end Sys2Proof.Machine
end

section
/-! SUPPORT. What becomes of a troupe whose frontier may be empty after a word: it goes on, retires, or returns from its handler
(01 R30; 18 R399, R400). -/

namespace Sys2Proof.Machine

namespace Troupe

/-- A troupe with an entry left goes on. -/
theorem finish_of_ne {t : Troupe} (h : t.frontier ≠ []) : t.finish = t := by
  obtain ⟨e, es, hf⟩ := List.exists_cons_of_ne_nil h
  simp [finish, hf]

/-- A troupe out of handler mode with no entry left retires (R30). -/
theorem finish_retires {t : Troupe} (h : t.frontier = []) (hh : t.held = none) : t.finish = { t with status := .retired } := by
  simp [finish, h, hh]

/-- A handler with no entry left returns (R399). -/
theorem finish_returns {t : Troupe} {h : Held} (hf : t.frontier = []) (hh : t.held = some h) : t.finish = t.resume := by
  simp [finish, hf, hh]

/-- The lanes that have exited since the trap leave a mask of the interrupted troupe (R400). -/
def survivors (t : Troupe) (h : Held) (m : Lanes) : Lanes := m &&& ~~~(h.h &&& t.exited)

/-- The frontier that a return restores. -/
def restored (t : Troupe) (h : Held) : List FEntry :=
  (h.frontier.map (fun f => { f with mask := t.survivors h f.mask })).filter (fun f => f.mask ≠ 0)

/-- Whether the interrupted entry has lanes left. -/
def headLeft (t : Troupe) (h : Held) : Bool := h.frontier.head?.any (fun f => t.survivors h f.mask ≠ 0)

/-- Where the interrupted entry has lanes left, the restored frontier is not empty. -/
theorem restored_ne_nil {t : Troupe} {h : Held} (hl : t.headLeft h = true) : t.restored h ≠ [] := by
  obtain ⟨f, hf, hm⟩ := (Option.any_eq_true ..).mp hl
  have hmem : { f with mask := t.survivors h f.mask } ∈ t.restored h :=
    List.mem_filter.mpr ⟨List.mem_map_of_mem (List.mem_of_head? hf), hm⟩
  exact List.ne_nil_of_mem hmem

theorem headLeft_eq (t : Troupe) (h : Held) : (match h.frontier with
    | f :: _ => decide (t.survivors h f.mask ≠ 0)
    | [] => false) = t.headLeft h := by
  unfold headLeft
  cases h.frontier <;> rfl

/-- A return to an interrupted entry that has lanes left: its run goes on under the resume mask (R400). -/
theorem resume_of_headLeft {t : Troupe} {h : Held} (hh : t.held = some h) (hl : t.headLeft h = true) :
    t.resume = { t with
      held := none, tmask := t.survivors h t.tmask, frontier := t.restored h
      run := h.run, midRun := true, status := .ready, kept := h.kept, keptTag := h.keptTag
      rm := some (if t.tcause.toNat = 0x38 ∨ t.tcause.toNat = 0x39 then 0 else t.survivors h t.tmask) } := by
  have hskip : (if (decide (t.tcause.toNat = causeTrapInsn) || decide (t.tcause.toNat = causeBreakpoint)) = true then 0
      else t.survivors h t.tmask)
      = if t.tcause.toNat = 0x38 ∨ t.tcause.toNat = 0x39 then 0 else t.survivors h t.tmask := by
    refine ite_congr (propext ?_) (fun _ => rfl) (fun _ => rfl)
    rw [Bool.or_eq_true, decide_eq_true_eq, decide_eq_true_eq]
    exact or_comm
  rw [← hskip]
  unfold resume
  rw [hh]
  exact (if_neg (fun hn => restored_ne_nil hl (List.isEmpty_iff.mp hn))).trans (if_pos ((headLeft_eq t h).trans hl))

/-- A return to an interrupted entry that has none left: no run goes on, and the troupe retires unless other entries have some. -/
theorem resume_of_not_headLeft {t : Troupe} {h : Held} (hh : t.held = some h) (hl : t.headLeft h = false) :
    t.resume = { t with
      held := none, tmask := t.survivors h t.tmask, frontier := t.restored h
      run := freshRun, midRun := false, rm := none, prog := 0
      status := if t.restored h = [] then .retired else .ready } := by
  have hhead := (headLeft_eq t h).trans hl
  unfold resume
  rw [hh]
  by_cases h1 : t.restored h = []
  · rw [if_pos h1]
    exact if_pos (List.isEmpty_iff.mpr h1)
  · rw [if_neg h1]
    exact (if_neg (fun hn => h1 (List.isEmpty_iff.mp hn))).trans (if_neg (fun hn => Bool.false_ne_true (hhead.symm.trans hn)))

/-- Finishing changes what a return restores and the status alone. -/
theorem finish_frame (t : Troupe) : t.finish = { t with
    held := t.finish.held, tmask := t.finish.tmask, frontier := t.finish.frontier, run := t.finish.run
    midRun := t.finish.midRun, rm := t.finish.rm, status := t.finish.status, kept := t.finish.kept
    keptTag := t.finish.keptTag, prog := t.finish.prog } := by
  by_cases hf : t.frontier = []
  · cases hh : t.held with
    | none => rw [finish_retires hf hh]
    | some h =>
      rw [finish_returns hf hh]
      cases hl : t.headLeft h
      · rw [resume_of_not_headLeft hh hl]
      · rw [resume_of_headLeft hh hl]
  · rw [finish_of_ne hf]

/-- The troupe at the end of a word that ends its run: a return from the handler has ended the run already (R85, R399). -/
def endWord (t : Troupe) : Troupe := if t.finish.held.isNone && t.held.isSome then t.finish else t.finish.restRun

theorem endWord_goesOn {t : Troupe} (h : t.frontier ≠ []) : t.endWord = t.restRun := by
  unfold endWord
  rw [finish_of_ne h, if_neg]
  cases t.held <;> simp

theorem endWord_retires {t : Troupe} (h : t.frontier = []) (hh : t.held = none) :
    t.endWord = { t.restRun with status := .retired } := by
  unfold endWord
  rw [finish_retires h hh, if_neg (by simp [hh])]
  rfl

theorem resume_held {t : Troupe} {h : Held} (hh : t.held = some h) : t.resume.held = none := by
  cases hl : t.headLeft h
  · rw [resume_of_not_headLeft hh hl]
  · rw [resume_of_headLeft hh hl]

theorem endWord_returns {t : Troupe} {h : Held} (hf : t.frontier = []) (hh : t.held = some h) : t.endWord = t.resume := by
  unfold endWord
  rw [finish_returns hf hh, if_pos (by simp [hh, resume_held hh])]

theorem endWord_frame (t : Troupe) : t.endWord = { t with
    held := t.endWord.held, tmask := t.endWord.tmask, frontier := t.endWord.frontier, run := t.endWord.run
    midRun := t.endWord.midRun, rm := t.endWord.rm, status := t.endWord.status, kept := t.endWord.kept
    keptTag := t.endWord.keptTag, prog := t.endWord.prog } := by
  have h := finish_frame t
  unfold endWord
  split
  · exact h
  · rw [h]; rfl

@[simp] theorem readV_endWord (t : Troupe) (r l : Nat) : t.endWord.readV r l = t.readV r l := by rw [endWord_frame]; rfl
@[simp] theorem readS_endWord (t : Troupe) (r : Nat) : t.endWord.readS r = t.readS r := by rw [endWord_frame]; rfl
@[simp] theorem readP_endWord (t : Troupe) (q : Nat) : t.endWord.readP q = t.readP q := by rw [endWord_frame]; rfl
@[simp] theorem readTag_endWord (t : Troupe) (r b : Nat) : t.endWord.readTag r b = t.readTag r b := by rw [endWord_frame]; rfl

end Troupe

end Sys2Proof.Machine

namespace Sys2Proof.Claims
open Sys2Proof.Machine

/-- The troupe after a word: on to the next word or block with what is left of the issuing entry, or without that entry. -/
theorem goOn_eq_finish (n : Nat) (x : Env) (hdr : DWord) (t : Troupe) (e : FEntry) (es : List FEntry) (hf : t.frontier = e :: es) :
    t.goOn n x hdr
      = ({ t.retire n x.c.len with frontier := if e.mask = 0 then es else goesTo x hdr (e :: es) } : Troupe).finish := by
  by_cases hm : e.mask = 0
  · rw [if_pos hm]
    unfold Troupe.goOn Troupe.advance
    simp only [hf, if_pos hm]
    split
    · rfl
    · simp [Troupe.retire, hf, hm]
  · have hne : goesTo x hdr (e :: es) ≠ [] := by
      show (if x.c.last then _ else _) ≠ []
      split
      · simpa [passYield] using moveLanes_ne_nil e es hdr _ hm
      · simp
    rw [if_neg hm, goOn_eq n x hdr t e es hf hm, hf, Troupe.finish_of_ne hne]

/-- A word that took effect and ends its run, with the troupe `u` as it goes on before its frontier is looked at. -/
theorem complete_ends {s s0 : State} {x : Env} {t u : Troupe} (h : s.troupe? x.r = some t) {n : Nat} {hdr : DWord}
    (hgo : t.goOn n x hdr = u.finish) (hh : u.held = x.t.held) :
    State.complete true n x s0 (.ok hdr) s = (s.setTroupe x.r u.endWord).freeSlot x.r := by
  simp only [State.complete, Bool.true_or, if_true, State.proceed, State.modTroupe_of h, State.endAfter,
    State.troupe?_setTroupe_same h, Troupe.endWord, hgo, hh]
  split
  · rfl
  · exact State.endRun_setTroupe h _

/-! ## EXIT -/

/-- The state in which the troupe of `x` has left its act, when the lanes `g` were its last (12 R274). -/
def exitState (s : State) (x : Env) (g : Lanes) : State :=
  if x.t.launched &&& ~~~(x.t.exited ||| g) = 0 then s.modBlock x.r.cluster x.r.block (fun b => b.troupeExits x.r.troupe) else s

theorem rdByte_exitState (s : State) (x : Env) (g : Lanes) (k : Nat) : (exitState s x g).rdByte k = s.rdByte k := by
  unfold exitState
  split
  · simp [State.rdByte]
  · rfl

theorem slots_exitState (s : State) (x : Env) (g : Lanes) : (exitState s x g).slots = s.slots := by
  unfold exitState
  split
  · simp
  · rfl

theorem troupe?_exitState {s : State} {x : Env} (h : s.env? = some x) (g : Lanes) :
    (exitState s x g).troupe? x.r = some x.t := by
  obtain ⟨-, hc, hb, ht, -⟩ := State.env?_some h
  obtain ⟨hlt, -⟩ := List.getElem?_eq_some_iff.mp hb
  unfold exitState
  split
  · rw [State.modBlock_eq hc hb]
    simp [State.troupe?, State.block?, State.cluster?_setCluster, hc, hlt, Block.troupes_troupeExits, ht]
  · exact State.env?_troupe h

/-- Whether the troupe leaves its act before or after its lanes have been taken out makes no difference. -/
theorem exitState_setTroupe {s : State} {x : Env} (h : s.env? = some x) (g : Lanes) {t : Troupe} (hw : t.wrote = x.t.wrote) :
    (if x.t.launched &&& ~~~(x.t.exited ||| g) = 0
      then (s.setTroupe x.r t).modBlock x.r.cluster x.r.block (fun b => b.troupeExits x.r.troupe) else s.setTroupe x.r t)
      = (exitState s x g).setTroupe x.r t := by
  obtain ⟨-, hc, hb, ht, -⟩ := State.env?_some h
  unfold exitState
  split
  · exact State.modBlock_setTroupe hc hb t _ (Block.troupeExits_withTroupes (Block.sameCounts_set ht hw) _)
      (Block.troupes_troupeExits _ _)
  · rfl

/-- The troupe after EXIT of the lanes `g`, before its frontier is looked at: `front` is what is left of it. -/
def exited (x : Env) (g : Lanes) (front : List FEntry) : Troupe :=
  { (x.t.exitLanes g).retire 1 x.c.len with frontier := front }

theorem exec_exit {s : State} {x : Env} {o : Op} {hdr : DWord} {e : FEntry} {es : List FEntry} (h : Runs s x 0x005 o hdr)
    (hf : x.t.frontier = e :: es) :
    let g := x.t.selected o.guard
    let left := e.mask &&& ~~~g
    let front := if left = 0 then es else goesTo x hdr ({ e with mask := left } :: es)
    exec (.exit o) s = .next (((exitState s x g).setTroupe x.r (exited x g front).endWord).freeSlot x.r) := by
  intro g left front
  have hends : (o.endsRun || endsOwn 0x005 x.det) = true := by simp [endsOwn]
  have ht := troupe?_exitState h.env g
  have hbody : exitBody o x s = .done ((exitState s x g).setTroupe x.r (x.t.exitLanes g)) := by
    rw [← exitState_setTroupe h.env g (t := x.t.exitLanes g) rfl]
    unfold exitBody
    rw [h.falls]
    rfl
  have hhead : (x.t.exitLanes g).frontier = { e with mask := left } :: es := by rw [exitLanes_eq hf]
  rw [show exec (.exit o) s = issueOp 0x005 (.exit o) o (exitBody o) s from rfl, issueOp_ok h.env h.checks h.whole, hbody,
    h.falls, hends]
  simp only [settle]
  rw [complete_ends (State.troupe?_setTroupe_same ht _) (goOn_eq_finish 1 x hdr _ _ es hhead) rfl,
    State.setTroupe_setTroupe ht]
  rfl

end Sys2Proof.Claims
end

section
/-! SUPPORT. EXIT: the four ends of its troupe (05 R117; 18 R399, R400), and O21. -/

namespace Sys2Proof.Claims
open Sys2Proof.Machine

section
variable {x : Env} {g : Lanes} {front : List FEntry}

/-- What EXIT leaves of its troupe that no return from a handler touches. -/
theorem exited_frame {e : FEntry} {es : List FEntry} (hf : x.t.frontier = e :: es) :
    let t' := (exited x g front).endWord
    t' = { x.t with
      exited := x.t.exited ||| g
      late := x.t.late.map (fun p => if p.load then { p with v := p.v.filter (fun c => !hasLane g (c.1 % 128)) } else p)
      prog := t'.prog, frontier := t'.frontier, held := t'.held, tmask := t'.tmask
      run := t'.run, midRun := t'.midRun, rm := t'.rm, status := t'.status, retiredInsns := x.t.retiredInsns + 1
      redo := false, served := 0, kept := t'.kept, keptTag := t'.keptTag
      counters := { x.t.counters with retired := (x.t.counters.retired + 1) % 2 ^ 64 } } := by
  have h := Troupe.endWord_frame (exited x g front)
  generalize (exited x g front).endWord = t' at h ⊢
  rw [exited, exitLanes_eq hf] at h
  exact h

/-- With an entry left the troupe goes on. -/
theorem exited_goesOn (hne : front ≠ []) : (exited x g front).endWord = (exited x g front).restRun :=
  Troupe.endWord_goesOn hne

theorem rests_exited : Rests (exited x g front).restRun := ⟨rfl, rfl, rfl, rfl, rfl⟩

/-- Without an entry left, and out of handler mode, the troupe retires. -/
theorem exited_retires (h0 : front = []) (hh : x.t.held = none) :
    (exited x g front).endWord = { (exited x g front).restRun with status := .retired } :=
  Troupe.endWord_retires h0 hh

/-- Without an entry left, the handler returns. -/
theorem exited_returns {h : Held} (h0 : front = []) (hh : x.t.held = some h) :
    let u := exited x g front
    let t' := u.endWord
    t'.held = none ∧ t'.tmask = u.survivors h x.t.tmask ∧ t'.frontier = u.restored h
      ∧ (u.headLeft h = false → t'.prog = 0 ∧ Rests t' ∧ t'.status = if t'.frontier = [] then .retired else .ready)
      ∧ (u.headLeft h = true → t'.prog = x.t.prog ∧ t'.status = .ready ∧ t'.frontier ≠ []
        ∧ t'.run = h.run ∧ t'.midRun = true ∧ t'.kept = h.kept ∧ t'.keptTag = h.keptTag
        ∧ t'.rm = some (if x.t.tcause.toNat = 0x38 ∨ x.t.tcause.toNat = 0x39 then 0 else t'.tmask)) := by
  intro u t'
  have hhu : u.held = some h := hh
  have hret : t' = u.resume := Troupe.endWord_returns h0 hhu
  cases hl : u.headLeft h
  · rw [hret, Troupe.resume_of_not_headLeft hhu hl]
    exact ⟨rfl, rfl, rfl, fun _ => ⟨rfl, ⟨rfl, rfl, rfl, rfl, rfl⟩, rfl⟩, fun hc => Bool.noConfusion hc⟩
  · rw [hret, Troupe.resume_of_headLeft hhu hl]
    exact ⟨rfl, rfl, rfl, fun hc => Bool.noConfusion hc,
      fun _ => ⟨rfl, rfl, Troupe.restored_ne_nil hl, rfl, rfl, rfl, rfl, rfl⟩⟩
end

/-- EXIT where R90 refuses the header after it (log entry 14). -/
theorem exit_at_bad_target {s : State} {x : Env} {o : Op} {tr : TrapX} (h : Reaches s x 0x005 o)
    (hbad : s.fallCheck x (fallLanes 0x005 o x) = .bad tr) :
    exec (.exit o) s
      = .next ((s.setTroupe x.r (x.t.exitLanes (x.t.selected o.guard))).takeTrap x.r x.cl.launch x.c.pc tr) := by
  have hbody : exitBody o x s = .trap (s.setTroupe x.r (x.t.exitLanes (x.t.selected o.guard))) tr := by
    unfold exitBody
    rw [hbad]
  rw [show exec (.exit o) s = issueOp 0x005 (.exit o) o (exitBody o) s from rfl, issueOp_ok h.env h.checks h.whole, hbody]
  rfl

theorem exitEndsLanes : ExitEndsLanes := by
  refine ⟨fun s x o hdr e es h hf => ?_, fun s x o e es tr h hf hbad => ⟨_, exitLanes_eq hf _, exit_at_bad_target h hbad⟩⟩
  intro t g left front s1
  have hframe := exited_frame (g := g) (front := front) hf
  refine ⟨(exited x g front).endWord, ?_, ?_, ?_, ?_, ?_, ?_, rdByte_exitState s x g, ?_, ?_, ?_, ?_, ?_, ?_, hframe⟩
  · rw [exec_exit h hf]
    simp only [State.freeSlot, State.setTroupe_slots, slots_exitState]
    rfl
  · rw [hframe]
  · intro r l hl hlane
    rw [Troupe.readV_endWord]
    exact readV_exitLanes x.t g r l hl hlane
  · intro r
    rw [Troupe.readS_endWord]
    exact readS_exitLanes x.t g r
  · intro q
    rw [Troupe.readP_endWord]
    rfl
  · intro r b
    rw [Troupe.readTag_endWord]
    exact readTag_exitLanes x.t g r b
  · intro hne
    rw [exited_goesOn hne]
    exact ⟨rfl, rfl, rfl⟩
  · intro h0 hh
    rw [exited_retires h0 hh]
    exact ⟨h0, rfl⟩
  · intro y h0 hh
    obtain ⟨hheld, htmask, hfront, hidle, hrun⟩ := exited_returns (g := g) h0 hh
    refine ⟨hheld, htmask, hfront, ?_⟩
    cases hl : (exited x g front).headLeft y
    · exact (hidle hl).1.trans (if_neg (by rw [Bool.not_eq_true]; exact hl)).symm
    · exact (hrun hl).1.trans (if_pos hl).symm
  · rintro (hne | hh)
    · rw [exited_goesOn hne]
      exact ⟨rfl, rests_exited⟩
    · by_cases h0 : front = []
      · rw [exited_retires h0 hh]
        exact ⟨rfl, rests_exited (x := x) (g := g) (front := front)⟩
      · rw [exited_goesOn h0]
        exact ⟨rfl, rests_exited⟩
  · intro y h0 hh hempty
    obtain ⟨-, -, -, hidle, hrun⟩ := exited_returns (g := g) h0 hh
    cases hl : (exited x g front).headLeft y
    · obtain ⟨-, hrests, hstatus⟩ := hidle hl
      exact ⟨hstatus.trans (if_pos hempty), hrests⟩
    · exact absurd hempty (hrun hl).2.2.1
  · intro y h0 hh hne
    obtain ⟨-, -, -, hidle, hrun⟩ := exited_returns (g := g) h0 hh
    cases hl : (exited x g front).headLeft y
    · obtain ⟨-, hrests, hstatus⟩ := hidle hl
      exact ⟨hstatus.trans (if_neg hne), fun _ => hrests, fun hc => absurd (hl.symm.trans hc) Bool.false_ne_true⟩
    · obtain ⟨-, hstatus, -, hrest⟩ := hrun hl
      exact ⟨hstatus, fun hc => absurd (hc.symm.trans hl) Bool.false_ne_true, fun _ => hrest⟩

/-- Settles O21: EXIT by the troupe that it leaves before its frontier is looked at, the order after YIELD by the issue order of
the frontier and the earliest YIELD to which a run is owed. -/
theorem exitYieldAndNop : Obligations.ExitYieldAndNop := ⟨exitEndsLanes, yieldAndNop⟩

end Sys2Proof.Claims
end

section
/-! SUPPORT. Codes of the formats with infinities (02 R39, R40, R58): a code is a sign and a magnitude, and what each stands for. -/

namespace Sys2Proof.Claims
open Sys2Proof.Machine

/-! ## One bit of a code -/

theorem or_two_pow_eq (c k : Nat) : c ||| 2 ^ k = if c / 2 ^ k % 2 = 1 then c else c + 2 ^ k := by
  have hdiv : (c ||| 2 ^ k) / 2 ^ k = c / 2 ^ k ||| 1 := by rw [Nat.or_div_two_pow, Nat.div_self (Nat.two_pow_pos k)]
  have hmod : (c ||| 2 ^ k) % 2 ^ k = c % 2 ^ k := by simp [Nat.or_mod_two_pow]
  have hhalf : (c / 2 ^ k ||| 1) / 2 = c / 2 ^ k / 2 := by simpa using Nat.or_div_two_pow (a := c / 2 ^ k) (b := 1) (n := 1)
  have hodd : (c / 2 ^ k ||| 1) % 2 = 1 := by simp
  rw [← Nat.div_add_mod (c ||| 2 ^ k) (2 ^ k), hdiv, hmod]
  have hc := Nat.div_add_mod c (2 ^ k)
  split
  · next h =>
    have : c / 2 ^ k ||| 1 = c / 2 ^ k := by omega
    rw [this, hc]
  · next h =>
    have : c / 2 ^ k ||| 1 = c / 2 ^ k + 1 := by omega
    rw [this, Nat.mul_succ]
    omega

theorem xor_two_pow_eq {c k : Nat} (hc : c < 2 * 2 ^ k) : c ^^^ 2 ^ k = if 2 ^ k ≤ c then c - 2 ^ k else c + 2 ^ k := by
  have hmod : (c ^^^ 2 ^ k) % 2 ^ k = c % 2 ^ k := by simp [Nat.xor_mod_two_pow]
  have hdiv : (c ^^^ 2 ^ k) / 2 ^ k = c / 2 ^ k ^^^ 1 := by rw [Nat.xor_div_two_pow, Nat.div_self (Nat.two_pow_pos k)]
  rw [← Nat.div_add_mod (c ^^^ 2 ^ k) (2 ^ k), hdiv, hmod]
  split
  · next h =>
    have hq : c / 2 ^ k = 1 := Nat.div_eq_of_lt_le (by omega) (by omega)
    have := Nat.div_add_mod c (2 ^ k)
    simp only [hq, Nat.mul_one, Nat.xor_self, Nat.mul_zero] at this ⊢
    omega
  · next h =>
    have hlt : c < 2 ^ k := by omega
    simp [Nat.div_eq_of_lt hlt, Nat.mod_eq_of_lt hlt, Nat.add_comm]

/-- The top bit cleared, as a number. -/
theorem toNat_clearBit {c k : Nat} (hc : c < 2 * 2 ^ k) :
    (BitVec.ofNat (k + 1) c &&& ~~~BitVec.ofNat (k + 1) (2 ^ k)).toNat = if 2 ^ k ≤ c then c - 2 ^ k else c := by
  have hmod : (if 2 ^ k ≤ c then c - 2 ^ k else c) = c % 2 ^ k := by
    split
    · next h => rw [Nat.mod_eq_sub_mod h, Nat.mod_eq_of_lt (by omega)]
    · next h => rw [Nat.mod_eq_of_lt (by omega)]
  rw [hmod]
  apply Nat.eq_of_testBit_eq
  intro i
  change BitVec.getLsbD _ i = _
  simp only [BitVec.getLsbD_and, BitVec.getLsbD_not, BitVec.getLsbD_ofNat, Nat.testBit_two_pow, Nat.testBit_mod_two_pow]
  rcases Nat.lt_trichotomy i k with h | rfl | h
  · simp [h, show i < k + 1 by omega, show k ≠ i by omega]
  · simp
  · simp [show ¬i < k by omega, show ¬i < k + 1 by omega]

/-! ## Sign and magnitude -/

section
variable {T : Fmt} {c : Nat}

theorem two_pow_bits (T : Fmt) : 2 ^ T.bits = 2 * T.signBit := by cases T <;> rfl

/-- The magnitude of a code: what its sign bit leaves. -/
def magOf (T : Fmt) (c : Nat) : Nat := c % T.signBit

/-- The sign of a code. -/
def negOf (T : Fmt) (c : Nat) : Bool := decide (T.signBit ≤ c)

theorem code_of_negOf (hc : c < 2 ^ T.bits) : c = if negOf T c then T.signBit + magOf T c else magOf T c := by
  rw [two_pow_bits] at hc
  unfold negOf magOf
  by_cases h : T.signBit ≤ c
  · rw [decide_eq_true h, if_pos rfl, Nat.mod_eq_sub_mod h, Nat.mod_eq_of_lt (by omega)]
    omega
  · rw [decide_eq_false h, Nat.mod_eq_of_lt (by omega)]
    rfl

theorem magOf_lt : magOf T c < T.signBit := Nat.mod_lt _ (Nat.two_pow_pos _)

theorem signed_of_hasInf (h : T.hasInf = true) (s : Bool) (m : Nat) : signed T s m = if s then T.signBit + m else m := by
  unfold signed
  split
  · cases h
  · rfl

/-- A code is its magnitude with its sign. -/
theorem signed_negOf (h : T.hasInf = true) (hc : c < 2 ^ T.bits) : signed T (negOf T c) (magOf T c) = c := by
  rw [signed_of_hasInf h, ← code_of_negOf hc]

theorem signed_false_zero (T : Fmt) : signed T false 0 = 0 := by cases T <;> rfl

theorem negF_eq_xor (hc : c < 2 ^ T.bits) : negF T c = c ^^^ T.signBit :=
  (xor_two_pow_eq (two_pow_bits T ▸ hc)).symm

theorem quiet_eq_or (T : Fmt) (c : Nat) : quiet T c = c ||| 2 ^ (T.man - 1) := (or_two_pow_eq c _).symm

/-- The order of FMIN and FMAX, by magnitude within each sign. -/
theorem orderKey_eq (hc : c < 2 ^ T.bits) : orderKey T c = if negOf T c then -(magOf T c : Int) - 1 else magOf T c := by
  have h := code_of_negOf hc
  unfold orderKey
  unfold negOf at h ⊢
  by_cases hs : T.signBit ≤ c
  · rw [decide_eq_true hs, if_pos rfl] at h
    rw [decide_eq_true hs, if_pos hs, if_pos rfl]
    omega
  · rw [decide_eq_false hs, if_neg Bool.false_ne_true] at h
    rw [decide_eq_false hs, if_neg hs, if_neg Bool.false_ne_true, ← h]

theorem orderKey_injective {a b : Nat} (h : orderKey T a = orderKey T b) : a = b := by
  unfold orderKey at h
  split at h <;> split at h <;> omega

/-! ## What a code stands for -/

/-- The exponent of the least magnitude of a format. -/
def leastExp (T : Fmt) : Int := 1 - (T.bias : Int) - T.man

/-- A finite magnitude code as a multiple of the least magnitude of its format. -/
def units (T : Fmt) (m : Nat) : Nat :=
  if m / 2 ^ T.man = 0 then m % 2 ^ T.man else (2 ^ T.man + m % 2 ^ T.man) * 2 ^ (m / 2 ^ T.man - 1)

/-- The value `v` of a code, by its sign and magnitude. -/
inductive Stands (T : Fmt) (s : Bool) (m : Nat) : FVal → Prop
  | nan (h : T.infMag < m) : Stands T s m .nan
  | inf (h : m = T.infMag) : Stands T s m (.inf s)
  | fin (n : Nat) (e : Int) (h : m < T.infMag) (he : leastExp T ≤ e) (hn : n * 2 ^ (e - leastExp T).toNat = units T m) :
      Stands T s m (.fin s n e)

theorem decodeF_of_hasInf (h : T.hasInf = true) (hc : c < 2 ^ T.bits) : decodeF T c =
    if magOf T c = T.infMag then .inf (negOf T c) else if T.infMag < magOf T c then .nan
    else if magOf T c / 2 ^ T.man = 0 then .fin (negOf T c) (magOf T c % 2 ^ T.man) (leastExp T)
    else .fin (negOf T c) (2 ^ T.man + magOf T c % 2 ^ T.man) ((magOf T c / 2 ^ T.man : Nat) - T.bias - T.man) := by
  unfold decodeF
  split
  · cases h
  · have h4 : T ≠ .e4m3 := by rintro rfl; cases h
    simp only [h, h4, Nat.mod_eq_of_lt hc, magOf, negOf, leastExp, Bool.true_and, decide_eq_true_eq, decide_false,
      Bool.false_and, Bool.false_eq_true, if_false]
    rfl

/-- What a code of a format with infinities stands for (R39, R40). -/
theorem stands_decodeF (h : T.hasInf = true) (hc : c < 2 ^ T.bits) : Stands T (negOf T c) (magOf T c) (decodeF T c) := by
  rw [decodeF_of_hasInf h hc]
  split
  · next hi => exact .inf hi
  · next hi =>
    split
    · next hn => exact .nan hn
    · next hn =>
      split
      · next h0 => exact .fin _ _ (by omega) (Int.le_refl _) (by simp [units, h0])
      · next h0 =>
        have hm : magOf T c < T.infMag := by omega
        generalize hq : magOf T c / 2 ^ T.man = q at h0 ⊢
        refine .fin _ _ hm (by unfold leastExp; omega) ?_
        rw [units, hq, if_neg h0]
        congr 2
        unfold leastExp
        omega

theorem eq_of_decodeF_inf (h : T.hasInf = true) (hc : c < 2 ^ T.bits) {s : Bool} (hv : decodeF T c = .inf s) :
    c = signed T s T.infMag := by
  have hst := stands_decodeF h hc
  rw [hv] at hst
  obtain ⟨hm⟩ | hm := hst
  rw [← hm, signed_negOf h hc]

end

/-! ## The first NaN -/

section
variable {T : Fmt} {c : Nat} {cs : List Nat}

/-- The first NaN is quieted, whatever follows it. -/
theorem firstNan_of_nan (h : (decodeF T c).isNan = true) : firstNan T (c :: cs) = some (c ||| 2 ^ (T.man - 1)) := by
  rw [firstNan, isNanF, if_pos h, quiet_eq_or]

theorem firstNan_of_number (h : (decodeF T c).isNan = false) : firstNan T (c :: cs) = firstNan T cs := by
  rw [firstNan, isNanF, if_neg (by simp [h])]

theorem firstNan_nil (T : Fmt) : firstNan T [] = none := rfl

end

end Sys2Proof.Claims
end

section
/-! SUPPORT. Exact dyadic numbers as multiples of a power of two, and the order of FMIN and FMAX (06 R143). -/

namespace Sys2Proof.Claims
open Sys2Proof.Machine

/-! ## Multiples of 2^k -/

/-- An exact number as a multiple of 2^k, where k is at most its exponent. -/
def multiple (k : Int) (x : Dy) : Int := x.n * 2 ^ (x.e - k).toNat

section
variable {k : Int} {a b : Dy}

theorem two_pow_split {i j : Int} (hk : k ≤ i) (hij : i ≤ j) :
    (2 : Int) ^ (j - k).toNat = 2 ^ (j - i).toNat * 2 ^ (i - k).toNat := by
  rw [← Int.pow_add]
  congr 1
  omega

theorem multiple_of_zero (h : a.n = 0) : multiple k a = 0 := by simp [multiple, h]

theorem le_exp_add (ha : k ≤ a.e) (hb : k ≤ b.e) : k ≤ (a.add b).e := by
  unfold Dy.add
  split
  · exact hb
  · split
    · exact ha
    · split <;> assumption

theorem multiple_add (ha : k ≤ a.e) (hb : k ≤ b.e) : multiple k (a.add b) = multiple k a + multiple k b := by
  unfold Dy.add
  split
  · next h => rw [multiple_of_zero h, Int.zero_add]
  · split
    · next h => rw [multiple_of_zero h, Int.add_zero]
    · split
      · next h => simp only [multiple, two_pow_split ha h, Int.add_mul, Int.mul_assoc]
      · next h => simp only [multiple, two_pow_split hb (show b.e ≤ a.e by omega), Int.add_mul, Int.mul_assoc]

theorem multiple_neg : multiple k a.neg = -multiple k a := Int.neg_mul ..

theorem two_pow_toNat_pos (e : Int) : (0 : Int) < 2 ^ (e - k).toNat := Int.pow_pos (by decide)

theorem multiple_lt_zero : multiple k a < 0 ↔ a.n < 0 :=
  ⟨fun h => Int.neg_of_mul_neg_left h (two_pow_toNat_pos a.e),
    fun h => Int.mul_neg_of_neg_of_pos h (two_pow_toNat_pos a.e)⟩

theorem multiple_eq_zero : multiple k a = 0 ↔ a.n = 0 := by
  rw [multiple, Int.mul_eq_zero, or_iff_left (Int.ne_of_gt (two_pow_toNat_pos a.e))]

/-- The order of exact numbers is that of their multiples. -/
theorem below_eq (ha : k ≤ a.e) (hb : k ≤ b.e) : below a b = decide (multiple k a < multiple k b) := by
  unfold below
  rw [decide_eq_decide, ← multiple_lt_zero (k := k), multiple_add ha (b := b.neg) hb, multiple_neg]
  omega

theorem same_eq (ha : k ≤ a.e) (hb : k ≤ b.e) : same a b = decide (multiple k a = multiple k b) := by
  unfold same
  rw [decide_eq_decide, ← multiple_eq_zero (k := k), multiple_add ha (b := b.neg) hb, multiple_neg]
  omega

end

/-! ## The order of codes (R143) -/

section
variable {T : Fmt}

/-- A magnitude code by its exponent field and its mantissa field. -/
theorem units_eq {f : Nat} (q : Nat) (hf : f < 2 ^ T.man) :
    units T (2 ^ T.man * q + f) = if q = 0 then f else (2 ^ T.man + f) * 2 ^ (q - 1) := by
  rw [units, Nat.mul_add_div (Nat.two_pow_pos _), Nat.div_eq_of_lt hf, Nat.add_zero, Nat.mul_add_mod, Nat.mod_eq_of_lt hf]

theorem units_lt_succ (T : Fmt) (m : Nat) : units T m < units T (m + 1) := by
  have hf := Nat.mod_lt m (Nat.two_pow_pos T.man)
  rw [← Nat.div_add_mod m (2 ^ T.man)]
  generalize m / 2 ^ T.man = q
  generalize m % 2 ^ T.man = f at hf
  rw [units_eq q hf]
  by_cases hc : f + 1 < 2 ^ T.man
  · rw [Nat.add_assoc, units_eq q hc]
    split
    · exact Nat.lt_succ_self f
    · exact Nat.mul_lt_mul_of_pos_right (by omega) (Nat.two_pow_pos _)
  · have hnext : 2 ^ T.man * q + f + 1 = 2 ^ T.man * (q + 1) + 0 := by rw [Nat.mul_succ]; omega
    rw [hnext, units_eq (q + 1) (Nat.two_pow_pos _), if_neg (Nat.succ_ne_zero q), Nat.add_sub_cancel]
    split
    · next h => subst h; omega
    · next h =>
      have hq : 2 ^ q = 2 * 2 ^ (q - 1) := by rw [← Nat.pow_succ']; congr 1; omega
      rw [hq, Nat.add_zero, ← Nat.mul_assoc]
      exact Nat.mul_lt_mul_of_pos_right (by omega) (Nat.two_pow_pos _)

theorem units_lt_of_lt {m m' : Nat} (h : m < m') : units T m < units T m' := by
  induction h with
  | refl => exact units_lt_succ T m
  | step _ ih => exact Nat.lt_trans ih (units_lt_succ T _)

/-- The units of magnitude codes are ordered as the codes are. -/
theorem units_lt_iff {m m' : Nat} : units T m < units T m' ↔ m < m' := by
  refine ⟨fun h => Nat.lt_of_not_le fun hle => ?_, units_lt_of_lt⟩
  rcases Nat.lt_or_eq_of_le hle with hlt | rfl
  · exact Nat.lt_asymm h (units_lt_of_lt hlt)
  · exact Nat.lt_irrefl _ h

theorem units_zero (T : Fmt) : units T 0 = 0 := by simp [units]

/-- The exact value of a finite code counts its magnitude with its sign. -/
theorem multiple_dy {s : Bool} {n m : Nat} {e : Int} (hn : n * 2 ^ (e - leastExp T).toNat = units T m) :
    multiple (leastExp T) (FVal.fin s n e).dy = if s then -(units T m : Int) else units T m := by
  have hcast : (units T m : Int) = n * 2 ^ (e - leastExp T).toNat := by rw [← hn, Int.natCast_mul, Int.natCast_pow]; rfl
  rw [hcast]
  cases s
  · rfl
  · exact Int.neg_mul ..

theorem under_fin (s s' : Bool) (n n' : Nat) (e e' : Int) : under (.fin s n e) (.fin s' n' e') =
    (below (FVal.fin s n e).dy (FVal.fin s' n' e').dy || (same (FVal.fin s n e).dy (FVal.fin s' n' e').dy && s && !s')) := by
  simp only [under, FVal.isNeg]

/-- The order of values that are no NaNs is that of their codes, the negative ones downwards. -/
theorem under_eq_of_stands {s s' : Bool} {m m' : Nat} {v v' : FVal} (hv : Stands T s m v) (hv' : Stands T s' m' v')
    (hn : v.isNan = false) (hn' : v'.isNan = false) :
    under v v' = decide ((if s then -(m : Int) - 1 else m) < if s' then -(m' : Int) - 1 else m') := by
  rcases hv with _ | hm | ⟨n, e, hm, he, hu⟩
  · cases hn
  · rcases hv' with _ | hm' | ⟨n', e', hm', -, -⟩
    · cases hn'
    · cases s <;> cases s' <;> simp [under] <;> omega
    · cases s <;> cases s' <;> simp [under] <;> omega
  · rcases hv' with _ | hm' | ⟨n', e', hm', he', hu'⟩
    · cases hn'
    · cases s <;> cases s' <;> simp [under] <;> omega
    · have hlt := units_lt_iff (T := T) (m := m) (m' := m')
      have hgt := units_lt_iff (T := T) (m := m') (m' := m)
      rw [under_fin, below_eq he he', same_eq he he', multiple_dy hu, multiple_dy hu', Bool.eq_iff_iff]
      simp only [Bool.or_eq_true, Bool.and_eq_true, decide_eq_true_eq, Bool.not_eq_true']
      cases s <;> cases s' <;> simp <;> omega

theorem under_decodeF {a b : Nat} (h : T.hasInf = true) (ha : a < 2 ^ T.bits) (hb : b < 2 ^ T.bits)
    (hna : (decodeF T a).isNan = false) (hnb : (decodeF T b).isNan = false) :
    under (decodeF T a) (decodeF T b) = decide (orderKey T a < orderKey T b) := by
  rw [orderKey_eq ha, orderKey_eq hb]
  exact under_eq_of_stands (stands_decodeF h ha) (stands_decodeF h hb) hna hnb

end

end Sys2Proof.Claims
end

section
/-! SUPPORT. The float functions on codes of a format with infinities (02 R57, R58; 06 R140 to R143, R147): NaN operands first,
then infinities and zeros, then the exact value rounded once. -/

namespace Sys2Proof.Claims
open Sys2Proof.Machine

section
variable {T : Fmt} {r : Rnd} {a b c : Nat}

/-! ## NaN operands (R58) -/

theorem isNan_of_isInf {v : FVal} (h : v.isInf = true) : v.isNan = false := by cases v <;> trivial

theorem isNan_of_isZero {v : FVal} (h : v.isZero = true) : v.isNan = false := by cases v <;> trivial

theorem isZero_of_isInf {v : FVal} (h : v.isInf = true) : v.isZero = false := by cases v <;> trivial

theorem ops_first_nan (h : (decodeF T a).isNan = true) :
    let q := a ||| 2 ^ (T.man - 1)
    addF T r a b = q ∧ subF T r a b = q ∧ mulF T r a b = q ∧ fmaF T r a b c = q ∧ minF T a b = q ∧ maxF T a b = q
      ∧ roundIntegralF T r a = q := by
  have hv : decodeF T a = .nan := by cases hd : decodeF T a <;> simp_all [FVal.isNan]
  refine ⟨?_, ?_, ?_, ?_, ?_, ?_, ?_⟩
  · simp only [addF, sumF, firstNan_of_nan h]
  · simp only [subF, firstNan_of_nan h]
  · simp only [mulF, firstNan_of_nan h]
  · simp only [fmaF, firstNan_of_nan h]
  · simp only [minF, firstNan_of_nan h]
  · simp only [maxF, firstNan_of_nan h]
  · simp only [roundIntegralF, hv, quiet_eq_or]

theorem ops_second_nan (ha : (decodeF T a).isNan = false) (h : (decodeF T b).isNan = true) :
    let q := b ||| 2 ^ (T.man - 1)
    addF T r a b = q ∧ subF T r a b = q ∧ mulF T r a b = q ∧ fmaF T r a b c = q ∧ minF T a b = q ∧ maxF T a b = q := by
  have hf (cs : List Nat) : firstNan T (a :: b :: cs) = some (b ||| 2 ^ (T.man - 1)) := by
    rw [firstNan_of_number ha, firstNan_of_nan h]
  refine ⟨?_, ?_, ?_, ?_, ?_, ?_⟩
  · simp only [addF, sumF, hf]
  · simp only [subF, hf]
  · simp only [mulF, hf]
  · simp only [fmaF, hf]
  · simp only [minF, hf]
  · simp only [maxF, hf]

theorem fmaF_third_nan (ha : (decodeF T a).isNan = false) (hb : (decodeF T b).isNan = false)
    (h : (decodeF T c).isNan = true) : fmaF T r a b c = c ||| 2 ^ (T.man - 1) := by
  simp only [fmaF, firstNan_of_number ha, firstNan_of_number hb, firstNan_of_nan h]

theorem firstNan_pair (ha : (decodeF T a).isNan = false) (hb : (decodeF T b).isNan = false) : firstNan T [a, b] = none := by
  rw [firstNan_of_number ha, firstNan_of_number hb, firstNan_nil]

theorem subF_of_numbers (hlt : b < 2 ^ T.bits) (ha : (decodeF T a).isNan = false) (hb : (decodeF T b).isNan = false) :
    subF T r a b = addF T r a (b ^^^ T.signBit) := by
  simp only [subF, firstNan_pair ha hb, negF_eq_xor hlt]

/-! ## Sums (R140) -/

/-- An exact sum, rounded once, or the zero whose sign its terms give. -/
theorem rndSum_eq (n p : Bool) (x : Dy) : rndSum T r n p x =
    if x.n = 0 then signed T (n || (!p && r.mode = .rdn)) 0 else (rndF T r (decide (x.n < 0)) x.n.natAbs x.e).1 := by
  unfold rndSum
  split
  · cases n <;> cases p <;> simp [zeroSum, signed_false_zero]
  · rfl

theorem dy_zero_add (x : Dy) : (⟨0, 0⟩ : Dy).add x = x := by simp [Dy.add]

theorem addF_of_infs {s s' : Bool} (h : T.hasInf = true) (hc : a < 2 ^ T.bits) (ha : decodeF T a = .inf s)
    (hb : decodeF T b = .inf s') : addF T r a b = if s = s' then a else nanc 3 T := by
  have hf : firstNan T [a, b] = none := firstNan_pair (by simp [ha, FVal.isNan]) (by simp [hb, FVal.isNan])
  have he := eq_of_decodeF_inf h hc ha
  simp only [addF, sumF, hf, List.map_cons, List.map_nil, ha, hb]
  cases s <;> cases s' <;> simp [he, signed_of_hasInf h]

theorem addF_of_inf {s : Bool} (h : T.hasInf = true) (hc : a < 2 ^ T.bits) (ha : decodeF T a = .inf s)
    (hb : (decodeF T b).isNan = false) (hi : (decodeF T b).isInf = false) :
    addF T r a b = a ∧ addF T r b a = a := by
  have ha' : (decodeF T a).isNan = false := by simp [ha, FVal.isNan]
  have hne (s' : Bool) : decodeF T b ≠ .inf s' := by intro hv; simp [hv, FVal.isInf] at hi
  have he := eq_of_decodeF_inf h hc ha
  constructor
  · simp only [addF, sumF, firstNan_pair ha' hb, List.map_cons, List.map_nil, ha]
    cases s <;> simp [hne, he, signed_of_hasInf h]
  · simp only [addF, sumF, firstNan_pair hb ha', List.map_cons, List.map_nil, ha]
    cases s <;> simp [hne, he, signed_of_hasInf h]

theorem isZero_fin (s : Bool) (m : Nat) (i : Int) : (FVal.fin s m i).isZero = decide (m = 0) := by
  cases m <;> simp [FVal.isZero]

theorem addF_of_fins {s s' : Bool} {m m' : Nat} {i i' : Int} (ha : decodeF T a = .fin s m i) (hb : decodeF T b = .fin s' m' i') :
    addF T r a b = rndSum T r (m = 0 && m' = 0 && s && s') (m = 0 && m' = 0 && !s && !s')
      ((decodeF T a).dy.add (decodeF T b).dy) := by
  have hf : firstNan T [a, b] = none := firstNan_pair (by simp [ha, FVal.isNan]) (by simp [hb, FVal.isNan])
  simp only [addF, sumF, hf, List.map_cons, List.map_nil, List.foldl_cons, List.foldl_nil, dy_zero_add]
  simp [ha, hb, isZero_fin, FVal.isNeg]
  congr 1 <;> ac_rfl

/-! ## Products (R140, R141) -/

theorem mulF_of_numbers (ha : (decodeF T a).isNan = false) (hb : (decodeF T b).isNan = false) : mulF T r a b =
    (let x := decodeF T a
     let y := decodeF T b
     let s := Bool.xor x.isNeg y.isNeg
     if (x.isInf && y.isZero) || (x.isZero && y.isInf) then nanc 4 T
     else if x.isInf || y.isInf then signed T s T.infMag
     else (rndF T r s (x.dy.mul y.dy).n.natAbs (x.dy.mul y.dy).e).1) := by
  simp only [mulF, firstNan_pair ha hb]

theorem mulF_inf_zero (ha : (decodeF T a).isInf = true) (hb : (decodeF T b).isZero = true) :
    mulF T r a b = nanc 4 T ∧ mulF T r b a = nanc 4 T := by
  have hna := isNan_of_isInf ha
  have hnb := isNan_of_isZero hb
  rw [mulF_of_numbers hna hnb, mulF_of_numbers hnb hna]
  simp [ha, hb]

theorem mulF_inf (ha : (decodeF T a).isInf = true) (hb : (decodeF T b).isNan = false) (hz : (decodeF T b).isZero = false) :
    let sign := Bool.xor (decodeF T a).isNeg (decodeF T b).isNeg
    mulF T r a b = signed T sign T.infMag ∧ mulF T r b a = signed T sign T.infMag := by
  have hna := isNan_of_isInf ha
  have hza := isZero_of_isInf ha
  rw [mulF_of_numbers hna hb, mulF_of_numbers hb hna]
  simp [ha, hza, hz, Bool.xor_comm]

/-- The magnitude and the exponent of a product. -/
theorem natAbs_mul_dy (s s' : Bool) (m m' : Nat) (i i' : Int) :
    ((FVal.fin s m i).dy.mul (FVal.fin s' m' i').dy).n.natAbs = m * m' := by
  cases s <;> cases s' <;> simp [FVal.dy, Dy.mul, Int.natAbs_mul]

theorem mulF_of_fins {s s' : Bool} {m m' : Nat} {i i' : Int} (ha : decodeF T a = .fin s m i) (hb : decodeF T b = .fin s' m' i') :
    mulF T r a b = (rndF T r (Bool.xor s s') (m * m') (i + i')).1 := by
  rw [mulF_of_numbers (by simp [ha, FVal.isNan]) (by simp [hb, FVal.isNan])]
  simp only [ha, hb, FVal.isInf, FVal.isNeg, natAbs_mul_dy, Bool.false_and, Bool.and_false, Bool.or_self, Bool.false_eq_true,
    if_false]
  rfl

/-! ## Fused products and sums (R142) -/

theorem fmaF_of_numbers (ha : (decodeF T a).isNan = false) (hb : (decodeF T b).isNan = false)
    (hc : (decodeF T c).isNan = false) : fmaF T r a b c =
    (let x := decodeF T a
     let y := decodeF T b
     let z := decodeF T c
     let s := Bool.xor x.isNeg y.isNeg
     let p := x.dy.mul y.dy
     if (x.isInf && y.isZero) || (x.isZero && y.isInf) then nanc 4 T
     else if x.isInf || y.isInf then (if z.isInf && z.isNeg != s then nanc 3 T else signed T s T.infMag)
     else if z.isInf then c
     else rndSum T r (decide (p.n = 0) && s && z.isZero && z.isNeg) (decide (p.n = 0) && !s && z.isZero && !z.isNeg)
       (p.add z.dy)) := by
  simp only [fmaF, firstNan_of_number ha, firstNan_of_number hb, firstNan_of_number hc, firstNan_nil]

theorem fmaF_inf_zero (hc : (decodeF T c).isNan = false)
    (h : ((decodeF T a).isInf = true ∧ (decodeF T b).isZero = true) ∨ ((decodeF T a).isZero = true ∧ (decodeF T b).isInf = true)) :
    fmaF T r a b c = nanc 4 T := by
  rcases h with ⟨ha, hb⟩ | ⟨ha, hb⟩
  · rw [fmaF_of_numbers (isNan_of_isInf ha) (isNan_of_isZero hb) hc]
    simp [ha, hb]
  · rw [fmaF_of_numbers (isNan_of_isZero ha) (isNan_of_isInf hb) hc]
    simp [ha, hb]

theorem eq_inf_not_iff (v : FVal) (s : Bool) : v = .inf (!s) ↔ (v.isInf && v.isNeg != s) = true := by
  cases v with
  | inf t => cases s <;> cases t <;> simp [FVal.isInf, FVal.isNeg]
  | nan => simp [FVal.isInf]
  | fin t m e => simp [FVal.isInf]

theorem fmaF_inf (ha : (decodeF T a).isNan = false) (hb : (decodeF T b).isNan = false) (hza : (decodeF T a).isZero = false)
    (hzb : (decodeF T b).isZero = false) (hi : (decodeF T a).isInf = true ∨ (decodeF T b).isInf = true)
    (hc : (decodeF T c).isNan = false) :
    let sign := Bool.xor (decodeF T a).isNeg (decodeF T b).isNeg
    fmaF T r a b c = if decodeF T c = .inf (!sign) then nanc 3 T else signed T sign T.infMag := by
  intro sign
  rw [fmaF_of_numbers ha hb hc]
  simp only [hza, hzb, Bool.and_false, Bool.false_and, Bool.or_self, Bool.false_eq_true, if_false, Bool.or_eq_true, if_pos hi,
    eq_inf_not_iff, sign]

theorem fmaF_addend_inf {s s' : Bool} {m m' : Nat} {i i' : Int} (ha : decodeF T a = .fin s m i) (hb : decodeF T b = .fin s' m' i')
    (hc : (decodeF T c).isInf = true) : fmaF T r a b c = c := by
  rw [fmaF_of_numbers (by simp [ha, FVal.isNan]) (by simp [hb, FVal.isNan]) (isNan_of_isInf hc)]
  have hfin (s : Bool) (m : Nat) (i : Int) : (FVal.fin s m i).isInf = false := rfl
  simp [ha, hb, hc, hfin]

theorem mul_dy_eq_zero (s s' : Bool) (m m' : Nat) (i i' : Int) :
    ((FVal.fin s m i).dy.mul (FVal.fin s' m' i').dy).n = 0 ↔ m * m' = 0 := by
  rw [← Int.natAbs_eq_zero, natAbs_mul_dy]

theorem fmaF_of_fins {s s' s'' : Bool} {m m' m'' : Nat} {i i' i'' : Int} (ha : decodeF T a = .fin s m i)
    (hb : decodeF T b = .fin s' m' i') (hc : decodeF T c = .fin s'' m'' i'') :
    fmaF T r a b c = rndSum T r (m * m' = 0 && m'' = 0 && Bool.xor s s' && s'') (m * m' = 0 && m'' = 0 && !(Bool.xor s s') && !s'')
      (((decodeF T a).dy.mul (decodeF T b).dy).add (decodeF T c).dy) := by
  rw [fmaF_of_numbers (by simp [ha, FVal.isNan]) (by simp [hb, FVal.isNan]) (by simp [hc, FVal.isNan])]
  simp only [ha, hb, hc, FVal.isInf, FVal.isNeg, isZero_fin, mul_dy_eq_zero, Bool.false_and, Bool.and_false, Bool.or_self,
    Bool.false_eq_true, if_false]
  congr 1 <;> ac_rfl

/-! ## Integral values (R147) -/

theorem roundIntegralF_self (h : (decodeF T a).isInf = true ∨ (decodeF T a).isZero = true) : roundIntegralF T r a = a := by
  unfold roundIntegralF
  cases hv : decodeF T a with
  | nan => simp [hv, FVal.isInf, FVal.isZero] at h
  | inf s => rfl
  | fin s m e =>
    have hm : m = 0 := by simpa [hv, FVal.isInf, isZero_fin] using h
    simp [hm]

theorem roundIntegralF_of_integral {s : Bool} {m : Nat} {i : Int} (ha : decodeF T a = .fin s m i) (hi : 0 ≤ i) :
    roundIntegralF T r a = a := by
  simp [roundIntegralF, ha, hi]

theorem roundIntegralF_of_fraction {s : Bool} {m : Nat} {i : Int} (ha : decodeF T a = .fin s m i) (hm : m ≠ 0) (hi : i < 0) :
    roundIntegralF T r a = (rndF T ⟨.rne, 0⟩ s (if roundsAway r s (m / 2 ^ (-i).toNat) (m % 2 ^ (-i).toNat) (-i).toNat
      then m / 2 ^ (-i).toNat + 1 else m / 2 ^ (-i).toNat) 0).1 := by
  have hneg : ¬0 ≤ i := by omega
  simp [roundIntegralF, ha, hm, hneg, roundAt, Rnd.rne]

/-! ## The lesser and the greater operand (R143) -/

theorem minF_of_numbers (h : firstNan T [a, b] = none) : minF T a b = if orderKey T a ≤ orderKey T b then a else b := by
  simp only [minF, h]

theorem maxF_of_numbers (h : firstNan T [a, b] = none) : maxF T a b = if orderKey T b ≤ orderKey T a then a else b := by
  simp only [maxF, h]

/-- FMIN and FMAX return the two operands. -/
theorem minF_maxF (h : firstNan T [a, b] = none) :
    minF T a b = a ∧ maxF T a b = b ∨ minF T a b = b ∧ maxF T a b = a := by
  rw [minF_of_numbers h, maxF_of_numbers h]
  rcases Int.lt_trichotomy (orderKey T a) (orderKey T b) with hlt | heq | hgt
  · exact .inl ⟨if_pos (Int.le_of_lt hlt), if_neg (Int.not_le.mpr hlt)⟩
  · obtain rfl := orderKey_injective heq
    simp
  · exact .inr ⟨if_neg (Int.not_le.mpr hgt), if_pos (Int.le_of_lt hgt)⟩

theorem minF_maxF_under (h : T.hasInf = true) (ha : a < 2 ^ T.bits) (hb : b < 2 ^ T.bits) (hna : (decodeF T a).isNan = false)
    (hnb : (decodeF T b).isNan = false) :
    minF T a b = (if under (decodeF T b) (decodeF T a) then b else a)
      ∧ maxF T a b = (if under (decodeF T a) (decodeF T b) then b else a) := by
  have hf := firstNan_pair hna hnb
  rw [minF_of_numbers hf, maxF_of_numbers hf, under_decodeF h hb ha hnb hna, under_decodeF h ha hb hna hnb]
  simp only [decide_eq_true_eq, ← Int.not_lt, ite_not]
  trivial

end

/-! ## The part on exact values -/

theorem floatValues : FloatValues := by
  intro T r a b c hT ha hb hc va vb vc rnd zero q sign
  have h : T.hasInf = true := by rcases hT with rfl | rfl | rfl <;> rfl
  have hsum (n p : Bool) (x : Dy) : rndSum T r n p x = if x.n = 0 then zero n p else rnd x := rndSum_eq n p x
  refine ⟨ops_first_nan, ops_second_nan, fmaF_third_nan, subF_of_numbers hb, fun s s' => addF_of_infs h ha,
    fun s => addF_of_inf h ha, fun s m i s' m' i' hva hvb => ?_, mulF_inf_zero, mulF_inf, fun s m i s' m' i' hva hvb => ?_,
    fmaF_inf_zero, fmaF_inf, fun s m i s' m' i' => fmaF_addend_inf, fun s m i s' m' i' s'' m'' i'' hva hvb hvc => ?_,
    roundIntegralF_self, fun s m i => roundIntegralF_of_integral, fun s m i => roundIntegralF_of_fraction,
    minF_maxF_under h ha hb⟩
  · exact (addF_of_fins hva hvb).trans (hsum ..)
  · have hs : sign = Bool.xor s s' := by simp only [sign, va, vb, hva, hvb, FVal.isNeg]
    rw [hs]
    exact mulF_of_fins hva hvb
  · have hs : sign = Bool.xor s s' := by simp only [sign, va, vb, hva, hvb, FVal.isNeg]
    simp only [hs]
    exact (fmaF_of_fins hva hvb hvc).trans (hsum ..)

end Sys2Proof.Claims
end

section
/-! SUPPORT. The float ops on each element (06 R138 to R147). -/

namespace Sys2Proof.Claims
open Sys2Proof.Machine

/-! ## Ops that act on each element -/

/-- A float op completes with the function that the model applies to the elements. -/
theorem floatOf_floatOp {i : Op → Instr} {code : Nat} {f : Fmt → Rnd → Nat → Nat → Nat → Nat}
    (hx : ∀ o s, exec (i o) s = issueOp code (i o) o (floatOp code o f) s) : FloatOf i code f := by
  intro s x o hdr h
  refine completes_result h (hx o s) _ _ _ _ rfl fun l => congrArg (· % _) ?_
  simp only [floatLane]
  congr 1
  apply List.map_congr_left
  intro j _
  congr 1
  split
  · rfl
  · simp [elemOf]

/-- A float op with one type field in its word has a type that its opcode accepts (03 R79; 06 R141). -/
theorem tyOf_floatClass {code : Nat} {o : Op} (hc : code / 32 = 4) (h3 : threeSource code = false)
    (hd : (opTypes code).2 ∈ (opTypes code).1) (h : o.wf code = true) : tyOf code o ∈ (opTypes code).1 := by
  have hfield : fnField code o = o.c := by simp [fnField, h3]
  have hfn : fnOk code o.c = true := by
    unfold Op.wf Op.wfWord at h
    simp only [hc, Bool.and_eq_true] at h
    obtain ⟨⟨-, h17⟩, -⟩ := h
    simp only [classes17, fnInExt, hfield, h3, Bool.false_and, Bool.false_or, Bool.and_eq_true] at h17
    obtain ⟨⟨⟨⟨⟨hfn, -⟩, -⟩, -⟩, -⟩, -⟩ := h17
    exact hfn
  have hty : typeOk code (fnType o.c) = true := by
    rw [fnOk, if_neg (by simp; omega)] at hfn
    simp only [Bool.and_eq_true] at hfn
    exact hfn.1.1
  rw [typeOk, if_neg (by simp; omega)] at hty
  rw [tyOf, hfield, opType]
  split
  · exact hd
  · next hn => simpa [hn] using hty

/-- A float type fills its place in a register with codes of its format. -/
theorem bits_fmtOf {ty : Nat} (h : ty ∈ [9, 10, 11]) : (fmtOf ty).bits = slotBits ty := by
  simp only [List.mem_cons, List.not_mem_nil, or_false] at h
  rcases h with rfl | rfl | rfl <;> rfl

/-- Two functions that agree on the codes of every format make one float op. -/
theorem floatOf_congr {i : Op → Instr} {code : Nat} {f g : Fmt → Rnd → Nat → Nat → Nat → Nat} (hc : code / 32 = 4)
    (h3 : threeSource code = false) (hty : opTypes code = ([9, 10, 11], 11))
    (hfg : ∀ T r a b c, a < 2 ^ T.bits → f T r a b c = g T r a b c) (hf : FloatOf i code f) : FloatOf i code g := by
  intro s x o hdr h
  have hmem : tyOf code o ∈ [9, 10, 11] := by
    have := tyOf_floatClass hc h3 (by rw [hty]; decide) h.form
    rwa [hty] at this
  have helem (r : Rnd) (v j b c : Nat) : f (fmtOf (tyOf code o)) r (elemOf (slotBits (tyOf code o)) v j) b c
      = g (fmtOf (tyOf code o)) r (elemOf (slotBits (tyOf code o)) v j) b c :=
    hfg _ _ _ _ _ (by rw [bits_fmtOf hmem]; exact elemOf_lt _ _ _)
  have hlane := hf s x o hdr h
  simp only [helem] at hlane
  exact hlane

theorem bits_eq_succ (T : Fmt) : T.bits = T.bits - 1 + 1 := by cases T <;> rfl

/-- FABS clears the sign bit (R144). -/
theorem clear_signBit {T : Fmt} {a : Nat} (ha : a < 2 ^ T.bits) : (if T.signBit ≤ a then a - T.signBit else a)
    = (BitVec.ofNat T.bits a &&& ~~~(BitVec.ofNat T.bits T.signBit)).toNat := by
  rw [two_pow_bits] at ha
  rw [bits_eq_succ]
  exact (toNat_clearBit ha).symm

/-- FNEG inverts the sign bit (R144). -/
theorem invert_signBit {T : Fmt} {a : Nat} (ha : a < 2 ^ T.bits) :
    negF T a = (BitVec.ofNat T.bits a ^^^ BitVec.ofNat T.bits T.signBit).toNat := by
  have hs : T.signBit < 2 ^ T.bits := by rw [two_pow_bits]; have := Nat.two_pow_pos (T.bits - 1); unfold Fmt.signBit; omega
  rw [BitVec.toNat_xor, BitVec.toNat_ofNat, BitVec.toNat_ofNat, Nat.mod_eq_of_lt ha, Nat.mod_eq_of_lt hs, negF_eq_xor ha]

/-- FCLASS names one of the ten classes (R146). -/
theorem classF_one_bit (T : Fmt) (c : Nat) : ∃ k, k < 10 ∧ classF T c = 2 ^ k := by
  unfold classF
  cases decodeF T c with
  | nan =>
    dsimp only
    split
    · exact ⟨9, by decide, rfl⟩
    · exact ⟨8, by decide, rfl⟩
  | inf s =>
    cases s
    · exact ⟨7, by decide, rfl⟩
    · exact ⟨0, by decide, rfl⟩
  | fin s m e =>
    dsimp only
    generalize decide (T.signBit ≤ c) = neg
    split
    · cases neg
      · exact ⟨4, by decide, rfl⟩
      · exact ⟨3, by decide, rfl⟩
    · split
      · cases neg
        · exact ⟨5, by decide, rfl⟩
        · exact ⟨2, by decide, rfl⟩
      · cases neg
        · exact ⟨6, by decide, rfl⟩
        · exact ⟨1, by decide, rfl⟩

/-! ## The statements -/

theorem floatArithmeticResults : FloatArithmeticResults :=
  ⟨floatOf_floatOp (fun _ _ => rfl), floatOf_floatOp (fun _ _ => rfl), floatOf_floatOp (fun _ _ => rfl),
    floatOf_floatOp (fun _ _ => rfl), floatOf_floatOp (fun _ _ => rfl), floatOf_floatOp (fun _ _ => rfl),
    floatOf_floatOp (fun _ _ => rfl), floatOf_floatOp (fun _ _ => rfl)⟩

theorem floatSelectionResults : FloatSelectionResults := by
  refine ⟨?_, ?_, floatOf_floatOp (fun _ _ => rfl), floatOf_floatOp (fun _ _ => rfl), floatOf_floatOp (fun _ _ => rfl),
    fun T a b h => ?_, classF_one_bit⟩
  · exact floatOf_congr rfl rfl rfl (fun _ _ _ _ _ => clear_signBit) (floatOf_floatOp (fun _ _ => rfl))
  · exact floatOf_congr rfl rfl rfl (fun _ _ _ _ _ => invert_signBit) (floatOf_floatOp (fun _ _ => rfl))
  · have hboth := minF_maxF h
    exact ⟨hboth.imp And.left And.left, hboth.symm.imp And.right And.right, hboth⟩

/-- Settles O14: each op is one function of its elements, and that function is the exact value rounded once where no operand is
a NaN or an infinity; FMIN and FMAX order codes as their exact values, counted in multiples of the least magnitude. -/
theorem floatArithmeticAndSelection : Obligations.FloatArithmeticAndSelection :=
  ⟨floatArithmeticResults, floatSelectionResults, floatValues⟩

end Sys2Proof.Claims
end

section
/-! SUPPORT. Results that arrive later (03 R86; 04 R97) and predicate results (04 R95): what they make of the troupe, in the terms
of the claims. -/

namespace Sys2Proof.Claims
open Sys2Proof.Machine

/-! ## What a pending result reads as -/

theorem readTag_produceLateV_nil (t : Troupe) (sfu w : Bool) (d : Nat) (sel : Lanes) (fs : List (Nat → Word)) (r b : Nat) :
    (t.produceLateV sfu w d sel fs []).readTag r b = t.readTag r b := by
  cases w <;>
  · show (if t.width ≤ 4 * b then 0 else (Troupe.pendingSc (t.late ++ [_]) (r * 32 + b)).getD _) = _
    rw [Troupe.pendingSc_append]
    rfl

theorem wrote_produceLateV (t : Troupe) (sfu w : Bool) (d : Nat) (sel : Lanes) (fs : List (Nat → Word))
    (tag : List (Nat × Byte)) (r : Nat) : sget 0 (t.produceLateV sfu w d sel fs tag).wrote r
      = sget 0 t.wrote r
        + bit (!w && decide (d ≤ r) && decide (r < d + fs.length) && (decide (sel ≠ 0) || !tag.isEmpty)) := by
  cases w
  · exact wrote_noteV _ d fs.length sel tag r
  · rfl

/-- v results that arrive later change the pending results, the run and the counts of writes. -/
theorem produceLateV_frame (t : Troupe) (sfu w : Bool) (d : Nat) (sel : Lanes) (fs : List (Nat → Word))
    (tag : List (Nat × Byte)) :
    t.produceLateV sfu w d sel fs tag = { t with
      late := (t.produceLateV sfu w d sel fs tag).late, wrote := (t.produceLateV sfu w d sel fs tag).wrote
      run := runWith t.run (some ⟨t.mergedV d sel (fs.headD (fun _ => 0)), t.mergedTag d tag, false⟩) } := by
  cases w <;> rfl

theorem lookup_keyed {α : Type} (d : Nat) (xs : List α) (q : Nat) :
    (keyed d xs).lookup q = if d ≤ q then xs[q - d]? else none := by
  induction xs generalizing d with
  | nil => simp [keyed]
  | cons x xs ih =>
    rw [keyed, List.lookup_cons, ih]
    rcases Nat.lt_trichotomy q d with h | rfl | h
    · simp [show (q == d) = false by simp; omega, show ¬d ≤ q by omega, show ¬d + 1 ≤ q by omega]
    · simp
    · obtain ⟨k, rfl⟩ : ∃ k, q = d + 1 + k := ⟨q - (d + 1), by omega⟩
      simp [show (d + 1 + k == d) = false by simp; omega, show d ≤ d + 1 + k by omega, show d + 1 + k - d = k + 1 by omega]

/-- The s registers after an op whose s results arrive later: a read waits for them (R97). -/
theorem readS_produceLateS (t : Troupe) (sfu u w on : Bool) (d : Nat) (xs : List Word) (q : Nat) :
    (t.produceLateS sfu u w on d xs).readS q
      = if w = false ∧ on = true ∧ d ≤ q ∧ q < d + xs.length then xs.getD (q - d) 0 else t.readS q := by
  show ((Troupe.pendingS (t.late ++ [_]) q).getD (sget 0 t.s q)) = _
  rw [Troupe.pendingS_append]
  cases w <;> cases on
  case false.true =>
    show (((keyed d xs).lookup q).orElse _).getD _ = _
    rw [lookup_keyed]
    by_cases h : d ≤ q
    · by_cases hq : q - d < xs.length
      · simp [h, hq, show q < d + xs.length by omega]
      · simp [h, hq, show ¬q < d + xs.length by omega, Troupe.readS]
    · simp [h, Troupe.readS]
  all_goals simp [Troupe.readS]

theorem readV_produceLateS (t : Troupe) (sfu u w on : Bool) (d : Nat) (xs : List Word) (r l : Nat) :
    (t.produceLateS sfu u w on d xs).readV r l = t.readV r l := by
  show ((Troupe.pendingV (t.late ++ [_]) (r * 128 + l)).getD _) = _
  rw [Troupe.pendingV_append]
  cases w <;> cases on <;> rfl

theorem readTag_produceLateS (t : Troupe) (sfu u w on : Bool) (d : Nat) (xs : List Word) (r b : Nat) :
    (t.produceLateS sfu u w on d xs).readTag r b = t.readTag r b := by
  show (if t.width ≤ 4 * b then 0 else (Troupe.pendingSc (t.late ++ [_]) (r * 32 + b)).getD _) = _
  rw [Troupe.pendingSc_append]
  cases w <;> cases on <;> rfl

/-- s results that arrive later change the pending results and the run. -/
theorem produceLateS_frame (t : Troupe) (sfu u w on : Bool) (d : Nat) (xs : List Word) :
    t.produceLateS sfu u w on d xs = { t with
      late := (t.produceLateS sfu u w on d xs).late
      run := runWith t.run (some (t.latchS u (if on then xs.headD 0 else t.readS d))) } := rfl

/-- A predicate after a write to one of them; p7 reads true (R80, R95). -/
theorem readP_writeP (t : Troupe) (d : Nat) (sel val : Lanes) (q : Nat) : (t.writeP d sel val).readP q
    = if q = d ∧ q ≠ 7 then (t.readP q &&& ~~~sel) ||| (val &&& sel) else t.readP q := by
  unfold Troupe.writeP
  by_cases hd : d = 7
  · rw [if_pos hd, if_neg (by omega)]
  · rw [if_neg hd]
    by_cases hq : q = 7
    · simp [hq, Troupe.readP]
    · by_cases h : q = d
      · subst h; simp [Troupe.readP, hq]
      · simp [Troupe.readP, hq, h, sget_sset]

/-- A predicate result changes predicates alone. -/
theorem writeP_frame (t : Troupe) (d : Nat) (sel val : Lanes) :
    t.writeP d sel val = { t with p := (t.writeP d sel val).p } := by
  unfold Troupe.writeP
  split <;> rfl

/-! ## A single op with such a result -/

section
variable {s : State} {x : Env} {code : Nat} {o : Op} {hdr : DWord} {i : Instr} {body : Env → State → Res}

/-- An op whose own effect is a v result that arrives later. -/
theorem completes_produceLateV (h : Runs s x code o hdr) (hx : exec i s = issueOp code i o body s) (sfu w : Bool) (d : Nat)
    (sel : Lanes) (fs : List (Nat → Word)) (hb : body x s = .done (s.setTroupe x.r (x.t.produceLateV sfu w d sel fs []))) :
    Completes i s x (ends code o x) 1 hdr ((Effect.none x.t).toV x.t w d sel fs []) := by
  have hf := produceLateV_frame x.t sfu w d sel fs []
  refine completes_of h hx _ _ hb (by rw [hf]; rfl) ?_ ?_ ?_ ?_ ?_
  · intro r l hl
    rw [Troupe.readV_produceLateV _ _ _ _ _ _ _ _ _ hl]
    cases w <;> simp [Effect.toV, hasLane, and_assoc]
  · intro r; exact Troupe.readS_produceLateV ..
  · exact readP_congr (by rw [hf]) (by rw [hf])
  · intro r b _
    rw [readTag_produceLateV_nil]
    simp [Effect.toV]
  · intro r; exact wrote_produceLateV ..

/-- An op whose own effect is an s result that arrives later, where `on` holds: elsewhere only the latch is written, with what
the register holds. -/
theorem completes_produceLateS (h : Runs s x code o hdr) (hx : exec i s = issueOp code i o body s) (sfu u w on : Bool) (d : Nat)
    (xs : List Word) (hb : body x s = .done (s.setTroupe x.r (x.t.produceLateS sfu u w on d xs))) :
    Completes i s x (ends code o x) 1 hdr
      (if on then (Effect.none x.t).toS x.t u w d xs
       else { Effect.none x.t with latch := some (x.t.latchS u (x.t.readS d)) }) := by
  have hf := produceLateS_frame x.t sfu u w on d xs
  cases on
  · refine completes_of h hx _ _ hb (by rw [hf]; rfl) ?_ ?_ ?_ ?_ ?_
    · intro r l _; exact readV_produceLateS ..
    · intro r; rw [readS_produceLateS]; simp [Effect.none]
    · exact readP_congr (by rw [hf]) (by rw [hf])
    · intro r b _; exact readTag_produceLateS ..
    · intro r; rfl
  · refine completes_of h hx _ _ hb (by rw [hf]; rfl) ?_ ?_ ?_ ?_ ?_
    · intro r l _; exact readV_produceLateS ..
    · intro r
      rw [readS_produceLateS]
      cases w <;> simp [Effect.toS]
    · exact readP_congr (by rw [hf]) (by rw [hf])
    · intro r b _; exact readTag_produceLateS ..
    · intro r; rfl

/-- An op whose own effect is a predicate result. -/
theorem completes_writeP (h : Runs s x code o hdr) (hx : exec i s = issueOp code i o body s) (d : Nat) (sel val : Lanes)
    (hb : body x s = .done (s.setTroupe x.r (x.t.writeP d sel val))) :
    Completes i s x (ends code o x) 1 hdr ((Effect.none x.t).toP d sel val) := by
  have hf := writeP_frame x.t d sel val
  refine completes_of h hx _ _ hb (by rw [hf]; rfl) ?_ ?_ ?_ ?_ ?_
  · intro r l _; rw [hf]; rfl
  · intro r; rw [hf]; rfl
  · intro q
    rw [readP_writeP]
    simp [Effect.toP, Effect.none]
  · intro r b _; rw [hf]; rfl
  · intro r; rw [hf]; rfl

/-- A cross-lane op with the result `f` completes with the result `val`, when the two agree in the lanes of the troupe (07
R167, R177). -/
theorem completes_laneResult (h : Runs s x code o hdr) (hx : exec i s = issueOp code i o body s) (wide : Bool)
    (f val : Nat → Nat) (hb : body x s = .done (s.setTroupe x.r (x.t.laneResult o wide f)))
    (hv : ∀ l, l < x.t.width → f l = val l) :
    Completes i s x (ends code o x) 1 hdr (resultEffect x.t false wide o val) := by
  have := completes_produceLateV h hx false o.w o.dst.toNat (x.t.selected o.guard) _ hb
  rw [resultRegs_eq, toV_congr _ _ _ _ _ _ _ (resultWord val)] at this
  · exact this
  · intro k l hk hl
    rw [resultWord, tabulate_of_lt f hl, hv l hl]
    rfl

end

end Sys2Proof.Claims
end

section
/-! SUPPORT. The cross-lane ops (07 R168 to R176): the lanes that they move values between, vote over, match and combine. -/

namespace Sys2Proof.Claims
open Sys2Proof.Machine

/-! ## Values moved (R169 to R171) -/

/-- A moved value is read in the lanes of the troupe alone. -/
theorem movedValue_tabulate {w l : Nat} (sel : Lanes) (a : Nat → Nat) (src : Int) (hl : l < w) :
    movedValue w sel (tabulate w a) l src = if 0 ≤ src ∧ src < w ∧ hasLane sel src.toNat = true then a src.toNat else a l := by
  unfold movedValue
  by_cases h : 0 ≤ src ∧ src < w ∧ hasLane sel src.toNat = true
  · rw [if_pos h, if_pos (by simp [h]), tabulate_of_lt a (by omega)]
  · rw [if_neg h, if_neg (by simpa [and_assoc] using h), tabulate_of_lt a hl]

theorem laneMoves : LaneMoves := by
  intro s x o hdr
  refine ⟨fun h => ?_, fun h => ?_⟩
  · exact completes_laneResult h rfl false _ _ rfl fun l hl => movedValue_tabulate _ _ _ hl
  · exact completes_laneResult h rfl false _ _ rfl fun l hl => movedValue_tabulate _ _ _ hl

/-! ## Votes (R172) -/

/-- Two masks have no lane in common when no lane of the one is in the other. -/
theorem and_eq_zero_iff (m c : Lanes) : m &&& c = 0 ↔ (lanesOf 128 m).all (fun l => !hasLane c l) = true := by
  simp only [List.all_eq_true, Troupe.mem_lanesOf, Bool.not_eq_true']
  constructor
  · rintro h l ⟨-, hm⟩
    have hl : hasLane (m &&& c) l = false := by rw [h]; exact hasLane_zero l
    have hm' : hasLane m l = true := hm
    simpa [hm'] using hl
  · intro h
    refine lanes_ext fun l => Eq.trans ?_ (hasLane_zero l).symm
    rw [hasLane_and]
    cases hm : hasLane m l
    · rfl
    · exact h l ⟨hasLane_lt hm, hm⟩

theorem and_not_eq_zero_iff (m c : Lanes) : m &&& ~~~c = 0 ↔ (lanesOf 128 m).all (hasLane c) = true := by
  rw [and_eq_zero_iff]
  simp only [List.all_eq_true, Troupe.mem_lanesOf]
  refine forall_congr' fun l => imp_congr_right fun h => ?_
  simp [hasLane, h.1]

theorem voteValue_eq (mode : Nat) (m c : Lanes) : voteValue mode m c = (match mode with
    | 0 => (lanesOf 128 m).any (hasLane c)
    | 1 => (lanesOf 128 m).all (hasLane c)
    | _ => (lanesOf 128 m).all (fun l => !hasLane c l) || (lanesOf 128 m).all (hasLane c)) := by
  unfold voteValue
  simp only [ne_eq, and_eq_zero_iff m c, and_not_eq_zero_iff, Bool.decide_eq_true, decide_not]
  match mode with
  | 0 => simp [List.any_eq_not_all_not]
  | 1 => rfl
  | _ + 2 => rfl

/-! ## Lanes with one value (R173, R176) -/

section
variable {w l : Nat} {sel : Lanes} {a : Nat → Nat}

theorem sameValue_eq (w : Nat) (sel : Lanes) (a : Nat → Nat) (l : Nat) :
    sameValue w sel a l = maskOf ((lanesOf w sel).filter (fun i => a i = a l)) := by
  rw [sameValue, maskWhere, lanesOf, List.filter_filter]
  simp only [hasLane, Bool.and_comm]

theorem sameValue_tabulate (hl : l < w) : sameValue w sel (tabulate w a) l = sameValue w sel a l := by
  rw [sameValue_eq, sameValue_eq]
  congr 1
  refine List.filter_congr fun i hi => ?_
  rw [tabulate_of_lt a hl, tabulate_of_lt a (Troupe.mem_lanesOf.mp hi).1]

/-- No lane has the value of another where none is selected. -/
theorem sameValue_zero (w : Nat) (a : Nat → Nat) (l : Nat) : sameValue w 0 a l = 0 := by
  have hnone : lanesOf w 0 = [] :=
    List.filter_eq_nil_iff.mpr fun _ _ h => Bool.false_ne_true (BitVec.getLsbD_zero.symm.trans h)
  rw [sameValue_eq, hnone]
  rfl

theorem lanesOf_sameValue (w : Nat) (sel : Lanes) (a : Nat → Nat) (l : Nat) :
    lanesOf w (sameValue w sel a l) = (lanesOf w sel).filter (fun i => a i = a l) := by
  rw [lanesOf, lanesOf, List.filter_filter]
  refine List.filter_congr fun i hi => ?_
  have hw : i < w := List.mem_range.mp hi
  change hasLane (sameValue w sel a l) i = (_ && hasLane sel i)
  rw [sameValue, hasLane_maskWhere]
  cases hs : hasLane sel i
  · simp
  · simp [hw, hasLane_lt hs]

end

theorem map_tabulate {w : Nat} {a : Nat → Nat} {ls : List Nat} (h : ∀ i ∈ ls, i < w) : ls.map (tabulate w a) = ls.map a :=
  List.map_congr_left fun i hi => tabulate_of_lt a (h i hi)

/-- The lanes that a keyed SCAN or VRED combines for a lane of the troupe. -/
theorem keyLanes_eq {t : Troupe} {l : Nat} (o : Op) (ty : Nat) (sel : Lanes) (hl : l < t.width) : keyLanes t o ty sel l =
    if fnVariant o.c / 16 = 1 then (lanesOf t.width sel).filter (fun i => t.operand ty o o.b i = t.operand ty o o.b l)
    else lanesOf t.width sel := by
  rw [keyLanes, sameValue_tabulate hl, lanesOf_sameValue]

/-- Lanes that are combined are lanes of the troupe. -/
theorem lt_width_of_keyLanes {t : Troupe} {o : Op} {ty l i : Nat} {sel : Lanes} (h : i ∈ keyLanes t o ty sel l) :
    i < t.width := by
  unfold keyLanes at h
  split at h <;> exact (Troupe.mem_lanesOf.mp h).1

/-! ## The statements on votes, matches and reductions -/

/-- All selected lanes hold one value when they hold that of the lowest of them. -/
theorem sameValue_lowestLane (t : Troupe) (g : Guard) (a : Nat → Nat) :
    sameValue t.width (t.selected g) (tabulate t.width a) (lowestLane (t.selected g))
      = sameValue t.width (t.selected g) a (lowestLane (t.selected g)) := by
  by_cases h : t.selected g = 0
  · rw [h, sameValue_zero, sameValue_zero]
  · exact sameValue_tabulate (lt_width_of_selected (hasLane_lowestLane h))

theorem laneVotes : LaneVotes := by
  intro s x o hdr t sel c all peers
  refine ⟨fun h => ?_, fun h => ?_, fun h => ⟨fun hall => ?_, fun hany => ?_⟩, fun h => ?_⟩
  · refine completes_writeP h rfl _ _ _ ?_
    change Res.done (s.setTroupe x.r (t.setP o o.dst.toNat (all (voteValue (fnVariant o.c) sel c)))) = _
    rw [voteValue_eq]
    rfl
  · intro half
    have hlate := completes_produceLateS h (i := .ballot o) (body := ballotBody o) rfl false false o.w (sel ≠ 0) o.dst.toNat
      [half.extractLsb' 0 32, half.extractLsb' 32 32] (by
        simp only [half]
        unfold ballotBody
        split <;> rfl)
    by_cases h0 : sel = 0
    · rw [if_neg (by simp [h0])] at hlate
      rw [if_pos h0]
      exact hlate
    · rw [if_pos (decide_eq_true h0)] at hlate
      rw [if_neg h0]
      exact hlate
  · refine completes_writeP h rfl _ _ _ ?_
    rw [matchBody, if_pos hall, sameValue_lowestLane]
    simp only [all, decide_eq_true_eq]
    rfl
  · refine completes_laneResult h (body := matchBody o) rfl true _ _ (if_neg hany) fun l hl => ?_
    rw [sameValue_tabulate hl, sameValue_eq]
  · refine completes_laneResult h rfl true _ _ rfl fun l hl => ?_
    rw [sameValue_tabulate hl, lanesOf_sameValue]

theorem laneReductions : LaneReductions := by
  intro s x o hdr t sel group
  have hgroup (ty l : Nat) (hl : l < t.width) : keyLanes t o ty sel l = group ty l := keyLanes_eq o ty sel hl
  refine ⟨fun h => ?_, fun h => ?_⟩
  · intro ty
    refine completes_laneResult h rfl false _ _ rfl fun l hl => ?_
    simp only [Bool.decide_or, Bool.decide_and, ne_eq, decide_not, ← hgroup ty l hl]
    rw [map_tabulate fun i hi => lt_width_of_keyLanes (List.mem_filter.mp hi).1]
  · intro ty
    refine completes_laneResult h rfl false _ _ rfl fun l hl => ?_
    simp only [← hgroup ty l hl]
    rw [map_tabulate fun i hi => lt_width_of_keyLanes hi]

end Sys2Proof.Claims
end

section
/-! SUPPORT. What SCAN and VRED compute of the values of some lanes (07 R174, R175): folds of integers, and of f32 codes. -/

namespace Sys2Proof.Claims
open Sys2Proof.Machine

/-! ## Folds that pick the least -/

/-- A fold that keeps of two values the one with the lesser key, on values that all satisfy `p`, picks one with the least key. -/
theorem foldl_least {f : Nat → Nat → Nat} {key : Nat → Int} {p : Nat → Prop}
    (hf : ∀ a b, p a → p b → f a b = if key b < key a then b else a) (xs : List Nat) (x : Nat) (hp : ∀ y ∈ x :: xs, p y) :
    xs.foldl f x ∈ x :: xs ∧ ∀ y ∈ x :: xs, key (xs.foldl f x) ≤ key y := by
  induction xs generalizing x with
  | nil => simp
  | cons z zs ih =>
    obtain ⟨hx, hz, hzs⟩ : p x ∧ p z ∧ ∀ y ∈ zs, p y := by simpa using hp
    obtain ⟨c, hc, hmem, hxle, hzle⟩ : ∃ c, f x z = c ∧ (c = x ∨ c = z) ∧ key c ≤ key x ∧ key c ≤ key z := by
      refine ⟨_, hf x z hx hz, ?_⟩
      split
      · exact ⟨.inr rfl, by omega, Int.le_refl _⟩
      · exact ⟨.inl rfl, Int.le_refl _, by omega⟩
    have hpc : p c := by
      rcases hmem with rfl | rfl <;> assumption
    obtain ⟨hin, hle⟩ := ih c (by simpa [hpc] using hzs)
    rw [List.foldl_cons, hc]
    have hlec := hle c List.mem_cons_self
    refine ⟨?_, ?_⟩
    · rcases List.mem_cons.mp hin with h | h
      · rw [h]
        rcases hmem with rfl | rfl <;> simp
      · simp [h]
    · intro y hy
      rcases List.mem_cons.mp hy with rfl | hy
      · exact Int.le_trans hlec hxle
      · rcases List.mem_cons.mp hy with rfl | hy
        · exact Int.le_trans hlec hzle
        · exact hle y (List.mem_cons_of_mem _ hy)

/-! ## Integers (R174) -/

section
variable {ty op i x : Nat} {r : Rnd} {xs : List Nat}

theorem combine_int (h : ty ≠ 11) : combine ty op r (x :: xs) = xs.foldl (scanStep ty op) x := if_neg h

theorem foldl_add_mod (ty : Nat) (xs : List Nat) (a : Nat) :
    xs.foldl (scanStep ty 0) (a % 2 ^ 32) = xs.foldl (· + ·) a % 2 ^ 32 := by
  induction xs generalizing a with
  | nil => rfl
  | cons y ys ih =>
    rw [List.foldl_cons, List.foldl_cons, ← ih]
    congr 1
    exact Nat.mod_add_mod a _ y

theorem testBit_foldl_and : (xs.foldl (· &&& ·) x).testBit i = (x :: xs).all (fun y => y.testBit i) := by
  induction xs generalizing x with
  | nil => simp
  | cons y ys ih => simp [ih, Bool.and_assoc]

theorem testBit_foldl_or : (xs.foldl (· ||| ·) x).testBit i = (x :: xs).any (fun y => y.testBit i) := by
  induction xs generalizing x with
  | nil => simp
  | cons y ys ih => simp [ih, Bool.or_assoc]

/-- An exclusive or has the bits that an odd number of its values have. -/
theorem testBit_foldl_xor : (xs.foldl (· ^^^ ·) x).testBit i
    = decide (((x :: xs).filter (fun y => y.testBit i)).length % 2 = 1) := by
  induction xs generalizing x with
  | nil => cases h : x.testBit i <;> simp [h]
  | cons y ys ih =>
    rw [List.foldl_cons, ih, decide_eq_decide]
    cases hx : x.testBit i <;> cases hy : y.testBit i <;> simp [hx, hy]
    omega

/-- The values that SCAN and VRED give of integers: sums modulo 2^32, the least and the greatest, and each bit by itself. -/
theorem combine_integers (h : ty = 5 ∨ ty = 6) (hx : x < 2 ^ 32) :
    let val (y : Nat) : Int := if ty = 5 then toSigned 32 y else y
    let ys := x :: xs
    combine ty 0 r ys = ys.foldl (· + ·) 0 % 2 ^ 32
    ∧ (combine ty 1 r ys ∈ ys ∧ ∀ y ∈ ys, val (combine ty 1 r ys) ≤ val y)
    ∧ (combine ty 2 r ys ∈ ys ∧ ∀ y ∈ ys, val y ≤ val (combine ty 2 r ys))
    ∧ ∀ i, (combine ty 3 r ys).testBit i = ys.all (fun y => y.testBit i)
      ∧ (combine ty 4 r ys).testBit i = ys.any (fun y => y.testBit i)
      ∧ (combine ty 5 r ys).testBit i = decide ((ys.filter (fun y => y.testBit i)).length % 2 = 1) := by
  intro val ys
  have hval (y : Nat) : ev ty y = val y := by rcases h with rfl | rfl <;> rfl
  have hty : ty ≠ 11 := by omega
  simp only [ys, combine_int hty]
  refine ⟨?_, ?_, ?_, fun i => ⟨testBit_foldl_and, testBit_foldl_or, testBit_foldl_xor⟩⟩
  · rw [List.foldl_cons, Nat.zero_add, ← foldl_add_mod ty, Nat.mod_eq_of_lt hx]
  · exact foldl_least (p := fun _ => True) (fun a b _ _ => by simp only [← hval]; rfl) xs x (by simp)
  · obtain ⟨hmem, hle⟩ := foldl_least (f := scanStep ty 2) (key := fun y => -val y) (p := fun _ => True)
      (fun a b _ _ => by simp only [Int.neg_lt_neg_iff, ← hval]; rfl) xs x (by simp)
    exact ⟨hmem, fun y hy => Int.neg_le_neg_iff.mp (hle y hy)⟩

end

/-! ## NaNs (R175; 02 R58) -/

section
variable {T : Fmt} {c x : Nat} {cs pre : List Nat}

/-- Codes that are no NaNs do not hide a NaN after them. -/
theorem firstNan_append (hpre : ∀ y ∈ pre, (decodeF T y).isNan = false) : firstNan T (pre ++ cs) = firstNan T cs := by
  induction pre with
  | nil => rfl
  | cons y ys ih =>
    rw [List.cons_append, firstNan_of_number (hpre y List.mem_cons_self), ih fun z hz => hpre z (List.mem_cons_of_mem _ hz)]

theorem firstNan_of_numbers (h : ∀ y ∈ cs, (decodeF T y).isNan = false) : firstNan T cs = none := by
  simpa [firstNan_nil] using firstNan_append (cs := []) h

/-- The NaNs of a format with infinities are the codes whose magnitude lies above that of infinity. -/
theorem isNan_decodeF (h : T.hasInf = true) (hc : c < 2 ^ T.bits) : (decodeF T c).isNan = decide (T.infMag < magOf T c) := by
  rcases hv : decodeF T c with _ | s | ⟨s, n, e⟩
  all_goals
    have hst := stands_decodeF h hc
    rw [hv] at hst
    cases hst
    simp [FVal.isNan]
    omega

/-- A NaN whose quiet bit is set is a NaN. -/
theorem isNan_quieted (hc : c < 2 ^ 32) (h : (decodeF .fp32 c).isNan = true) : (decodeF .fp32 (c ||| 2 ^ 22)).isNan = true := by
  have hq : c ||| 2 ^ 22 < 2 ^ 32 := Nat.or_lt_two_pow hc (by decide)
  rw [isNan_decodeF rfl hc] at h
  rw [isNan_decodeF rfl hq]
  rw [or_two_pow_eq] at hq ⊢
  simp only [decide_eq_true_eq, magOf, show Fmt.fp32.infMag = 0x7F800000 from rfl,
    show Fmt.fp32.signBit = 0x80000000 from rfl, Nat.reducePow] at h hc hq ⊢
  split <;> omega

/-- Setting the quiet bit once is enough. -/
theorem quiet_bit_idem (c : Nat) : c ||| 2 ^ 22 ||| 2 ^ 22 = c ||| 2 ^ 22 := by rw [Nat.or_assoc, Nat.or_self]

theorem sumF_of_nan {r : Rnd} {post : List Nat} (h : (decodeF T x).isNan = true)
    (hpre : ∀ y ∈ pre, (decodeF T y).isNan = false) : sumF T r (pre ++ x :: post) = x ||| 2 ^ (T.man - 1) := by
  simp only [sumF, firstNan_append hpre, firstNan_of_nan h]

theorem quietIfNan_of_nan (h : (decodeF .fp32 c).isNan = true) : combine.quietIfNan c = c ||| 2 ^ 22 := by
  rw [combine.quietIfNan, isNanF, if_pos h, quiet_eq_or]
  rfl

theorem quietIfNan_of_number (h : (decodeF .fp32 c).isNan = false) : combine.quietIfNan c = c := by
  rw [combine.quietIfNan, isNanF, if_neg (by simp [h])]

theorem combine_min {r : Rnd} {xs : List Nat} (h : (decodeF .fp32 c).isNan = false) :
    combine 11 1 r (c :: xs) = xs.foldl (minF .fp32) c := congrArg (xs.foldl (minF .fp32)) (quietIfNan_of_number h)

theorem combine_max {r : Rnd} {xs : List Nat} (h : (decodeF .fp32 c).isNan = false) :
    combine 11 2 r (c :: xs) = xs.foldl (maxF .fp32) c := congrArg (xs.foldl (maxF .fp32)) (quietIfNan_of_number h)

section
variable {f : Nat → Nat → Nat} {a b : Nat} {post : List Nat} (hf : f = minF .fp32 ∨ f = maxF .fp32)
include hf

theorem extremum_of_nan_left (ha : (decodeF .fp32 a).isNan = true) : f a b = a ||| 2 ^ 22 := by
  obtain ⟨-, -, -, -, hmin, hmax, -⟩ := ops_first_nan (r := Rnd.rne) (b := b) (c := 0) ha
  rcases hf with rfl | rfl <;> assumption

theorem extremum_of_nan_right (ha : (decodeF .fp32 a).isNan = false) (hb : (decodeF .fp32 b).isNan = true) :
    f a b = b ||| 2 ^ 22 := by
  obtain ⟨-, -, -, -, hmin, hmax⟩ := ops_second_nan (r := Rnd.rne) (c := 0) ha hb
  rcases hf with rfl | rfl <;> assumption

theorem extremum_of_numbers (ha : (decodeF .fp32 a).isNan = false) (hb : (decodeF .fp32 b).isNan = false) :
    f a b = a ∨ f a b = b := by
  have hboth := minF_maxF (firstNan_pair ha hb)
  rcases hf with rfl | rfl
  · exact hboth.imp And.left And.left
  · exact hboth.symm.imp And.right And.right

/-- A quieted NaN stays whatever follows it. -/
theorem foldl_quieted (hx : x < 2 ^ 32) (h : (decodeF .fp32 x).isNan = true) :
    post.foldl f (x ||| 2 ^ 22) = x ||| 2 ^ 22 := by
  induction post with
  | nil => rfl
  | cons y ys ih => rw [List.foldl_cons, extremum_of_nan_left hf (isNan_quieted hx h), quiet_bit_idem, ih]

/-- A fold that starts at a number gives the first NaN that it meets, quieted. -/
theorem foldl_of_nan (hx : x < 2 ^ 32) (h : (decodeF .fp32 x).isNan = true) (ha : (decodeF .fp32 a).isNan = false)
    (hpre : ∀ y ∈ pre, (decodeF .fp32 y).isNan = false) : (pre ++ x :: post).foldl f a = x ||| 2 ^ 22 := by
  induction pre generalizing a with
  | nil => rw [List.nil_append, List.foldl_cons, extremum_of_nan_right hf ha h, foldl_quieted hf hx h]
  | cons y ys ih =>
    obtain ⟨hy, hys⟩ := List.forall_mem_cons.mp hpre
    refine ih ?_ hys
    rcases extremum_of_numbers hf ha hy with he | he <;> rw [he] <;> assumption

/-- The least and the greatest of codes with a NaN among them: the first one, quieted. -/
theorem foldl_quietIfNan (hx : x < 2 ^ 32) (h : (decodeF .fp32 x).isNan = true)
    (hpre : ∀ y ∈ pre, (decodeF .fp32 y).isNan = false) (hab : pre ++ x :: post = a :: cs) :
    cs.foldl f (combine.quietIfNan a) = x ||| 2 ^ 22 := by
  cases pre with
  | nil =>
    obtain ⟨rfl, rfl⟩ := List.cons.inj hab
    rw [quietIfNan_of_nan h, foldl_quieted hf hx h]
  | cons y ys =>
    obtain ⟨rfl, rfl⟩ := List.cons.inj hab
    obtain ⟨hy, hys⟩ := List.forall_mem_cons.mp hpre
    rw [quietIfNan_of_number hy]
    exact foldl_of_nan hf hx h hy hys

end

end

/-! ## Numbers (R175; 06 R140, R143) -/

section
variable {T : Fmt} {r : Rnd} {c x : Nat} {cs xs : List Nat}

/-- The sum of codes that are no NaNs. -/
theorem sumF_of_numbers (h : ∀ y ∈ cs, (decodeF T y).isNan = false) : sumF T r cs =
    if (∃ y ∈ cs, decodeF T y = .inf false) ∧ (∃ y ∈ cs, decodeF T y = .inf true) then nanc 3 T
    else if ∃ y ∈ cs, decodeF T y = .inf false then T.infMag
    else if ∃ y ∈ cs, decodeF T y = .inf true then signed T true T.infMag
    else rndSum T r (cs.all (fun y => (decodeF T y).isZero && (decodeF T y).isNeg))
      (cs.all (fun y => (decodeF T y).isZero && !(decodeF T y).isNeg))
      (cs.foldl (fun d y => d.add (decodeF T y).dy) ⟨0, 0⟩) := by
  simp only [sumF, firstNan_of_numbers h, List.any_map, List.all_map, List.foldl_map, Bool.and_eq_true, List.any_eq_true,
    Function.comp_apply, decide_eq_true_eq]
  rfl

theorem sumF_of_infs (h : ∀ y ∈ cs, (decodeF T y).isNan = false) (hp : ∃ y ∈ cs, decodeF T y = .inf false)
    (hn : ∃ y ∈ cs, decodeF T y = .inf true) : sumF T r cs = nanc 3 T := by
  rw [sumF_of_numbers h, if_pos ⟨hp, hn⟩]

theorem sumF_of_inf {s : Bool} (hinf : T.hasInf = true) (h : ∀ y ∈ cs, (decodeF T y).isNan = false)
    (hs : ∃ y ∈ cs, decodeF T y = .inf s) (hn : ∀ y ∈ cs, decodeF T y ≠ .inf (!s)) :
    sumF T r cs = signed T s T.infMag := by
  have hno : ¬∃ y ∈ cs, decodeF T y = .inf (!s) := fun ⟨y, hy, he⟩ => hn y hy he
  rw [sumF_of_numbers h]
  cases s
  · rw [if_neg (fun hb => hno hb.2), if_pos hs, signed_of_hasInf hinf]
    rfl
  · rw [if_neg (fun hb => hno hb.1), if_neg (show ¬∃ y ∈ cs, decodeF T y = .inf false from hno), if_pos hs]

theorem sumF_of_fins (h : ∀ y ∈ cs, (decodeF T y).isNan = false) (hi : ∀ y ∈ cs, (decodeF T y).isInf = false) :
    sumF T r cs = rndSum T r (cs.all (fun y => (decodeF T y).isZero && (decodeF T y).isNeg))
      (cs.all (fun y => (decodeF T y).isZero && !(decodeF T y).isNeg))
      (cs.foldl (fun d y => d.add (decodeF T y).dy) ⟨0, 0⟩) := by
  have hno (s : Bool) : ¬∃ y ∈ cs, decodeF T y = .inf s := fun ⟨y, hy, he⟩ => by
    simpa [he, FVal.isInf] using hi y hy
  rw [sumF_of_numbers h, if_neg (fun hb => hno _ hb.1), if_neg (hno _), if_neg (hno _)]

/-- A code of f32 is a zero when its magnitude is 0. -/
theorem isZero_fp32 (hc : c < 2 ^ 32) : (decodeF .fp32 c).isZero = decide (magOf .fp32 c = 0) := by
  have hst := stands_decodeF (T := .fp32) rfl hc
  have hinf : Fmt.fp32.infMag = 0x7F800000 := rfl
  rcases hv : decodeF .fp32 c with _ | s | ⟨s, n, e⟩
  all_goals
    rw [hv] at hst
    cases hst
  · simp [FVal.isZero]; omega
  · simp [FVal.isZero]; omega
  · next hm he hn =>
    have hunits := units_lt_iff (T := .fp32) (m := 0) (m' := magOf .fp32 c)
    rw [units_zero, ← hn] at hunits
    have hpos := Nat.two_pow_pos (e - leastExp .fp32).toNat
    rw [isZero_fin, decide_eq_decide]
    rcases Nat.eq_zero_or_pos n with rfl | h
    · simp at hunits; omega
    · have := Nat.mul_pos h hpos
      omega

theorem isNeg_decodeF (hinf : T.hasInf = true) (hc : c < 2 ^ T.bits) (h : (decodeF T c).isNan = false) :
    (decodeF T c).isNeg = negOf T c := by
  have hst := stands_decodeF hinf hc
  rcases hv : decodeF T c with _ | s | ⟨s, n, e⟩
  all_goals
    rw [hv] at hst h
    cases hst
  · cases h
  · rfl
  · rfl

/-- The two zeros of f32. -/
theorem zero_fp32 (hc : c < 2 ^ 32) (h : (decodeF .fp32 c).isNan = false) :
    ((decodeF .fp32 c).isZero && (decodeF .fp32 c).isNeg) = decide (c = 0x80000000)
    ∧ ((decodeF .fp32 c).isZero && !(decodeF .fp32 c).isNeg) = decide (c = 0) := by
  have hbits : c < 0x100000000 := hc
  simp only [isZero_fp32 hc, isNeg_decodeF (T := .fp32) rfl hc h, magOf, negOf, show Fmt.fp32.signBit = 0x80000000 from rfl,
    ← decide_not, ← Bool.decide_and, decide_eq_decide]
  omega

/-- The sum of finite f32 codes: the exact sum rounded once, or a zero whose sign the terms or the mode give. -/
theorem sumF_fp32_of_fins (hlt : ∀ y ∈ cs, y < 2 ^ 32) (h : ∀ y ∈ cs, (decodeF .fp32 y).isNan = false)
    (hi : ∀ y ∈ cs, (decodeF .fp32 y).isInf = false) :
    let y : Dy := cs.foldl (fun d y => d.add (decodeF .fp32 y).dy) ⟨0, 0⟩
    sumF .fp32 r cs = if y.n = 0
      then if (∀ y ∈ cs, y = 0x80000000) ∨ (¬(∀ y ∈ cs, y = 0) ∧ r.mode = .rdn) then 0x80000000 else 0
      else (rndF .fp32 r (decide (y.n < 0)) y.n.natAbs y.e).1 := by
  have hneg : cs.all (fun y => (decodeF .fp32 y).isZero && (decodeF .fp32 y).isNeg) = decide (∀ y ∈ cs, y = 0x80000000) := by
    rw [Bool.eq_iff_iff, List.all_eq_true, decide_eq_true_eq]
    exact forall₂_congr fun y hy => by rw [(zero_fp32 (hlt y hy) (h y hy)).1, decide_eq_true_eq]
  have hpos : cs.all (fun y => (decodeF .fp32 y).isZero && !(decodeF .fp32 y).isNeg) = decide (∀ y ∈ cs, y = 0) := by
    rw [Bool.eq_iff_iff, List.all_eq_true, decide_eq_true_eq]
    exact forall₂_congr fun y hy => by rw [(zero_fp32 (hlt y hy) (h y hy)).2, decide_eq_true_eq]
  rw [sumF_of_fins h hi, hneg, hpos, rndSum_eq, signed_of_hasInf rfl]
  simp only [Bool.or_eq_true, Bool.and_eq_true, Bool.not_eq_true', decide_eq_true_eq, decide_eq_false_iff_not]
  rfl

/-- The least and the greatest of f32 codes that are no NaNs (R143). -/
theorem foldl_minF_maxF (hlt : ∀ y ∈ x :: xs, y < 2 ^ 32) (h : ∀ y ∈ x :: xs, (decodeF .fp32 y).isNan = false) :
    (xs.foldl (minF .fp32) x ∈ x :: xs
      ∧ ∀ y ∈ x :: xs, under (decodeF .fp32 y) (decodeF .fp32 (xs.foldl (minF .fp32) x)) = false)
    ∧ (xs.foldl (maxF .fp32) x ∈ x :: xs
      ∧ ∀ y ∈ x :: xs, under (decodeF .fp32 (xs.foldl (maxF .fp32) x)) (decodeF .fp32 y) = false) := by
  obtain ⟨hmin, hleast⟩ := foldl_least (f := minF .fp32) (key := orderKey .fp32) (p := fun y => (decodeF .fp32 y).isNan = false)
    (fun a b ha hb => by simp only [minF_of_numbers (firstNan_pair ha hb), ← Int.not_lt, ite_not]) xs x h
  obtain ⟨hmax, hgreatest⟩ := foldl_least (f := maxF .fp32) (key := fun y => -orderKey .fp32 y)
    (p := fun y => (decodeF .fp32 y).isNan = false)
    (fun a b ha hb => by simp only [maxF_of_numbers (firstNan_pair ha hb), ← Int.not_lt, ite_not, Int.neg_lt_neg_iff]) xs x h
  refine ⟨⟨hmin, fun y hy => ?_⟩, hmax, fun y hy => ?_⟩
  · rw [under_decodeF rfl (hlt y hy) (hlt _ hmin) (h y hy) (h _ hmin)]
    exact decide_eq_false (Int.not_lt.mpr (hleast y hy))
  · rw [under_decodeF rfl (hlt _ hmax) (hlt y hy) (h _ hmax) (h y hy)]
    exact decide_eq_false (Int.not_lt.mpr (Int.neg_le_neg_iff.mp (hgreatest y hy)))

end

/-! ## The statement -/

theorem combinedValues : CombinedValues := by
  refine ⟨fun r ty _ => ⟨rfl, rfl, rfl, rfl, rfl, rfl⟩, fun r ty xs hty hne hlt => ?_, fun r xs hne hlt => ?_⟩
  · obtain ⟨x, ys, rfl⟩ := List.exists_cons_of_ne_nil hne
    exact combine_integers hty (hlt x List.mem_cons_self)
  · obtain ⟨x, ys, rfl⟩ := List.exists_cons_of_ne_nil hne
    refine ⟨fun pre z post hxs hz hpre op hop => ?_, fun hnum => ?_⟩
    · obtain rfl | rfl | rfl : op = 0 ∨ op = 1 ∨ op = 2 := by omega
      · exact (congrArg (sumF .fp32 r) hxs).trans (sumF_of_nan hz hpre)
      · exact foldl_quietIfNan (.inl rfl) (hlt z (by simp [hxs])) hz hpre hxs.symm
      · exact foldl_quietIfNan (.inr rfl) (hlt z (by simp [hxs])) hz hpre hxs.symm
    · have hfold := foldl_minF_maxF hlt hnum
      have hx := hnum x List.mem_cons_self
      rw [combine_min hx, combine_max hx]
      refine ⟨hfold.1, hfold.2, sumF_of_infs hnum, fun s => sumF_of_inf rfl hnum, fun hfin => ?_⟩
      have hsum := sumF_fp32_of_fins (r := r) hlt hnum hfin
      exact ⟨fun h0 => hsum.trans (if_neg h0), fun h0 => hsum.trans (if_pos h0)⟩

/-- Settles O18: every op but VOTE, BALLOT and MATCH.all gives one late v result, which is that of the claim in the lanes of the
troupe. What SCAN and VRED compute are folds: the least and the greatest picked by one key, bits each by itself, the first NaN
kept, and a sum of finite codes that is the exact one rounded once. -/
theorem crossLaneResults : Obligations.CrossLaneResults := ⟨laneMoves, laneVotes, laneReductions, combinedValues⟩

end Sys2Proof.Claims
end

section
/-! SUPPORT. Numbers as bytes (00 R2), and the bytes of an arena after a write to it (10 R222, R223). -/

namespace Sys2Proof.Machine

/-! ## Bytes of numbers -/

@[simp] theorem length_bytesOf (n x : Nat) : (bytesOf n x).length = n := by
  induction n generalizing x with
  | zero => rfl
  | succ n ih => rw [bytesOf, List.length_cons, ih]

/-- Byte `j` of a number. -/
theorem getElem?_bytesOf {n j : Nat} (hj : j < n) (x : Nat) : (bytesOf n x)[j]? = some (BitVec.ofNat 8 (x / 256 ^ j)) := by
  induction n generalizing x j with
  | zero => omega
  | succ n ih =>
    cases j with
    | zero => simp [bytesOf]
    | succ j => rw [bytesOf, List.getElem?_cons_succ, ih (by omega), Nat.div_div_eq_div_mul, Nat.pow_succ']

theorem ofBytes_lt (bs : List Byte) : ofBytes bs < 256 ^ bs.length := by
  induction bs with
  | nil => simp [ofBytes]
  | cons b bs ih =>
    have := b.isLt
    rw [ofBytes, List.length_cons, Nat.pow_succ']
    omega

/-- The number of the low bytes of a number. -/
theorem ofBytes_bytesOf (n x : Nat) : ofBytes (bytesOf n x) = x % 256 ^ n := by
  induction n generalizing x with
  | zero => simp [bytesOf, ofBytes, Nat.mod_one]
  | succ n ih =>
    rw [bytesOf, ofBytes, ih, show 256 ^ (n + 1) = 256 * 256 ^ n from Nat.pow_succ', Nat.mod_mul, BitVec.toNat_ofNat]

/-! ## Sparse maps -/

/-- A run of consecutive values reads back. -/
theorem sgets_ssets_keyed {α : Type} [DecidableEq α] (d : α) (m : Sparse α) (a : Nat) (xs : List α) :
    sgets d (ssets d m (keyed a xs)) a xs.length = xs := by
  refine List.ext_getElem (by simp [sgets]) fun i h _ => ?_
  have hi : i < xs.length := by simpa [sgets] using h
  simp only [sgets, List.getElem_map, List.getElem_range]
  refine sget_ssets_mem d _ m _ _ ((keyed_mem xs a _).mpr ⟨i, hi, rfl⟩) fun w hw hk => ?_
  obtain ⟨j, hj, rfl⟩ := (keyed_mem xs a w).mp hw
  obtain rfl : j = i := Nat.add_left_cancel hk
  rfl

/-! ## Writes to the arena -/

namespace Block

/-- What a write to the arena leaves of its block. -/
theorem wrArena_frame (b : Block) (a : Nat) (bytes : List Byte) (seq : Nat) (who : ArenaWriter) :
    b.wrArena a bytes seq who = { b with
      arena := (b.wrArena a bytes seq who).arena, apoison := (b.wrArena a bytes seq who).apoison
      stamps := (b.wrArena a bytes seq who).stamps, undef := (b.wrArena a bytes seq who).undef
      fixed := (b.wrArena a bytes seq who).fixed } := by
  unfold wrArena spoil
  dsimp only
  split
  · rfl
  · split <;> rfl

@[simp] theorem troupes_wrArena (b : Block) (a : Nat) (bytes : List Byte) (seq : Nat) (who : ArenaWriter) :
    (b.wrArena a bytes seq who).troupes = b.troupes := by rw [wrArena_frame]

@[simp] theorem marks_wrArena (b : Block) (a : Nat) (bytes : List Byte) (seq : Nat) (who : ArenaWriter) :
    (b.wrArena a bytes seq who).marks = b.marks := by rw [wrArena_frame]

theorem arena_wrArena (b : Block) (a : Nat) (bytes : List Byte) (seq : Nat) (who : ArenaWriter) :
    (b.wrArena a bytes seq who).arena = ssets 0 b.arena (keyed a bytes) := by
  unfold wrArena
  dsimp only
  split
  · next h => rw [List.eq_nil_of_length_eq_zero h]; rfl
  · rfl

/-- A byte outside a write keeps its value. -/
theorem rdArena_wrArena {a k : Nat} {bytes : List Byte} (h : k < a ∨ a + bytes.length ≤ k) (b : Block) (seq : Nat)
    (who : ArenaWriter) : (b.wrArena a bytes seq who).rdArena k = b.rdArena k := by
  rw [rdArena, arena_wrArena]
  refine sget_ssets_ne 0 _ _ _ fun w hw => ?_
  obtain ⟨i, hi, rfl⟩ := (keyed_mem bytes a w).mp hw
  show a + i ≠ k
  omega

/-- A number written to the arena reads back. -/
@[simp] theorem arenaNat_wrArena (b : Block) (a n v seq : Nat) (who : ArenaWriter) :
    (b.wrArena a (bytesOf n v) seq who).arenaNat a n = v % 256 ^ n := by
  have hread := sgets_ssets_keyed 0 b.arena a (bytesOf n v)
  rw [length_bytesOf] at hread
  rw [arenaNat, arena_wrArena, hread, ofBytes_bytesOf]

theorem arenaNat_lt (b : Block) (a n : Nat) : b.arenaNat a n < 256 ^ n := by
  have h := ofBytes_lt (sgets 0 b.arena a n)
  rwa [sgets, List.length_map, List.length_range] at h

/-- `c` is the block `b` with the same troupes and the same bytes at the places of the arena that are to be kept. -/
def Keeps (b : Block) (kept : Nat → Prop) (c : Block) : Prop :=
  c.troupes = b.troupes ∧ ∀ k, kept k → c.rdArena k = b.rdArena k

theorem keeps_refl (b : Block) (kept : Nat → Prop) : b.Keeps kept b := ⟨rfl, fun _ _ => rfl⟩

theorem Keeps.trans {b c e : Block} {kept : Nat → Prop} (h : b.Keeps kept c) (h' : c.Keeps kept e) : b.Keeps kept e :=
  ⟨h'.1.trans h.1, fun k hk => (h'.2 k hk).trans (h.2 k hk)⟩

theorem keeps_wrArena {kept : Nat → Prop} {a : Nat} {bytes : List Byte} (b : Block) (seq : Nat) (who : ArenaWriter)
    (h : ∀ k, kept k → k < a ∨ a + bytes.length ≤ k) : b.Keeps kept (b.wrArena a bytes seq who) :=
  ⟨troupes_wrArena .., fun k hk => rdArena_wrArena (h k hk) b seq who⟩

/-- Writes one after another keep what each of them keeps. -/
theorem keeps_foldl {α : Type} {kept : Nat → Prop} {f : Block → α → Block} {xs : List α}
    (h : ∀ y ∈ xs, ∀ b : Block, b.Keeps kept (f b y)) (b : Block) : b.Keeps kept (xs.foldl f b) := by
  induction xs generalizing b with
  | nil => exact b.keeps_refl kept
  | cons y ys ih =>
    exact (h y List.mem_cons_self b).trans (ih (fun z hz => h z (List.mem_cons_of_mem _ hz)) (f b y))

end Block

end Sys2Proof.Machine
end

section
/-! SUPPORT. Stores to a word of a next plane (10 R230 to R232): what they leave unchanged, and what the stores of two lanes
make of the word. -/

namespace Sys2Proof.Machine

variable {b c : Block} {d : DWord} {a v seq t l : Nat} {who : ArenaWriter} {m : Mark}

/-! ## The store of a lane -/

/-- A block whose word at `a` has the marks `m`. -/
def Block.withMark (b : Block) (a : Nat) (m : Mark) : Block := { b with marks := sset none b.marks a (some m) }

/-- The marks of a word when the value of a lane has been judged: whether it stands. -/
def Mark.judge (m : Mark) (t l : Nat) : Mark := if m.key ≤ 1 + t * 128 + l then m.stand (.lane t l) else m

/-- The value of a lane replaces that of every lower key. -/
theorem winsOver_lane (m : Mark) (t l old new : Nat) : winsOver m (.lane t l) old new = decide (m.key ≤ 1 + t * 128 + l) := by
  have h0 : 1 + t * 128 + l ≠ 0 := by omega
  simp only [winsOver, Writer.key, h0, if_false]
  split
  · exact decide_eq_decide.mpr (by omega)
  · next h => exact (decide_eq_true (by omega)).symm

theorem planarWrite_unmarked (hm : sget none b.marks a = none) :
    planarWrite b d a v seq (.lane t l) who false
      = some ((b.wrArena a (bytesOf (rgnWord d) v) seq who).withMark a
          (((⟨0, 0, 0, 0, false, false⟩ : Mark).stand (.lane t l)).join (.lane t l))) := by
  unfold planarWrite
  rw [hm]
  rfl

theorem planarWrite_sum (hm : sget none b.marks a = some m) (hr : rgnRule d = 1) :
    planarWrite b d a v seq (.lane t l) who false
      = some (({ b.wrArena a (bytesOf (rgnWord d) (sumWord (rgnType d) (b.arenaNat a (rgnWord d)) v)) seq who with
          apoison := b.apoison } : Block).withMark a ((m.judge t l).join (.lane t l))) := by
  unfold planarWrite
  rw [hm]
  simp only [winsOver_lane, decide_eq_true_eq]
  exact if_pos hr

theorem planarWrite_priority (hm : sget none b.marks a = some m) (hr : rgnRule d ≠ 1) :
    planarWrite b d a v seq (.lane t l) who false
      = if rgnRule d = 2 ∧ m.troupes.getLsbD t = true then none
        else some ((if m.key ≤ 1 + t * 128 + l then b.wrArena a (bytesOf (rgnWord d) v) seq who else b).withMark a
          ({ m.judge t l with collided := m.collided || rgnRule d = 2 }.join (.lane t l))) := by
  unfold planarWrite
  rw [hm]
  simp only [winsOver_lane, decide_eq_true_eq]
  refine (if_neg hr).trans (ite_congr (by simp) (fun _ => rfl) fun _ => congrArg some ?_)
  unfold Mark.judge
  split <;> rfl

/-! ## What a store leaves unchanged -/

/-- A store to a next plane changes the bytes of its word alone. -/
theorem keeps_planarWrite {kept : Nat → Prop} (hk : ∀ k, kept k → k < a ∨ a + rgnWord d ≤ k)
    (h : planarWrite b d a v seq (.lane t l) who false = some c) : b.Keeps kept c := by
  have hput (x : Nat) : b.Keeps kept (b.wrArena a (bytesOf (rgnWord d) x) seq who) :=
    b.keeps_wrArena seq who (by simpa using hk)
  cases hm : sget none b.marks a with
  | none =>
    rw [planarWrite_unmarked hm] at h
    cases h
    exact hput v
  | some m =>
    by_cases hr : rgnRule d = 1
    · rw [planarWrite_sum hm hr] at h
      cases h
      exact hput _
    · rw [planarWrite_priority hm hr] at h
      split at h
      · cases h
      · cases h
        split
        · exact hput v
        · exact b.keeps_refl kept

/-! ## What decides the value of a word -/

/-- What the stores of lanes to a word of a next plane read and write of it: the key of the standing value, the troupes that
have written the word, and its value; a word without marks counts as 0, under a key below every lane's (R230, R231). -/
@[ext] structure PlaneWord where
  key     : Nat
  troupes : BitVec 64
  word    : Nat

def Block.planeWord (b : Block) (d : DWord) (a : Nat) : PlaneWord :=
  match sget none b.marks a with
  | some m => ⟨m.key, m.troupes, b.arenaNat a (rgnWord d)⟩
  | none => ⟨0, 0, 0⟩

/-- The word after the store of a lane, where the region's rule is order-free (R231). -/
def PlaneWord.stored (d : DWord) (t l v : Nat) (p : PlaneWord) : PlaneWord where
  key := max p.key (1 + t * 128 + l)
  troupes := p.troupes ||| BitVec.ofNat 64 (2 ^ t)
  word := if rgnRule d = 1 then (p.word + v) % 256 ^ rgnWord d
    else if p.key ≤ 1 + t * 128 + l then v % 256 ^ rgnWord d else p.word

/-- The store of a lane (R231, R232). -/
def PlaneWord.store (d : DWord) (t l v : Nat) (p : PlaneWord) : Option PlaneWord :=
  if rgnRule d = 2 ∧ p.troupes.getLsbD t = true then none else some (p.stored d t l v)

/-- The rules whose outcome does not depend on the order of lanes. -/
def OrderFree (d : DWord) : Prop := rgnRule d = 0 ∨ rgnRule d = 2 ∨ (rgnRule d = 1 ∧ (rgnType d = 1 ∨ rgnType d = 2))

theorem OrderFree.type_of_sum (h : OrderFree d) (hr : rgnRule d = 1) : rgnType d = 1 ∨ rgnType d = 2 := by
  rcases h with h | h | ⟨-, h⟩
  · omega
  · omega
  · exact h

theorem sumWord_mod (h : rgnType d = 1 ∨ rgnType d = 2) (old new : Nat) :
    sumWord (rgnType d) old new % 256 ^ rgnWord d = (old + new) % 256 ^ rgnWord d := by
  rcases h with h | h <;> simp [sumWord, rgnWord, h]

theorem planeWord_withMark (b : Block) (m : Mark) :
    (b.withMark a m).planeWord d a = ⟨m.key, m.troupes, b.arenaNat a (rgnWord d)⟩ := by
  unfold Block.planeWord Block.withMark
  rw [sget_sset_same]
  rfl

theorem key_judge (m : Mark) (t l : Nat) : (m.judge t l).key = max m.key (1 + t * 128 + l) := by
  unfold Mark.judge
  split
  · next h => exact (Nat.max_eq_right h).symm
  · next h => exact (Nat.max_eq_left (by omega)).symm

theorem troupes_judge (m : Mark) (t l : Nat) : (m.judge t l).troupes = m.troupes := by
  unfold Mark.judge
  split <;> rfl

/-- The store of a lane, in terms of what decides the value of the word. -/
theorem planeWord_planarWrite (h : OrderFree d) :
    (planarWrite b d a v seq (.lane t l) who false).map (fun c => c.planeWord d a) = (b.planeWord d a).store d t l v := by
  cases hm : sget none b.marks a with
  | none =>
    have hp : b.planeWord d a = ⟨0, 0, 0⟩ := by rw [Block.planeWord, hm]
    rw [planarWrite_unmarked hm, hp, Option.map_some, planeWord_withMark, Block.arenaNat_wrArena]
    simp [PlaneWord.store, PlaneWord.stored, Mark.stand, Mark.join, Writer.key]
  | some m =>
    have hp : b.planeWord d a = ⟨m.key, m.troupes, b.arenaNat a (rgnWord d)⟩ := by rw [Block.planeWord, hm]
    by_cases hr : rgnRule d = 1
    · have hty : rgnType d = 1 ∨ rgnType d = 2 := h.type_of_sum hr
      have hword := (Block.arenaNat_wrArena b a (rgnWord d) (sumWord (rgnType d) (b.arenaNat a (rgnWord d)) v) seq who).trans
        (sumWord_mod hty _ _)
      rw [planarWrite_sum hm hr, hp, Option.map_some, planeWord_withMark, PlaneWord.store, if_neg (by omega)]
      exact congrArg some (PlaneWord.ext (key_judge m t l) (congrArg (· ||| _) (troupes_judge m t l)) (hword.trans (if_pos hr).symm))
    · rw [planarWrite_priority hm hr, hp, PlaneWord.store]
      split
      · rfl
      · rw [Option.map_some, planeWord_withMark]
        refine congrArg some (PlaneWord.ext (key_judge m t l) (congrArg (· ||| _) (troupes_judge m t l)) ?_)
        simp only [PlaneWord.stored, if_neg hr]
        split
        · exact Block.arenaNat_wrArena ..
        · rfl

/-- After a store the word has marks, so what decides its value holds it. -/
theorem word_planeWord (h : planarWrite b d a v seq (.lane t l) who false = some c) :
    (c.planeWord d a).word = c.arenaNat a (rgnWord d) := by
  have hmark (e : Block) (m : Mark) : ((e.withMark a m).planeWord d a).word = (e.withMark a m).arenaNat a (rgnWord d) := by
    rw [planeWord_withMark]
    rfl
  cases hm : sget none b.marks a with
  | none =>
    rw [planarWrite_unmarked hm] at h
    cases h
    exact hmark ..
  | some m =>
    by_cases hr : rgnRule d = 1
    · rw [planarWrite_sum hm hr] at h
      cases h
      exact hmark ..
    · rw [planarWrite_priority hm hr] at h
      split at h
      · cases h
      · cases h
        exact hmark ..

/-! ## Two stores -/

/-- The store of a troupe does not make another one collide. -/
theorem PlaneWord.store_stored {t u : Nat} (h : t ≠ u) (l v k w : Nat) (p : PlaneWord) :
    (p.stored d t l v).store d u k w
      = if rgnRule d = 2 ∧ p.troupes.getLsbD u = true then none else some ((p.stored d t l v).stored d u k w) := by
  have htroupes : (p.stored d t l v).troupes.getLsbD u = p.troupes.getLsbD u := by
    rw [stored, BitVec.getLsbD_or, BitVec.getLsbD_ofNat, Nat.testBit_two_pow]
    simp [h]
  rw [store, htroupes]

/-- Of two stores with different keys the larger key's value stands, and sums add up, in either order. -/
theorem PlaneWord.stored_comm {t1 l1 t2 l2 : Nat} (hkey : 1 + t1 * 128 + l1 ≠ 1 + t2 * 128 + l2) (v1 v2 : Nat) (p : PlaneWord) :
    (p.stored d t1 l1 v1).stored d t2 l2 v2 = (p.stored d t2 l2 v2).stored d t1 l1 v1 := by
  refine PlaneWord.ext (Nat.max_right_comm ..) ?_ ?_
  · simp only [stored, BitVec.or_assoc, BitVec.or_comm (BitVec.ofNat 64 (2 ^ t1))]
  · simp only [stored]
    split
    · rw [Nat.mod_add_mod, Nat.mod_add_mod, Nat.add_right_comm]
    · repeat' split
      all_goals omega

theorem PlaneWord.store_comm {t1 l1 t2 l2 : Nat} (ht : t1 ≠ t2) (h1 : l1 < 128) (h2 : l2 < 128) (v1 v2 : Nat) (p : PlaneWord) :
    (p.store d t1 l1 v1).bind (PlaneWord.store d t2 l2 v2) = (p.store d t2 l2 v2).bind (PlaneWord.store d t1 l1 v1) := by
  by_cases hc1 : rgnRule d = 2 ∧ p.troupes.getLsbD t1 = true
  · rw [show p.store d t1 l1 v1 = none from if_pos hc1]
    by_cases hc2 : rgnRule d = 2 ∧ p.troupes.getLsbD t2 = true
    · rw [show p.store d t2 l2 v2 = none from if_pos hc2]
      rfl
    · rw [show p.store d t2 l2 v2 = some _ from if_neg hc2, Option.bind_some, store_stored ht.symm, if_pos hc1]
      rfl
  · rw [show p.store d t1 l1 v1 = some _ from if_neg hc1, Option.bind_some, store_stored ht]
    by_cases hc2 : rgnRule d = 2 ∧ p.troupes.getLsbD t2 = true
    · rw [show p.store d t2 l2 v2 = none from if_pos hc2, if_pos hc2]
      rfl
    · rw [show p.store d t2 l2 v2 = some _ from if_neg hc2, Option.bind_some, store_stored ht.symm, if_neg hc2, if_neg hc1,
        stored_comm (by omega)]

/-- The value of a word after the stores of two lanes. -/
theorem arenaNat_two_stores (h : OrderFree d) (b : Block) (t1 l1 v1 t2 l2 v2 : Nat) (who1 who2 : ArenaWriter) :
    ((planarWrite b d a v1 seq (.lane t1 l1) who1 false).bind
        (fun c => planarWrite c d a v2 seq (.lane t2 l2) who2 false)).map (fun c => c.arenaNat a (rgnWord d))
      = (((b.planeWord d a).store d t1 l1 v1).bind (PlaneWord.store d t2 l2 v2)).map PlaneWord.word := by
  rw [← planeWord_planarWrite (b := b) (seq := seq) (who := who1) h]
  cases planarWrite b d a v1 seq (.lane t1 l1) who1 false with
  | none => rfl
  | some c =>
    simp only [Option.bind_some, Option.map_some]
    rw [← planeWord_planarWrite (seq := seq) (who := who2) h, Option.map_map]
    cases hw : planarWrite c d a v2 seq (.lane t2 l2) who2 false with
    | none => rfl
    | some e => exact congrArg some (word_planeWord hw).symm

end Sys2Proof.Machine

namespace Sys2Proof.Claims
open Sys2Proof.Machine

theorem planarStoresDoNotDependOnOrder : PlanarStoresDoNotDependOnOrder := by
  intro b d a v1 v2 seq t1 l1 t2 l2 ht h1 h2 hrule
  rw [arenaNat_two_stores hrule, arenaNat_two_stores hrule, PlaneWord.store_comm ht h1 h2]

end Sys2Proof.Claims
end

section
/-! SUPPORT. Words that change their block as well as their troupe (10 R234 to R236; 12 R296), in the terms of the claims. -/

namespace Sys2Proof.Claims
open Sys2Proof.Machine

/-! ## The troupe of such a word -/

/-- `t1` is the troupe `t` when an op has had the effect `e` on it, before the troupe goes on to its next word. -/
structure Takes (t : Troupe) (e : Effect) (t1 : Troupe) : Prop where
  v     : ∀ r l, l < 128 → t1.readV r l = e.v r l
  s     : ∀ r, t1.readS r = e.s r
  p     : ∀ q, t1.readP q = e.p q
  tag   : ∀ r b, b < 32 → t1.readTag r b = e.tag r b
  wrote : ∀ r, sget 0 t1.wrote r = e.wrote r
  rest  : t1 = { t with
    v := t1.v, sc := t1.sc, s := t1.s, p := t1.p, late := t1.late, amax := e.amax, sticky := e.sticky, prog := e.prog
    rnd := e.rnd, seed := e.seed, tmask := e.tmask, fb := e.fb, watch := e.watch, run := runWith t.run e.latch
    arenaBusy := e.busy, launches := e.launches, waitw := e.waitw, wrote := t1.wrote
    counters := { t.counters with spills := e.spills } }

theorem takes_self (t : Troupe) : Takes t (Effect.none t) t :=
  ⟨fun _ _ _ => rfl, fun _ => rfl, fun _ => rfl, fun _ _ _ => rfl, fun _ => rfl, rfl⟩

/-- An op that has stored to the arena besides leaves its troupe owing its next MFENCE (12 R296). -/
theorem Takes.owes {t t1 : Troupe} {e : Effect} (h : Takes t e t1) :
    Takes t { e with busy := true } { t1 with arenaBusy := true } := by
  obtain ⟨hv, hs, hp, htag, hwrote, hrest⟩ := h
  refine ⟨hv, hs, hp, htag, hwrote, ?_⟩
  rw [hrest]

/-- What the end of a word makes of its troupe, whose entry keeps its lanes. -/
theorem wordEnd_eq (ends : Bool) (n : Nat) (x : Env) (hdr : DWord) {t : Troupe} {f : FEntry} {fs : List FEntry}
    (hf : t.frontier = f :: fs) (hm : f.mask ≠ 0) : t.wordEnd ends n x hdr = { t with
      frontier := goesTo x hdr t.frontier, midRun := t.midRun && !(ends || x.c.last)
      run := if ends || x.c.last then Troupe.freshRun else { t.run with words := t.run.words + x.c.len }
      rm := none, status := .ready, redo := false, served := 0, kept := [], keptTag := []
      retiredInsns := t.retiredInsns + n
      counters := { t.counters with retired := (t.counters.retired + n) % 2 ^ 64 } } := by
  unfold Troupe.wordEnd
  rw [goOn_eq n x hdr t f fs hf hm]
  cases ends || x.c.last
  · simp [Troupe.retire]
  · simp [Troupe.retire, Troupe.restRun]

/-- The entry of a word that takes effect. -/
theorem Runs.head {s : State} {x : Env} {code : Nat} {o : Op} {hdr : DWord} (h : Runs s x code o hdr) :
    ∃ f fs, x.t.frontier = f :: fs ∧ f.mask ≠ 0 := by
  cases hf : x.t.frontier with
  | nil => exact absurd (by rw [Troupe.active, hf]) h.lanes
  | cons f fs => exact ⟨f, fs, rfl, h.head_mask hf⟩

section
variable {s s1 : State} {x : Env} {code : Nat} {o : Op} {hdr : DWord} {i : Instr} {body : Env → State → Res} {e : Effect}
  {t1 : Troupe}

/-- The troupe of a word that has had its effect, at its next word. -/
theorem Takes.leaves (ht : Takes x.t e t1) {f : FEntry} {fs : List FEntry} (hf : x.t.frontier = f :: fs) (hm : f.mask ≠ 0) :
    Leaves x (ends code o x) 1 (goesTo x hdr x.t.frontier) e (t1.wordEnd (o.endsRun || endsOwn code x.det) 1 x hdr) := by
  obtain ⟨hv, hs, hp, htag, hwrote, hrest⟩ := ht
  have hfront : t1.frontier = x.t.frontier := by rw [hrest]
  rw [wordEnd_eq _ 1 x hdr (hfront.trans hf) hm]
  refine ⟨hv, hs, hp, htag, hwrote, ?_⟩
  rw [hrest]
  unfold ends runAfter
  cases (o.endsRun || endsOwn code x.det) || x.c.last
  · cases e.latch <;> rfl
  · simp [Troupe.freshRun]

/-- A word whose own effect leads from `s` to `s1` and gives its troupe the effect `e`. -/
theorem answers_of (h : Runs s x code o hdr) (hx : exec i s = issueOp code i o body s) {t0 : Troupe}
    (ht0 : s1.troupe? x.r = some t0) (hslots : s1.slots = s.slots) (hb : body x s = .done (s1.setTroupe x.r t1))
    (ht : Takes x.t e t1) : Answers i s x (ends code o x) 1 (goesTo x hdr x.t.frontier) e s1 := by
  obtain ⟨f, fs, hf, hm⟩ := h.head
  have hfront : t1.frontier = f :: fs := by rw [ht.rest]; exact hf
  have hheld : t1.held = x.t.held := by rw [ht.rest]
  refine ⟨_, ht.leaves hf hm, ?_⟩
  rw [hx, issueOp_ok h.env h.checks h.whole, hb, h.falls]
  refine congrArg _ ((complete_setTroupe (s0 := s) ht0 _ _ _ f fs hfront hm hheld).trans ?_)
  have hkept : (s1.setTroupe x.r (t1.wordEnd (o.endsRun || endsOwn code x.det) 1 x hdr)).slots = s.slots := by simp [hslots]
  unfold ends slotsAfter
  rw [← hkept]
  split <;> rfl

/-! ## The block of such a word -/

/-- The block of an issuing word, replaced. -/
theorem setBlock_eq (h : s.env? = some x) (b : Block) :
    s.setBlock x.r.cluster x.r.block b = s.setCluster x.r.cluster { x.cl with blocks := x.cl.blocks.set x.r.block b } := by
  obtain ⟨-, hc, -⟩ := State.env?_some h
  rw [State.setBlock, hc]

/-- A block replaced by itself. -/
theorem setBlock_self (h : s.env? = some x) : s.setBlock x.r.cluster x.r.block x.b = s := by
  obtain ⟨-, hc, hb, -, -⟩ := State.env?_some h
  obtain ⟨hlt, hget⟩ := List.getElem?_eq_some_iff.mp hb
  rw [setBlock_eq h, ← hget, List.set_getElem_self]
  exact congrArg (fun cs => { s with clusters := cs }) (aset_same _ _ _ hc)

theorem troupe?_setBlock (h : s.env? = some x) {b : Block} (hb : b.troupes = x.b.troupes) :
    (s.setBlock x.r.cluster x.r.block b).troupe? x.r = some x.t := by
  obtain ⟨-, hc, hb0, ht, -⟩ := State.env?_some h
  obtain ⟨hlt, -⟩ := List.getElem?_eq_some_iff.mp hb0
  rw [setBlock_eq h]
  simp [State.troupe?, State.block?, State.cluster?_setCluster, hc, hlt, hb, ht]

theorem setBlock_bumped (s : State) (core n c k : Nat) (b : Block) :
    (s.bumpSeq.bumpCore core 0x16 n).setBlock c k b
      = { s.setBlock c k b with seq := s.seq + 1, coreCount := (s.bumpCore core 0x16 n).coreCount } := by
  show (match s.cluster? c with
    | some cl => (s.bumpSeq.bumpCore core 0x16 n).setCluster c { cl with blocks := cl.blocks.set k b }
    | none => s.bumpSeq.bumpCore core 0x16 n) = _
  unfold State.setBlock
  cases s.cluster? c <;> rfl

/-- A word that reads the arena, counting `n` clocks of bank conflicts (10 R222). -/
theorem inBlock_read (h : Runs s x code o hdr) (hx : exec i s = issueOp code i o body s) {n : Nat}
    (hb : body x s = .done ((s.bumpCore x.core 0x16 n).setTroupe x.r t1)) (ht : Takes x.t e t1) :
    InBlock i s x (ends code o x) 1 hdr x.b e := by
  have hself : s.bumpCore x.core 0x16 n = { s.setBlock x.r.cluster x.r.block x.b with
      seq := s.seq, coreCount := (s.bumpCore x.core 0x16 n).coreCount } := by rw [setBlock_self h.env]; rfl
  exact ⟨_, hself, fun _ => rfl, answers_of h hx (t0 := x.t) (State.env?_troupe h.env) rfl hb ht⟩

/-- A word that has made `b` of its block by storing to the arena (12 R296). -/
theorem inBlock_store (h : Runs s x code o hdr) (hx : exec i s = issueOp code i o body s) {n : Nat} {b : Block}
    (htroupes : b.troupes = x.b.troupes)
    (hb : body x s = .done ((((s.bumpSeq.bumpCore x.core 0x16 n).setBlock x.r.cluster x.r.block b).setTroupe x.r t1).owesFence x.r))
    (ht : Takes x.t e t1) : InBlock i s x (ends code o x) 1 hdr b { e with busy := true } := by
  rw [setBlock_bumped] at hb
  have ht0 : ({ s.setBlock x.r.cluster x.r.block b with
      seq := s.seq + 1, coreCount := (s.bumpCore x.core 0x16 n).coreCount } : State).troupe? x.r = some x.t :=
    troupe?_setBlock h.env htroupes
  rw [State.owesFence, State.modTroupe_setTroupe ht0] at hb
  exact ⟨_, rfl, fun k => by simp [State.rdByte], answers_of h hx ht0 (by simp) hb ht.owes⟩

/-- A word whose only effects are stores to the arena. -/
theorem inBlock_of_stores (h : Runs s x code o hdr) (hx : exec i s = issueOp code i o body s) {n : Nat} {b : Block}
    (htroupes : b.troupes = x.b.troupes)
    (hb : body x s = .done (((s.bumpSeq.bumpCore x.core 0x16 n).setBlock x.r.cluster x.r.block b).owesFence x.r)) :
    InBlock i s x (ends code o x) 1 hdr b { Effect.none x.t with busy := true } := by
  have ht0 : ((s.bumpSeq.bumpCore x.core 0x16 n).setBlock x.r.cluster x.r.block b).troupe? x.r = some x.t :=
    troupe?_setBlock (s := s.bumpSeq.bumpCore x.core 0x16 n) h.env htroupes
  refine inBlock_store h hx (n := n) htroupes (t1 := x.t) ?_ (takes_self x.t)
  rw [State.setTroupe_self ht0]
  exact hb

end

end Sys2Proof.Claims
end

section
/-! SUPPORT. Values that lanes load and store (10 R234 to R236): the results of a load whose lanes have all passed their checks,
and the bytes of a stored register. -/

namespace Sys2Proof.Machine

/-! ## Lanes without faults -/

theorem maskOf_selected (t : Troupe) (g : Guard) : maskOf (lanesOf t.width (t.selected g)) = t.selected g := by
  refine lanes_ext fun l => ?_
  rw [show maskOf (lanesOf t.width (t.selected g)) = maskWhere t.width (hasLane (t.selected g)) from rfl, hasLane_maskWhere]
  cases hl : hasLane (t.selected g) l
  · simp
  · simp [hasLane_lt hl, lt_width_of_selected hl]

theorem arenaLanes_of_none {ls : List Nat} {f : Nat → Option ArenaFault} (h : ∀ l ∈ ls, f l = none) :
    arenaLanes ls f = (ls, []) := by
  refine Prod.ext (List.filter_eq_self.mpr fun l hl => by rw [h l hl]; rfl) (List.filterMap_eq_nil_iff.mpr fun l hl => ?_)
  rw [h l hl]
  rfl

/-- The checks 1 to 3 of R228 pass. -/
theorem arenaBounds_of_inside {d : DWord} {al n o : Nat} (h : rgnV d = true ∧ o % al = 0 ∧ o + n ≤ rgnSize d) :
    arenaBounds d al n o = none := by
  obtain ⟨hv, hal, hsize⟩ := h
  simp [arenaBounds, hv, hal, Nat.not_lt.mpr hsize]

theorem nextAt_of_flat {d : DWord} (h : rgnPlanar d = false) : nextAt d = rgnBase d := by simp [nextAt, h]

/-! ## Tables of values -/

theorem laneVal_map {ls : List Nat} {l : Nat} (h : l ∈ ls) (f : Nat → Nat) : laneVal (ls.map (fun l => (l, f l))) l = f l := by
  have hlook : (ls.map (fun l => (l, f l))).lookup l = some (f l) := by
    refine Troupe.lookup_of_mem_unique _ l (f l) (List.mem_map.mpr ⟨l, h, rfl⟩) fun w hw hk => ?_
    obtain ⟨m, -, rfl⟩ := List.mem_map.mp hw
    exact congrArg f hk
  rw [laneVal, hlook]
  rfl

/-! ## Results that arrive later -/

/-- Whether a pending result is a load's makes no difference to what reads as written. -/
theorem readV_issueLateV (t : Troupe) (sfu load w : Bool) (d : Nat) (sel : Lanes) (fs : List (Nat → Word))
    (tag : List (Nat × Byte)) (r l : Nat) :
    (t.issueLateV sfu load w d sel fs tag).readV r l = (t.produceLateV sfu w d sel fs tag).readV r l := by
  cases w <;>
  · show (Troupe.pendingV (t.late ++ [_]) _).getD _ = (Troupe.pendingV (t.late ++ [_]) _).getD _
    rw [Troupe.pendingV_append, Troupe.pendingV_append]
    rfl

theorem readS_issueLateV (t : Troupe) (sfu load w : Bool) (d : Nat) (sel : Lanes) (fs : List (Nat → Word))
    (tag : List (Nat × Byte)) (r : Nat) : (t.issueLateV sfu load w d sel fs tag).readS r = t.readS r := by
  cases w <;>
  · show (Troupe.pendingS (t.late ++ [_]) r).getD _ = _
    rw [Troupe.pendingS_append]
    rfl

theorem wrote_issueLateV (t : Troupe) (sfu load w : Bool) (d : Nat) (sel : Lanes) (fs : List (Nat → Word))
    (tag : List (Nat × Byte)) :
    (t.issueLateV sfu load w d sel fs tag).wrote = (t.produceLateV sfu w d sel fs tag).wrote := by cases w <;> rfl

/-- The tag bytes of register `d` among those pending. -/
theorem lookup_tagCells (d : Nat) {tag : List (Nat × Byte)} (htag : ∀ e ∈ tag, e.1 < 32) {b : Nat} (hb : b < 32) (r : Nat) :
    (tag.map (fun e => (d * 32 + e.1, e.2))).lookup (r * 32 + b) = if r = d then tag.lookup b else none := by
  induction tag with
  | nil => simp
  | cons e tag ih =>
    have he := htag e List.mem_cons_self
    rw [List.map_cons, List.lookup_cons, List.lookup_cons, ih fun e h => htag e (List.mem_cons_of_mem _ h)]
    by_cases hr : r = d
    · subst hr
      have hk : (r * 32 + b == r * 32 + e.1) = (b == e.1) :=
        Bool.eq_iff_iff.mpr (by rw [beq_iff_eq, beq_iff_eq]; exact Nat.add_left_cancel_iff)
      rw [hk, if_pos rfl, if_pos rfl]
    · have hk : (r * 32 + b == d * 32 + e.1) = false := beq_eq_false_iff_ne.mpr (by omega)
      simp [hr, hk]

/-- The tag bytes after v results that arrive later (R97; 02 R46). -/
theorem readTag_issueLateV (t : Troupe) (sfu load w : Bool) (d : Nat) (sel : Lanes) (fs : List (Nat → Word))
    {tag : List (Nat × Byte)} (htag : ∀ e ∈ tag, e.1 < 32) {b : Nat} (hb : b < 32) (r : Nat) :
    (t.issueLateV sfu load w d sel fs tag).readTag r b
      = if w = false ∧ r = d ∧ 4 * b < t.width then (tag.lookup b).getD (t.readTag r b) else t.readTag r b := by
  cases w
  · show (if t.width ≤ 4 * b then 0 else (Troupe.pendingSc (t.late ++ [_]) (r * 32 + b)).getD _) = _
    rw [Troupe.pendingSc_append]
    show (if t.width ≤ 4 * b then 0 else (((tag.map (fun e => (d * 32 + e.1, e.2))).lookup (r * 32 + b)).orElse _).getD
      (sget 0x7F t.sc (r * 32 + b))) = _
    rw [lookup_tagCells d htag hb]
    by_cases hw : t.width ≤ 4 * b
    · rw [if_pos hw, if_neg (by omega), Troupe.readTag_beyond t r b hw]
    · rw [if_neg hw]
      by_cases hr : r = d
      · rw [if_pos hr, if_pos ⟨rfl, hr, by omega⟩]
        cases tag.lookup b <;> simp [Troupe.readTag, hw]
      · simp [hr, Troupe.readTag, hw]
  · show (if t.width ≤ 4 * b then 0 else (Troupe.pendingSc (t.late ++ [_]) (r * 32 + b)).getD _) = _
    rw [Troupe.pendingSc_append]
    rfl

/-- v results that arrive later change the pending results, the run and the counts of writes. -/
theorem issueLateV_frame (t : Troupe) (sfu load w : Bool) (d : Nat) (sel : Lanes) (fs : List (Nat → Word))
    (tag : List (Nat × Byte)) :
    t.issueLateV sfu load w d sel fs tag = { t with
      late := (t.issueLateV sfu load w d sel fs tag).late, wrote := (t.issueLateV sfu load w d sel fs tag).wrote
      run := Claims.runWith t.run (some ⟨t.mergedV d sel (fs.headD (fun _ => 0)), t.mergedTag d tag, false⟩) } := by
  cases w <;> rfl

end Sys2Proof.Machine

namespace Sys2Proof.Claims
open Sys2Proof.Machine

/-- A load, all of whose selected lanes have completed, in the terms of the claims (03 R86; 04 R97). -/
theorem takes_loaded (t : Troupe) (o : Op) (sel : Lanes) (fs : List (Nat → Word)) {tag : List (Nat × Byte)}
    (htag : ∀ e ∈ tag, e.1 < 32) :
    Takes t ((Effect.none t).toV t o.w o.dst.toNat sel fs tag) (t.loaded o sel sel fs tag) := by
  rw [Troupe.loaded, if_pos rfl]
  have hf := issueLateV_frame t false true o.w o.dst.toNat sel fs tag
  refine ⟨fun r l hl => ?_, readS_issueLateV _ _ _ _ _ _ _ _, readP_congr (by rw [hf]) (by rw [hf]), fun r b hb => ?_,
    fun r => ?_, by rw [hf]; rfl⟩
  · rw [readV_issueLateV, Troupe.readV_produceLateV _ _ _ _ _ _ _ _ _ hl]
    cases o.w <;> simp [Effect.toV, hasLane, and_assoc]
  · rw [readTag_issueLateV _ _ _ _ _ _ _ htag hb]
    cases o.w <;> simp [Effect.toV]
  · rw [wrote_issueLateV]
    exact wrote_produceLateV ..

/-- The effect of v results depends on their values in the selected lanes of the troupe. -/
theorem toV_congr_selected (e : Effect) (t : Troupe) (w : Bool) (d : Nat) {sel : Lanes} {fs gs : List (Nat → Word)}
    (tag : List (Nat × Byte)) (hlen : fs.length = gs.length)
    (h : ∀ k l, l < t.width → hasLane sel l = true → fs.getD k (fun _ => 0) l = gs.getD k (fun _ => 0) l) :
    e.toV t w d sel fs tag = e.toV t w d sel gs tag := by
  unfold Effect.toV
  congr 1
  · funext r l
    rw [hlen]
    refine ite_congr rfl (fun hc => ?_) fun _ => rfl
    simp only [Bool.and_eq_true, decide_eq_true_eq] at hc
    exact h _ l hc.1.2 hc.2
  · refine congrArg some (congrArg (Latch.mk · _ _) (List.map_congr_left fun l hl => ite_congr rfl (fun hs => ?_) fun _ => rfl))
    have hhead := h 0 l (List.mem_range.mp hl) hs
    simpa only [List.getD_eq_getElem?_getD, ← List.head?_eq_getElem?, ← List.headD_eq_head?_getD] using hhead
  · rw [hlen]

/-! ## Loaded values -/

theorem two_pow_bytes (n : Nat) : 256 ^ n = 2 ^ (8 * n) := by rw [Nat.pow_mul]

theorem typeBits_eq (ty : Nat) : typeBits ty = 8 * memWidth ty := by
  have h : typeBits ty = 8 ∨ typeBits ty = 16 ∨ typeBits ty = 64 ∨ typeBits ty = 32 := by
    unfold typeBits
    repeat' split
    all_goals simp
  unfold memWidth
  omega

theorem memWidth_of_type64 {ty : Nat} (h : type64 ty = true) : memWidth ty = 8 := by
  simp only [type64, Bool.or_eq_true, decide_eq_true_eq] at h
  rcases h with rfl | rfl <;> rfl

theorem memWidth_le_four {ty : Nat} (h : type64 ty = false) : 0 < memWidth ty ∧ memWidth ty ≤ 4 := by
  simp only [type64, Bool.or_eq_false_iff, decide_eq_false_iff_not] at h
  unfold memWidth typeBits
  simp only [h, decide_false, Bool.or_false, Bool.false_eq_true, if_false]
  repeat' split
  all_goals simp

/-- A loaded element extended to its register (10 R234). -/
theorem extendElem_eq {ty v : Nat} (h : type64 ty = false) (hv : v < 256 ^ memWidth ty) :
    BitVec.ofNat 32 (extendElem ty v)
      = if typeSigned ty then (BitVec.ofNat (8 * memWidth ty) v).signExtend 32 else BitVec.ofNat 32 v := by
  obtain ⟨hpos, -⟩ := memWidth_le_four h
  cases hs : typeSigned ty
  · simp [extendElem, hs]
  · by_cases hb : typeBits ty < 32
    · have hval : (BitVec.ofNat (8 * memWidth ty) v).toNat = v := by
        rw [BitVec.toNat_ofNat, Nat.mod_eq_of_lt]
        rwa [← two_pow_bytes]
      have hint : toSigned (typeBits ty) v = (BitVec.ofNat (8 * memWidth ty) v).toInt := by
        rw [← toSigned_toNat (by omega), hval, typeBits_eq]
      simp only [extendElem, hs, hb, hint, wrap_eq_ofInt, decide_true, Bool.and_self, if_true, BitVec.ofNat_toNat, BitVec.setWidth_eq]
      rfl
    · have hle := (memWidth_le_four h).2
      have hw : 8 * memWidth ty = 32 := by have := typeBits_eq ty; omega
      simp only [extendElem, hb, decide_false, Bool.and_false, Bool.false_eq_true, if_false, if_true]
      rw [hw, BitVec.signExtend_eq]

/-- The registers of a load of at most 8 bytes a lane. -/
theorem toV_loadRegs (e : Effect) (t : Troupe) (w : Bool) (d : Nat) {sel : Lanes} {ty : Nat} {tab : List (Nat × Nat)}
    {val : Nat → Nat} (tag : List (Nat × Byte))
    (h : ∀ l, l < t.width → hasLane sel l = true → laneVal tab l = val l ∧ val l < 256 ^ memWidth ty) :
    e.toV t w d sel (loadRegs ty false tab) tag = e.toV t w d sel (loadedRegs ty (memWidth ty) val) tag := by
  cases h64 : type64 ty
  · obtain ⟨hpos, hle⟩ := memWidth_le_four h64
    have hone : max 1 (memWidth ty / 4) = 1 := by omega
    refine toV_congr_selected e t w d tag (by simp [loadRegs, loadedRegs, h64, hone]) fun k l hl hs => ?_
    obtain ⟨htab, hval⟩ := h l hl hs
    cases k with
    | zero =>
      simp only [loadRegs, loadedRegs, h64, hone, filled, if_neg (by omega : ¬4 < memWidth ty), Bool.false_eq_true, if_false,
        List.range_one, List.map_cons, List.getD_cons_zero, htab, extendElem_eq h64 hval]
      split <;> rfl
    | succ k => simp [loadRegs, loadedRegs, h64, hone]
  · have hw := memWidth_of_type64 h64
    refine toV_congr_selected e t w d tag (by simp [loadRegs, loadedRegs, h64, hw]) fun k l hl hs => ?_
    obtain ⟨htab, -⟩ := h l hl hs
    match k with
    | 0 => simp [loadRegs, loadedRegs, h64, hw, filled, htab, List.range_succ]
    | 1 => simp [loadRegs, loadedRegs, h64, hw, filled, htab, List.range_succ]
    | k + 2 => simp [loadRegs, loadedRegs, h64, hw, List.range_succ]

/-! ## Stored bytes -/

/-- A word of a number that words hold. -/
theorem elemOf_joinElems {w : Nat} {xs : List Nat} {q : Nat} (hq : q < xs.length) :
    elemOf w (joinElems w xs) q = xs[q] % 2 ^ w := by
  induction xs generalizing q with
  | nil => cases hq
  | cons x xs ih =>
    have hpos : 0 < 2 ^ w := Nat.two_pow_pos w
    cases q with
    | zero => simp [elemOf, joinElems, Nat.add_mul_mod_self_left]
    | succ q =>
      have hdiv : (x % 2 ^ w + 2 ^ w * joinElems w xs) / 2 ^ w = joinElems w xs := by
        rw [Nat.add_mul_div_left _ _ hpos, Nat.div_eq_of_lt (Nat.mod_lt _ hpos), Nat.zero_add]
      rw [List.getElem_cons_succ, ← ih (by simpa using hq), elemOf, elemOf, joinElems, Nat.mul_succ,
        Nat.add_comm (w * q), Nat.pow_add, ← Nat.div_div_eq_div_mul, hdiv]

/-- A byte of a 32-bit word of a number. -/
theorem byte_of_word (x j : Nat) : x / 256 ^ j % 2 ^ 8 = elemOf 32 x (j / 4) / 2 ^ (8 * (j % 4)) % 2 ^ 8 := by
  refine Nat.eq_of_testBit_eq fun i => ?_
  rw [two_pow_bytes]
  simp only [elemOf, Nat.testBit_mod_two_pow, Nat.testBit_div_two_pow]
  by_cases hi : i < 8
  · rw [decide_eq_true (by omega : i + 8 * (j % 4) < 32), Bool.true_and,
      show i + 8 * (j % 4) + 32 * (j / 4) = i + 8 * j by omega]
  · rw [decide_eq_false hi, Bool.false_and, Bool.false_and]

/-- The bytes that a store takes from the registers of a lane (10 R234). -/
theorem storeBytes_eq (o : Op) (t : Troupe) (n l : Nat) : storeBytes o t n l = registerBytes t o.dst.toNat n l := by
  refine List.ext_getElem? fun j => ?_
  by_cases hj : j < n
  · have hreg : j / 4 < (n + 3) / 4 := by omega
    have hword := elemOf_joinElems (w := 32) (q := j / 4)
      (xs := (List.range ((n + 3) / 4)).map (fun j => (t.readV (o.dst.toNat + j) l).toNat)) (by simpa using hreg)
    rw [List.getElem_map, List.getElem_range, Nat.mod_eq_of_lt (t.readV _ l).isLt] at hword
    rw [storeBytes, getElem?_bytesOf hj, registerBytes, List.getElem?_map, List.getElem?_range hj]
    refine congrArg some (BitVec.eq_of_toNat_eq ?_)
    rw [BitVec.extractLsb'_toNat, ← hword, BitVec.toNat_ofNat, Nat.shiftRight_eq_div_pow, byte_of_word]
  · rw [List.getElem?_eq_none (by simpa [storeBytes] using hj), List.getElem?_eq_none (by simpa [registerBytes] using hj)]

end Sys2Proof.Claims
end

section
/-! SUPPORT. LDA and STA, LDAB and STAB, and ATOMA (10 R233 to R236): what each does where no lane has a fault. -/

namespace Sys2Proof.Claims
open Sys2Proof.Machine

/-- The lanes that an arena word selects, the region that it names, and the bytes of an element of a plain access. -/
abbrev lanesAt (x : Env) (o : Op) : List Nat := lanesOf x.t.width (x.t.selected o.guard)
abbrev regionAt (x : Env) (o : Op) : DWord := x.b.region (opRegion o)
abbrev widthOf (o : Op) : Nat := memWidth (memType o.c)

/-- `n` bytes at an offset lie in a region, aligned to `al` (10 R228). -/
abbrev Inside (d : DWord) (al n off : Nat) : Prop := rgnV d = true ∧ off % al = 0 ∧ off + n ≤ rgnSize d

section
variable {s : State} {x : Env} {o : Op} {hdr : DWord}

/-- A selected lane is among the lanes of an access. -/
theorem mem_lanesAt {l : Nat} (hw : l < x.t.width) (hs : hasLane (x.t.selected o.guard) l = true) : l ∈ lanesAt x o :=
  Troupe.mem_lanesOf.mpr ⟨hw, hs⟩

/-- The bytes that the accesses of the lanes do not reach. -/
def Unreached (ls : List Nat) (a : Nat → Nat) (n k : Nat) : Prop := ∀ l ∈ ls, k < a l ∨ a l + n ≤ k

/-! ## LDA -/

theorem ldaBody_eq (h : ∀ l ∈ lanesAt x o, Inside (regionAt x o) (widthOf o) (widthOf o) (ldaAddr o x.t l)
      ∧ x.b.arenaPoison (presentAt (regionAt x o) + ldaAddr o x.t l) (widthOf o) = false) :
    ∃ k, ldaBody o x s = .done ((s.bumpCore x.core 0x16 k).setTroupe x.r
      (x.t.loaded o (x.t.selected o.guard) (x.t.selected o.guard) (loadRegs (memType o.c) false
        ((lanesAt x o).map (fun l => (l, x.b.arenaNat (presentAt (regionAt x o) + ldaAddr o x.t l) (widthOf o))))) [])) := by
  unfold ldaBody
  dsimp only
  rw [arenaLanes_of_none fun l hl => ?_, maskOf_selected]
  · exact ⟨_, rfl⟩
  · obtain ⟨hin, hpoison⟩ := h l hl
    simp [orFault, arenaBounds_of_inside hin, hpoison]

theorem lda_inBlock (hr : Runs s x 0x140 o hdr)
    (h : ∀ l ∈ lanesAt x o, Inside (regionAt x o) (widthOf o) (widthOf o) (ldaAddr o x.t l)
      ∧ x.b.arenaPoison (presentAt (regionAt x o) + ldaAddr o x.t l) (widthOf o) = false) :
    InBlock (.lda o) s x (ends 0x140 o x) 1 hdr x.b ((Effect.none x.t).toV x.t o.w o.dst.toNat (x.t.selected o.guard)
      (loadedRegs (memType o.c) (widthOf o)
        (fun l => x.b.arenaNat (presentAt (regionAt x o) + ldaAddr o x.t l) (widthOf o))) []) := by
  obtain ⟨k, hb⟩ := ldaBody_eq (s := s) h
  rw [← toV_loadRegs _ _ _ _ _ fun l hw hs => ⟨laneVal_map (mem_lanesAt hw hs) _, Block.arenaNat_lt ..⟩]
  exact inBlock_read hr rfl hb (takes_loaded _ _ _ _ (by simp))

/-! ## STA -/

/-- The stores of STA to a region without planes, one after another. -/
def flatStores (d : DWord) (seq troupe : Nat) (off : Nat → Nat) (bytes : Nat → List Byte) (ls : List Nat) (b : Block) : Block :=
  ls.foldl (fun b l => b.wrArena (rgnBase d + off l) (bytes l) seq (.store troupe)) b

theorem staLanes_flat {d : DWord} (hp : rgnPlanar d = false) (seq troupe : Nat) (off : Nat → Nat) (bytes : Nat → List Byte)
    (ls : List Nat) (b : Block) : staLanes d seq troupe off bytes ls b = (flatStores d seq troupe off bytes ls b, []) := by
  induction ls generalizing b with
  | nil => rfl
  | cons l ls ih =>
    simp only [staLanes, hp, Bool.false_eq_true, if_false, ih, nextAt_of_flat hp, flatStores, List.foldl_cons]

theorem keeps_flatStores {d : DWord} {off : Nat → Nat} {bytes : Nat → List Byte} {n : Nat} (hn : ∀ l, (bytes l).length = n)
    (seq troupe : Nat) (ls : List Nat) (b : Block) :
    b.Keeps (Unreached ls (fun l => rgnBase d + off l) n) (flatStores d seq troupe off bytes ls b) :=
  Block.keeps_foldl (fun l hl c => c.keeps_wrArena _ _ fun _ hk => (hn l).symm ▸ hk l hl) b

/-- The stores of STA to a next plane, one after another; none where one of them collides. -/
def planarStores (d : DWord) (seq troupe : Nat) (off : Nat → Nat) (bytes : Nat → List Byte) (ls : List Nat)
    (b : Option Block) : Option Block :=
  ls.foldl (fun b l => b.bind (fun b =>
    planarWrite b d (nextAt d + off l) (ofBytes (bytes l)) seq (.lane troupe l) (.store troupe) false)) b

theorem planarStores_none (d : DWord) (seq troupe : Nat) (off : Nat → Nat) (bytes : Nat → List Byte) (ls : List Nat) :
    planarStores d seq troupe off bytes ls none = none := by
  induction ls with
  | nil => rfl
  | cons l ls ih => exact ih

/-- The first of some stores to a next plane, when none collides. -/
theorem planarStores_cons {d : DWord} {seq troupe l : Nat} {off : Nat → Nat} {bytes : Nat → List Byte} {ls : List Nat}
    {b b1 : Block} (h : planarStores d seq troupe off bytes (l :: ls) (some b) = some b1) :
    ∃ c, planarWrite b d (nextAt d + off l) (ofBytes (bytes l)) seq (.lane troupe l) (.store troupe) false = some c
      ∧ planarStores d seq troupe off bytes ls (some c) = some b1 := by
  cases hw : planarWrite b d (nextAt d + off l) (ofBytes (bytes l)) seq (.lane troupe l) (.store troupe) false with
  | some c => exact ⟨c, rfl, by rw [← h, ← hw]; rfl⟩
  | none =>
    have hnone : planarStores d seq troupe off bytes (l :: ls) (some b) = planarStores d seq troupe off bytes ls none := by
      rw [← hw]; rfl
    rw [hnone, planarStores_none] at h
    cases h

theorem staLanes_planar {d : DWord} (hp : rgnPlanar d = true) {seq troupe : Nat} {off : Nat → Nat} {bytes : Nat → List Byte}
    {ls : List Nat} {b b1 : Block} (h : planarStores d seq troupe off bytes ls (some b) = some b1) :
    staLanes d seq troupe off bytes ls b = (b1, []) := by
  induction ls generalizing b with
  | nil => cases h; rfl
  | cons l ls ih =>
    obtain ⟨c, hw, hrest⟩ := planarStores_cons h
    simp only [staLanes, hp, if_true, hw, ih hrest]

theorem keeps_planarStores {d : DWord} {seq troupe : Nat} {off : Nat → Nat} {bytes : Nat → List Byte} {kept : Nat → Prop}
    {ls : List Nat} {b b1 : Block} (hk : ∀ l ∈ ls, ∀ k, kept k → k < nextAt d + off l ∨ nextAt d + off l + rgnWord d ≤ k)
    (h : planarStores d seq troupe off bytes ls (some b) = some b1) : b.Keeps kept b1 := by
  induction ls generalizing b with
  | nil => cases h; exact Block.keeps_refl _ kept
  | cons l ls ih =>
    obtain ⟨c, hw, hrest⟩ := planarStores_cons h
    exact (keeps_planarWrite (hk l List.mem_cons_self) hw).trans
      (ih (fun m hm => hk m (List.mem_cons_of_mem _ hm)) hrest)

/-- STA without faults makes `b1` of its block. -/
theorem staBody_eq {b1 : Block}
    (h : ∀ l ∈ lanesAt x o, Inside (regionAt x o) (widthOf o) (widthOf o) (ldaAddr o x.t l)
      ∧ (rgnPlanar (regionAt x o) = true → widthOf o = rgnWord (regionAt x o)))
    (hst : staLanes (regionAt x o) (s.seq + 1) x.r.troupe (ldaAddr o x.t) (registerBytes x.t o.dst.toNat (widthOf o))
      (lanesAt x o) x.b = (b1, [])) :
    ∃ k, staBody o x s
      = .done (((s.bumpSeq.bumpCore x.core 0x16 k).setBlock x.r.cluster x.r.block b1).owesFence x.r) := by
  rw [← funext (storeBytes_eq o x.t _)] at hst
  unfold staBody
  dsimp only [State.nextSeq]
  rw [arenaLanes_of_none fun l hl => ?_]
  · dsimp only
    rw [hst]
    have hmerge (w : Nat) : mergeArena w [] [] = [] := by simp [mergeArena]
    rw [hmerge]
    exact ⟨_, rfl⟩
  · obtain ⟨hin, hword⟩ := h l hl
    simp only [staCheck, orFault, arenaBounds_of_inside hin]
    exact if_neg (by simpa using hword)

theorem sta_inBlock {b1 : Block} (hr : Runs s x 0x141 o hdr)
    (h : ∀ l ∈ lanesAt x o, Inside (regionAt x o) (widthOf o) (widthOf o) (ldaAddr o x.t l)
      ∧ (rgnPlanar (regionAt x o) = true → widthOf o = rgnWord (regionAt x o)))
    (hst : staLanes (regionAt x o) (s.seq + 1) x.r.troupe (ldaAddr o x.t) (registerBytes x.t o.dst.toNat (widthOf o))
      (lanesAt x o) x.b = (b1, [])) (htroupes : b1.troupes = x.b.troupes) :
    InBlock (.sta o) s x (ends 0x141 o x) 1 hdr b1 { Effect.none x.t with busy := true } := by
  obtain ⟨k, hb⟩ := staBody_eq (s := s) h hst
  exact inBlock_of_stores hr rfl htroupes hb

/-! ## LDAB and STAB -/

theorem unpackCodes_eq (ty x : Nat) : unpackCodes ty x
    = if decide (ty = 14 ∨ ty = 15) then joinElems 8 ((List.range 4).map (elemOf 6 x)) else x := by
  simp [unpackCodes, elemsOf]

theorem packCodes_eq (ty x : Nat) : packCodes ty x
    = if decide (ty = 14 ∨ ty = 15) then joinElems 6 ((List.range 4).map (elemOf 8 x)) else x := by
  simp [packCodes, elemsOf]

theorem slotBits_of_not_type64 {ty : Nat} (h : type64 ty = false) :
    slotBits ty = 4 ∨ slotBits ty = 8 ∨ slotBits ty = 16 ∨ slotBits ty = 32 := by
  simp only [type64] at h
  unfold slotBits typeBits
  rw [h]
  repeat' split
  all_goals simp_all

/-- A block has 4 lanes at least, so a troupe has 32 blocks at most. -/
theorem four_le_blockLanes (ty : Nat) : 4 ≤ blockLanes (eplOf ty) := by
  unfold blockLanes eplOf
  cases h : type64 ty
  · rcases slotBits_of_not_type64 h with h | h | h | h <;> simp [h]
  · simp

theorem mem_lanesInBlock {w epl k l : Nat} (h : l ∈ lanesInBlock w epl k) : k * blockLanes epl ≤ l ∧ l < w := by
  obtain ⟨i, -, hi⟩ := List.mem_filterMap.mp h
  obtain ⟨hw, hl⟩ := Option.ite_none_right_eq_some.mp hi
  cases hl
  exact ⟨Nat.le_add_right .., hw⟩

/-- The blocks of a block access: their lanes are selected lanes, one of them at least, and their numbers have tag bytes. -/
theorem mem_arenaBlocks {q : ArenaBlock} (h : q ∈ arenaBlocks o x.t (x.t.selected o.guard)) :
    q.block < 32 ∧ (∃ l, l ∈ q.lanes) ∧ ∀ l ∈ q.lanes, l ∈ lanesAt x o := by
  obtain ⟨k, hk, rfl⟩ := List.mem_map.mp h
  obtain ⟨l, hl, hs⟩ := List.any_eq_true.mp (List.mem_filter.mp hk).2
  refine ⟨?_, ⟨l, List.mem_filter.mpr ⟨hl, hs⟩⟩, fun m hm => ?_⟩
  · have hle : k * 4 ≤ k * blockLanes (eplOf (blockType o)) := Nat.mul_le_mul_left k (four_le_blockLanes _)
    have hlow := (mem_lanesInBlock hl).1
    have hlt := hasLane_lt hs
    show k < 32
    omega
  · obtain ⟨hin, hsel⟩ := List.mem_filter.mp hm
    exact mem_lanesAt (mem_lanesInBlock hin).2 hsel

/-- The blocks of a block access, the address of a lane of it, and the bytes of the lane. -/
abbrev blocksAt (x : Env) (o : Op) : List ArenaBlock := arenaBlocks o x.t (x.t.selected o.guard)
abbrev elemsAt (x : Env) (o : Op) (l : Nat) : Nat := x.t.operand 6 o o.a l
abbrev codesWidth (o : Op) : Nat := laneBytes (blockType o)

/-- The lanes of a block of an access are selected. -/
theorem selected_of_mem_block {q : ArenaBlock} (hq : q ∈ blocksAt x o) {l : Nat} (hl : l ∈ q.lanes) :
    hasLane (x.t.selected o.guard) l = true :=
  (Troupe.mem_lanesOf.mp ((mem_arenaBlocks hq).2.2 l hl)).2

/-- The codes that a lane of LDAB loads (10 R235; 02 R45). -/
abbrev codesRead (x : Env) (o : Op) (l : Nat) : Nat :=
  unpackCodes (blockType o) (x.b.arenaNat (presentAt (regionAt x o) + elemsAt x o l) (codesWidth o))

/-- The scale bytes that LDAB reads. -/
def scaleTags (x : Env) (o : Op) : List (Nat × Byte) :=
  (blocksAt x o).map (fun q => (q.block, x.b.rdArena (presentAt (regionAt x o) + q.scale)))

theorem scaleTags_lt : ∀ e ∈ scaleTags x o, e.1 < 32 := by
  intro e he
  obtain ⟨q, hq, rfl⟩ := List.mem_map.mp he
  exact (mem_arenaBlocks hq).1

theorem ldabBody_eq (h : ∀ l ∈ lanesAt x o, arenaBlockCheck o false x (regionAt x o) (blocksAt x o) l = none) :
    ∃ k, ldabBody o x s = .done ((s.bumpCore x.core 0x16 k).setTroupe x.r
      (x.t.loaded o (x.t.selected o.guard) (x.t.selected o.guard) [fun l => BitVec.ofNat 32 (laneVal
        ((lanesAt x o).map (fun l => (l, codesRead x o l))) l)] (scaleTags x o))) := by
  have hall : (blocksAt x o).filter (fun q => q.lanes.all (hasLane (x.t.selected o.guard))) = blocksAt x o :=
    List.filter_eq_self.mpr fun q hq => List.all_eq_true.mpr fun l hl => selected_of_mem_block hq hl
  unfold ldabBody
  dsimp only
  rw [arenaLanes_of_none h, maskOf_selected, hall]
  exact ⟨_, rfl⟩

theorem ldab_inBlock (hr : Runs s x 0x142 o hdr)
    (h : ∀ l ∈ lanesAt x o, arenaBlockCheck o false x (regionAt x o) (blocksAt x o) l = none) :
    InBlock (.ldab o) s x (ends 0x142 o x) 1 hdr x.b ((Effect.none x.t).toV x.t o.w o.dst.toNat (x.t.selected o.guard)
      [fun l => BitVec.ofNat 32 (codesRead x o l)] (scaleTags x o)) := by
  obtain ⟨k, hb⟩ := ldabBody_eq (s := s) h
  have hregs := toV_congr_selected (Effect.none x.t) x.t o.w o.dst.toNat (sel := x.t.selected o.guard) (scaleTags x o)
    (fs := [fun l => BitVec.ofNat 32 (laneVal ((lanesAt x o).map (fun l => (l, codesRead x o l))) l)])
    (gs := [fun l => BitVec.ofNat 32 (codesRead x o l)]) rfl fun i l hw hs => by
        cases i with
        | zero => exact congrArg (BitVec.ofNat 32) (laneVal_map (mem_lanesAt hw hs) _)
        | succ i => rfl
  rw [← hregs]
  exact inBlock_read hr rfl hb (takes_loaded _ _ _ _ scaleTags_lt)

/-- A block access that stores meets no planar region. -/
theorem rgnPlanar_of_blockCheck {d : DWord} {bs : List ArenaBlock} {l : Nat} (h : arenaBlockCheck o true x d bs l = none) :
    rgnPlanar d = false := by
  unfold arenaBlockCheck at h
  dsimp only at h
  unfold orFault at h
  split at h
  · cases h
  · simpa using h

/-- What STAB stores of a block, in the region of the access without planes (10 R235). -/
def storedBlock (x : Env) (o : Op) (seq : Nat) (b : Block) (q : ArenaBlock) : Block :=
  (q.lanes.foldl (fun b l => b.wrArena (rgnBase (regionAt x o) + elemsAt x o l)
    (bytesOf (codesWidth o) (packCodes (blockType o) (x.t.readV o.dst.toNat l).toNat)) seq (.store x.r.troupe)) b).wrArena
      (rgnBase (regionAt x o) + q.scale) [x.t.readTag o.dst.toNat q.block] seq (.store x.r.troupe)

theorem stabBlock_eq (hp : rgnPlanar (regionAt x o) = false) (seq : Nat) (b : Block) {q : ArenaBlock} (hq : q ∈ blocksAt x o) :
    stabBlock o x.t (regionAt x o) seq x.r.troupe (x.t.selected o.guard) b q = storedBlock x o seq b q := by
  unfold stabBlock storedBlock
  dsimp only
  rw [List.filter_eq_self.mpr fun l hl => selected_of_mem_block hq hl, nextAt_of_flat hp]

theorem foldl_eq_of_mem {α β : Type} {f g : β → α → β} {xs : List α} (h : ∀ y ∈ xs, ∀ b, f b y = g b y) (b : β) :
    xs.foldl f b = xs.foldl g b := by
  induction xs generalizing b with
  | nil => rfl
  | cons y ys ih =>
    rw [List.foldl_cons, List.foldl_cons, h y List.mem_cons_self, ih fun z hz => h z (List.mem_cons_of_mem _ hz)]

/-- STAB without faults stores its blocks. -/
theorem stabBody_eq (h : ∀ l ∈ lanesAt x o, arenaBlockCheck o true x (regionAt x o) (blocksAt x o) l = none) :
    ∃ k, stabBody o x s = .done (((s.bumpSeq.bumpCore x.core 0x16 k).setBlock x.r.cluster x.r.block
      ((blocksAt x o).foldl (storedBlock x o (s.seq + 1)) x.b)).owesFence x.r) := by
  have hon : (blocksAt x o).filter (fun q => q.lanes.any (hasLane (x.t.selected o.guard))) = blocksAt x o :=
    List.filter_eq_self.mpr fun q hq => by
      obtain ⟨-, ⟨l, hl⟩, -⟩ := mem_arenaBlocks hq
      exact List.any_eq_true.mpr ⟨l, hl, selected_of_mem_block hq hl⟩
  have hfold : (blocksAt x o).foldl (stabBlock o x.t (regionAt x o) (s.seq + 1) x.r.troupe (x.t.selected o.guard)) x.b
      = (blocksAt x o).foldl (storedBlock x o (s.seq + 1)) x.b :=
    foldl_eq_of_mem (fun q hq b => by
      obtain ⟨-, ⟨l, hl⟩, hin⟩ := mem_arenaBlocks hq
      exact stabBlock_eq (rgnPlanar_of_blockCheck (h l (hin l hl))) _ b hq) x.b
  unfold stabBody
  dsimp only [State.nextSeq]
  rw [arenaLanes_of_none h, maskOf_selected, hon, hfold]
  exact ⟨_, rfl⟩

/-- The blocks of STAB change the codes of the lanes and the scale bytes. -/
theorem keeps_storedBlocks (seq : Nat) : x.b.Keeps (fun k =>
      Unreached (lanesAt x o) (fun l => rgnBase (regionAt x o) + elemsAt x o l) (codesWidth o) k
        ∧ ∀ q ∈ blocksAt x o, k ≠ rgnBase (regionAt x o) + q.scale)
    ((blocksAt x o).foldl (storedBlock x o seq) x.b) := by
  refine Block.keeps_foldl (fun q hq b => Block.Keeps.trans
    (Block.keeps_foldl (fun l hl c => c.keeps_wrArena _ _ fun k hk => ?_) b) (Block.keeps_wrArena _ _ _ fun k hk => ?_)) x.b
  · rw [length_bytesOf]
    exact hk.1 l ((mem_arenaBlocks hq).2.2 l hl)
  · have hne := hk.2 q hq
    simp only [List.length_singleton]
    omega

theorem stab_inBlock (hr : Runs s x 0x143 o hdr)
    (h : ∀ l ∈ lanesAt x o, arenaBlockCheck o true x (regionAt x o) (blocksAt x o) l = none) :
    InBlock (.stab o) s x (ends 0x143 o x) 1 hdr ((blocksAt x o).foldl (storedBlock x o (s.seq + 1)) x.b)
      { Effect.none x.t with busy := true } := by
  obtain ⟨k, hb⟩ := stabBody_eq (s := s) h
  exact inBlock_of_stores hr rfl (keeps_storedBlocks _).1 hb

/-! ## ATOMA -/

/-- The bytes of an ATOMA and where a lane of it reads them. -/
abbrev atomWidth (o : Op) : Nat := memWidth (atomType o.c)
abbrev atomAt (x : Env) (o : Op) (l : Nat) : Nat := presentAt (regionAt x o) + x.t.operand 6 o o.a l

/-- The read-modify-write of a lane of ATOMA, with the old values that the lanes have read (10 R236). -/
def atomaStep (x : Env) (o : Op) (seq : Nat) (acc : Block × (Nat → Nat)) (l : Nat) : Block × (Nat → Nat) :=
  (acc.1.wrArena (atomAt x o l) (bytesOf (atomWidth o) (atomNew (atomOpOf o) (atomType o.c)
      (acc.1.arenaNat (atomAt x o l) (atomWidth o)) (x.t.operand (atomType o.c) o o.b l) (atomPrior o x.t l)))
    seq (.store x.r.troupe),
   fun j => if j = l then acc.1.arenaNat (atomAt x o l) (atomWidth o) else acc.2 j)

/-- A lane that takes no part keeps its old value. -/
theorem atomaStep_notMem {ls : List Nat} {j : Nat} (hj : j ∉ ls) (seq : Nat) (acc : Block × (Nat → Nat)) :
    (ls.foldl (atomaStep x o seq) acc).2 j = acc.2 j := by
  induction ls generalizing acc with
  | nil => rfl
  | cons l ls ih =>
    obtain ⟨hne, hrest⟩ := List.ne_and_not_mem_of_not_mem_cons hj
    exact (ih hrest _).trans (if_neg hne)

/-- Old values have the width of the access. -/
theorem atomaStep_lt {acc : Block × (Nat → Nat)} (h : ∀ j, acc.2 j < 256 ^ atomWidth o) (seq : Nat) (ls : List Nat) (j : Nat) :
    (ls.foldl (atomaStep x o seq) acc).2 j < 256 ^ atomWidth o := by
  induction ls generalizing acc with
  | nil => exact h j
  | cons l ls ih =>
    refine ih fun i => ?_
    show (if i = l then _ else acc.2 i) < _
    split
    · exact Block.arenaNat_lt ..
    · exact h i

/-- The read-modify-writes of different lanes in order, each old value listed as its lane reads it. -/
theorem atomaFold_eq (seq : Nat) {ls : List Nat} (hnd : ls.Nodup) (b : Block) (tab : List (Nat × Nat)) (g : Nat → Nat) :
    ls.foldl (fun acc l =>
        (acc.1.wrArena (atomAt x o l) (bytesOf (atomWidth o) (atomNew (atomOpOf o) (atomType o.c)
          (acc.1.arenaNat (atomAt x o l) (atomWidth o)) (atomOperand o x.t l) (atomPrior o x.t l))) seq (.store x.r.troupe),
         acc.2 ++ [(l, acc.1.arenaNat (atomAt x o l) (atomWidth o))])) (b, tab)
      = ((ls.foldl (atomaStep x o seq) (b, g)).1,
         tab ++ ls.map (fun l => (l, (ls.foldl (atomaStep x o seq) (b, g)).2 l))) := by
  induction ls generalizing b tab g with
  | nil => simp
  | cons l ls ih =>
    obtain ⟨hl, hrest⟩ := List.nodup_cons.mp hnd
    have hold : (ls.foldl (atomaStep x o seq) (atomaStep x o seq (b, g) l)).2 l = b.arenaNat (atomAt x o l) (atomWidth o) :=
      (atomaStep_notMem hl seq _).trans (if_pos rfl)
    rw [List.foldl_cons, ih hrest _ _ (atomaStep x o seq (b, g) l).2, List.foldl_cons, List.map_cons, hold,
      List.append_assoc]
    rfl

theorem atomaLanes_eq (seq : Nat) {ls : List Nat} (hnd : ls.Nodup) (b : Block) (g : Nat → Nat) :
    atomaLanes o x.t (regionAt x o) seq x.r.troupe (fun l => x.t.operand 6 o o.a l) b ls
      = ((ls.foldl (atomaStep x o seq) (b, g)).1, ls.map (fun l => (l, (ls.foldl (atomaStep x o seq) (b, g)).2 l))) :=
  atomaFold_eq seq hnd b [] g

/-- ATOMA without faults. -/
theorem atomaBody_eq (hdet : x.t.det = false ∨ x.t.selected o.guard = 0 ∨ o.c.extractLsb' 10 3 ≠ 0 ∨ atomType o.c ≠ 11)
    (hp : rgnPlanar (regionAt x o) = false)
    (h : ∀ l ∈ lanesAt x o, Inside (regionAt x o) (atomWidth o) (atomWidth o) (x.t.operand 6 o o.a l)
      ∧ x.b.arenaPoison (atomAt x o l) (atomWidth o) = false) (g : Nat → Nat) :
    ∃ k, atomaBody o x s = .done ((((s.bumpSeq.bumpCore x.core 0x16 k).setBlock x.r.cluster x.r.block
      ((lanesAt x o).foldl (atomaStep x o (s.seq + 1)) (x.b, g)).1).setTroupe x.r
        (x.t.loaded o (x.t.selected o.guard) (x.t.selected o.guard) (loadRegs (atomType o.c) false
          ((lanesAt x o).map (fun l => (l, ((lanesAt x o).foldl (atomaStep x o (s.seq + 1)) (x.b, g)).2 l)))) [])).owesFence x.r) := by
  have hop : atomOpOf o = 0 ↔ o.c.extractLsb' 10 3 = 0 := BitVec.toNat_inj (y := 0#3)
  have hnd : (lanesAt x o).Nodup := List.nodup_range.filter _
  unfold atomaBody
  dsimp only [State.nextSeq]
  rw [if_neg, arenaLanes_of_none fun l hl => ?_, maskOf_selected]
  · dsimp only
    rw [atomaLanes_eq (s.seq + 1) hnd x.b g]
    exact ⟨_, rfl⟩
  · obtain ⟨hin, hpoison⟩ := h l hl
    simp [atomaCheck, orFault, arenaBounds_of_inside hin, hp, hpoison]
  · intro hd
    simp only [Bool.and_eq_true, decide_eq_true_eq, hop] at hd
    obtain ⟨⟨⟨hdet', hsel⟩, hop'⟩, hty⟩ := hd
    rcases hdet with h | h | h | h
    · exact absurd (hdet'.symm.trans h) (by decide)
    · exact hsel h
    · exact h hop'
    · exact h hty

/-- ATOMA changes the bytes of its lanes alone. -/
theorem keeps_atomaSteps {kept : Nat → Prop} {ls : List Nat}
    (hk : ∀ l ∈ ls, ∀ k, kept k → k < atomAt x o l ∨ atomAt x o l + atomWidth o ≤ k) (seq : Nat) (acc : Block × (Nat → Nat)) :
    acc.1.Keeps kept (ls.foldl (atomaStep x o seq) acc).1 := by
  induction ls generalizing acc with
  | nil => exact Block.keeps_refl ..
  | cons l ls ih =>
    refine Block.Keeps.trans (Block.keeps_wrArena _ _ _ ?_)
      (ih (fun m hm => hk m (List.mem_cons_of_mem _ hm)) (atomaStep x o seq acc l))
    rw [length_bytesOf]
    exact hk l List.mem_cons_self

theorem keeps_atoma (seq : Nat) : x.b.Keeps (Unreached (lanesAt x o) (atomAt x o) (atomWidth o))
    ((lanesAt x o).foldl (atomaStep x o seq) (x.b, fun _ => 0)).1 :=
  keeps_atomaSteps (fun l hl _ hk => hk l hl) seq (x.b, fun _ => 0)

theorem atoma_inBlock (hr : Runs s x 0x144 o hdr)
    (hdet : x.t.det = false ∨ x.t.selected o.guard = 0 ∨ o.c.extractLsb' 10 3 ≠ 0 ∨ atomType o.c ≠ 11)
    (hp : rgnPlanar (regionAt x o) = false)
    (h : ∀ l ∈ lanesAt x o, Inside (regionAt x o) (atomWidth o) (atomWidth o) (x.t.operand 6 o o.a l)
      ∧ x.b.arenaPoison (atomAt x o l) (atomWidth o) = false) :
    InBlock (.atoma o) s x (ends 0x144 o x) 1 hdr ((lanesAt x o).foldl (atomaStep x o (s.seq + 1)) (x.b, fun _ => 0)).1
      { (Effect.none x.t).toV x.t o.w o.dst.toNat (x.t.selected o.guard) (loadedRegs (atomType o.c) (atomWidth o)
          ((lanesAt x o).foldl (atomaStep x o (s.seq + 1)) (x.b, fun _ => 0)).2) [] with busy := true } := by
  obtain ⟨k, hb⟩ := atomaBody_eq (s := s) hdet hp h (fun _ => 0)
  rw [← toV_loadRegs _ _ _ _ _ fun l hw hs =>
    ⟨laneVal_map (mem_lanesAt hw hs) _, atomaStep_lt (fun _ => Nat.pow_pos (by omega)) _ _ l⟩]
  exact inBlock_store hr rfl (keeps_atoma _).1 hb (takes_loaded _ _ _ _ (by simp))

/-! ## RGQ -/

theorem rgq_completes (hr : Runs s x 0x146 o hdr) : Completes (.rgq o) s x (ends 0x146 o x) 1 hdr
    ((Effect.none x.t).toS x.t false o.w o.dst.toNat
      (if rgnV (regionAt x o) then [(regionAt x o).extractLsb' 0 32, (regionAt x o).extractLsb' 32 32] else [0, 0])) := by
  have hv : [(if rgnV (regionAt x o) then regionAt x o else 0).extractLsb' 0 32,
        (if rgnV (regionAt x o) then regionAt x o else 0).extractLsb' 32 32]
      = if rgnV (regionAt x o) then [(regionAt x o).extractLsb' 0 32, (regionAt x o).extractLsb' 32 32] else [0, 0] := by
    split <;> rfl
  rw [← hv]
  exact completes_produceS hr rfl false o.w _ _ rfl

end

/-! ## The claim -/

theorem arenaAccesses : ArenaAccesses := by
  intro s x o hdr
  refine ⟨fun hr h => lda_inBlock hr h, fun hr h => ⟨fun hp => ?_, fun b1 hp hst => ?_⟩,
    ⟨fun hr h => ?_, fun hr h => ?_⟩, fun hr hdet hp h => ?_, fun hr => rgq_completes hr⟩
  · obtain ⟨htroupes, hkept⟩ := keeps_flatStores (d := regionAt x o) (n := widthOf o) (off := ldaAddr o x.t)
      (bytes := registerBytes x.t o.dst.toNat (widthOf o)) (fun l => by simp [registerBytes]) (s.seq + 1) x.r.troupe
      (lanesAt x o) x.b
    exact ⟨sta_inBlock hr h (staLanes_flat hp ..) htroupes, hkept⟩
  · obtain ⟨htroupes, hkept⟩ := keeps_planarStores
      (kept := Unreached (lanesAt x o) (fun l => nextAt (regionAt x o) + ldaAddr o x.t l) (widthOf o))
      (fun l hl k hk => (h l hl).2 hp ▸ hk l hl) hst
    exact ⟨sta_inBlock hr h (staLanes_planar hp hst) htroupes, hkept⟩
  · have hld := ldab_inBlock hr h
    simp only [codesRead, unpackCodes_eq] at hld
    exact hld
  · have hst := stab_inBlock hr h
    have hkeeps := keeps_storedBlocks (x := x) (o := o) (s.seq + 1)
    unfold storedBlock at hst hkeeps
    simp only [packCodes_eq] at hst hkeeps
    exact ⟨hst, fun k hk hs => hkeeps.2 k ⟨hk, hs⟩⟩
  · exact ⟨atoma_inBlock hr hdet hp h, (keeps_atoma _).2⟩

/-- Settles O33: each access by the equation of its body where no lane has a fault, and the order of planar stores by what
decides the value of a word. -/
theorem arenaAccessesAndPlanes : Obligations.ArenaAccessesAndPlanes := ⟨arenaAccesses, planarStoresDoNotDependOnOrder⟩

end Sys2Proof.Claims
end
